-- ==== Sys2Proof/Word.lean ====
section
/-!
DEFINITION. The machine's word types, the parts every instruction word shares (R63, R66), and the
small value types that name the parts of the machine in events. Only types and constants stand here:
every computation that a test could show wrong is in Decode.lean or under Machine/.
-/

namespace Sys2Proof

/-- A byte of memory (R163: a location is one byte). -/
abbrev Byte := BitVec 8
/-- A 32-bit register value (R10). -/
abbrev W32 := BitVec 32
/-- A 64-bit pair, an address or an instruction word (R7). -/
abbrev W64 := BitVec 64
/-- The widest access, TYPE .b128 (R66). -/
abbrev W128 := BitVec 128
/-- A lane mask of a warp with WIDTH = 32 (R3, R42). -/
abbrev Mask := BitVec 32
/-- An 8-bit operand code (R70). -/
abbrev Code := BitVec 8

/-- WIDTH of this part (R3). -/
abbrev width : Nat := 32

/-- DIST and PRED of an instruction word (R63): DIST holds k − 1, `neg` is PRED.NEG, `idx` PRED.IDX. -/
structure Hdr where
  dist : BitVec 3
  neg : Bool
  idx : BitVec 3
  deriving DecidableEq, Repr

/-- The fields of a format M word below its operand codes (R66). -/
structure MFld where
  ty : BitVec 4
  scope : BitVec 3
  sem : BitVec 2
  cache : BitVec 4
  off : BitVec 11
  deriving DecidableEq, Repr

/-- A warp, named by its core, its partition in the core and its warp slot in the partition (R96, PLACE). -/
structure WarpKey where
  core : Nat
  part : Nat
  slot : Nat
  deriving DecidableEq, Repr

/-- What a HOME_ACCESS performs: one access of a thread, by its number, or one destination sector
write of an engine operation in a core's future slot (R164, R354). -/
inductive HomeReq where
  | thread (id : Nat)
  | sector (core slot sector : Nat)
  deriving DecidableEq, Repr

/-- A barrier instance: level (0 block, 1 cluster, 2 grid; R198), the block, cluster or launch it belongs to
and the barrier number. -/
structure BarKey where
  lvl : Nat
  launch : Nat
  unit : Nat
  num : Nat
  deriving DecidableEq, Repr

/-- The access types a peer request can carry (R329, R365). -/
inductive PeerOp where
  | load
  | store
  | atom (ty : BitVec 4)
  | cas
  | red (ty : BitVec 4)
  deriving DecidableEq, Repr

/-- A request of a peer device as it arrives at a UALink port (R364, R365). -/
structure PeerReq where
  key : BitVec 8
  op : PeerOp
  va : W64
  bytes : Nat
  data : W128
  cmp : W64
  sem : BitVec 2
  scope : BitVec 3
  seq : W32
  deriving DecidableEq, Repr

/-- A key id as a record forwarded by another device carries it, at the link port where it arrives (R307). -/
structure PortKey where
  port : Nat
  key : BitVec 8
  deriving DecidableEq, Repr

/-- One reading of a core by the Kiln (R314): temperature in degrees, droop events of the last 1 ms. -/
structure ConeReading where
  core : Nat
  temp : Nat
  droops : Nat
  deriving DecidableEq, Repr

end Sys2Proof
end

