-- ==== Sys2Proof/Config.lean ====
section
/-!
DEFINITION. What this part fixes (the figures of the spec that other files share) and the values that the spec leaves open.
A free value is a constant with no body: nothing can be proved about it, so a claim that mentions it holds for every value.
Its first argument is a counter of State that the machine advances, its second the place that asks (log 4).
-/

namespace Sys2Proof

/-- An unspecified 32-bit value (R73, R82, R160, R327, R367) (DESIGN CHOICE, log 4). -/
opaque Config.freeWord : Nat → Nat → W32
/-- An unspecified choice of two outcomes (R82, R106, R137, R153, R276). -/
opaque Config.freeBit : Nat → Nat → Bool
/-- An unspecified natural number (R279, R349). -/
opaque Config.freeNat : Nat → Nat → Nat
/-- The fixed function of the input, not published, by which a special function chooses among the values within its bound
(R125): the function's number and the input's bits. -/
opaque Config.pick : Nat → W32 → Nat
/-- The function, not published, that gives a line of 128 bytes its home slice in the part (R5). -/
opaque Config.slice : Nat → Nat
/-- Whether an image's two signatures verify (R371), by its bytes. -/
opaque Config.signed : List Byte → Bool
/-- The evidence that ATTEST writes (R370, R371): nonce and active bank. -/
opaque Config.evidence : List Byte → Nat → List Byte

/-- Cores of the part (R2). -/
abbrev Config.cores : Nat := 256
/-- Partitions of a core (R3). -/
abbrev Config.parts : Nat := 4
/-- Warp slots of a partition (R3). -/
abbrev Config.slots : Nat := 16
/-- Future slots of a core (R37). -/
abbrev Config.futures : Nat := 256
/-- Range-scoreboard entries of a core (R151). -/
abbrev Config.rangeEntries : Nat := 32
/-- Tentative-line entries of a core (R290). -/
abbrev Config.tentLines : Nat := 64
/-- Register words of a partition: 64 KiB (R30). -/
abbrev Config.regWords : Nat := 16384
/-- Scratchpad bytes of a core (R4). -/
abbrev Config.scratch : Nat := 524288
/-- Bytes of the HBM stacks: 8 of 64 GB (R2) (DEDUCED: a GB is 2^30 bytes, log 98). -/
abbrev Config.hbm : Nat := 512 * 2 ^ 30
/-- Bytes of the second tier: 8 ports of 1,536 GB (R2) (DEDUCED, log 98). -/
abbrev Config.tier2 : Nat := 12288 * 2 ^ 30
/-- Lines of a core's L1: 64 KiB (R4). -/
abbrev Config.l1Lines : Nat := 512
/-- Home slices of the part: 64 on each die (R5). -/
abbrev Config.slices : Nat := 256
/-- Lines of a die's L2: 53 MiB (R5). -/
abbrev Config.l2Lines : Nat := 434176
/-- Page walks of a die (R149). -/
abbrev Config.walks : Nat := 256
/-- Longest life of an L1 line of a C or U page, in clk (R165). -/
abbrev Config.l1Life : Nat := 8192
/-- Split-table entries of a warp (R14). -/
abbrev Config.splits : Nat := 8
/-- What a byte that nothing has written reads as (DESIGN CHOICE, log 3). -/
abbrev Config.unlisted : Byte := 0#8
/-- Release latency of a barrier in clk by level: block, cluster, grid of one device, grid across devices (R197). The last
two are 180 ns and 1.6 µs in clk of 1.3 GHz (PRESUMED, log 20). -/
def Config.release (lvl : Nat) (pod : Bool) : Nat :=
  match lvl with
  | 0 => 12
  | 1 => 30
  | _ => if pod then 2080 else 234

end Sys2Proof
end

