-- ==== Sys2Proof/Syntax.lean ====
section
/-!
DEFINITION. The part's steps as one inductive: one constructor per row of spec/opcode_table.json. The first
rows are the instruction words of R86 (an immediate form, FENCE.wb, FTEST.raw and FCANCEL.raw are rows of their
own); each carries DIST and PRED (R63) and the fields of its format that its entry defines, operand codes as R70
codes. The other rows are the events of the part: each names the object it happens to and carries what
arrives from outside the device.
-/

namespace Sys2Proof

/-- Every step of the part (spec/opcode_table.json). -/
inductive Instr where
  -- Integer and bit operations (R374, R382, R387, R420 to R427, R449, R450, R453, R466, R467, R478, R482, R483, R513)
  /-- IADD (R422). -/
  | iadd (h : Hdr) (d a b : Code) (sat : BitVec 2)
  /-- IADD_IMM (R422). -/
  | iaddImm (h : Hdr) (d a : Code) (imm : W32)
  /-- ISUB (R422). -/
  | isub (h : Hdr) (d a b : Code) (sat : BitVec 2)
  /-- ISUB_IMM (R422). -/
  | isubImm (h : Hdr) (d a : Code) (imm : W32)
  /-- IMUL (R422). -/
  | imul (h : Hdr) (d a b : Code) (sat : BitVec 2)
  /-- IMUL_IMM (R422). -/
  | imulImm (h : Hdr) (d a : Code) (imm : W32)
  /-- IMULH (R422). -/
  | imulh (h : Hdr) (d a b : Code) (nat : Bool)
  /-- IMAD (R422). -/
  | imad (h : Hdr) (d a b c : Code)
  /-- IDIV (R425). -/
  | idiv (h : Hdr) (d a b : Code) (signed rem : Bool)
  /-- IDOT4 (R426). -/
  | idot4 (h : Hdr) (d a b c : Code) (sa sb : Bool)
  /-- IMIN (R427). -/
  | imin (h : Hdr) (d a b : Code) (nat : Bool)
  /-- IMIN_IMM (R427). -/
  | iminImm (h : Hdr) (d a : Code) (imm : W32)
  /-- IMAX (R427). -/
  | imax (h : Hdr) (d a b : Code) (nat : Bool)
  /-- IMAX_IMM (R427). -/
  | imaxImm (h : Hdr) (d a : Code) (imm : W32)
  /-- IABS (R420). -/
  | iabs (h : Hdr) (d a : Code)
  /-- INEG (R420). -/
  | ineg (h : Hdr) (d a : Code)
  /-- AND (R374). -/
  | and (h : Hdr) (d a b : Code)
  /-- AND_IMM (R374). -/
  | andImm (h : Hdr) (d a : Code) (imm : W32)
  /-- OR (R450). -/
  | or (h : Hdr) (d a b : Code)
  /-- OR_IMM (R450). -/
  | orImm (h : Hdr) (d a : Code) (imm : W32)
  /-- XOR (R513). -/
  | xor (h : Hdr) (d a b : Code)
  /-- XOR_IMM (R513). -/
  | xorImm (h : Hdr) (d a : Code) (imm : W32)
  /-- NOT (R449). -/
  | not (h : Hdr) (d a : Code)
  /-- SHL (R483). -/
  | shl (h : Hdr) (d a b : Code)
  /-- SHL_IMM (R483). -/
  | shlImm (h : Hdr) (d a : Code) (imm : W32)
  /-- SHR (R483). -/
  | shr (h : Hdr) (d a b : Code)
  /-- SHR_IMM (R483). -/
  | shrImm (h : Hdr) (d a : Code) (imm : W32)
  /-- SAR (R467). -/
  | sar (h : Hdr) (d a b : Code)
  /-- SAR_IMM (R467). -/
  | sarImm (h : Hdr) (d a : Code) (imm : W32)
  /-- ROT (R467). -/
  | rot (h : Hdr) (d a b : Code) (right : Bool)
  /-- ROT_IMM (R467). -/
  | rotImm (h : Hdr) (d a : Code) (imm : W32)
  /-- CLZ (R387). -/
  | clz (h : Hdr) (d a : Code)
  /-- POPC (R453). -/
  | popc (h : Hdr) (d a : Code)
  /-- BREV (R387). -/
  | brev (h : Hdr) (d a : Code)
  /-- BFX (R382). -/
  | bfx (h : Hdr) (d a b : Code) (signed : Bool)
  /-- BFI (R382). -/
  | bfi (h : Hdr) (d a b c : Code)
  /-- ICMP (R424). -/
  | icmp (h : Hdr) (d a b : Code) (cc : BitVec 4)
  /-- ICMP_IMM (R424). -/
  | icmpImm (h : Hdr) (d a : Code) (cc : BitVec 4) (imm : BitVec 28)
  /-- SEL (R478). -/
  | sel (h : Hdr) (d a b c : Code) (nc : Bool)
  -- Moves and addresses (R439, R444, R445)
  /-- MOV (R445). -/
  | mov (h : Hdr) (d a : Code) (w64 : Bool)
  /-- MOVI (R445). -/
  | movi (h : Hdr) (d : Code) (imm : W32)
  /-- MOVHI (R445). -/
  | movhi (h : Hdr) (d a : Code) (imm : W32)
  /-- LEA (R439). -/
  | lea (h : Hdr) (d : Code) (cbr : Bool) (imm : W32)
  -- Float (R397 to R399, R406, R407, R411, R412, R415)
  /-- FADD (R407). -/
  | fadd (h : Hdr) (d a b : Code)
  /-- FADD_IMM (R407). -/
  | faddImm (h : Hdr) (d a : Code) (imm : W32)
  /-- FSUB (R407). -/
  | fsub (h : Hdr) (d a b : Code)
  /-- FSUB_IMM (R407). -/
  | fsubImm (h : Hdr) (d a : Code) (imm : W32)
  /-- FMUL (R407). -/
  | fmul (h : Hdr) (d a b : Code)
  /-- FMUL_IMM (R407). -/
  | fmulImm (h : Hdr) (d a : Code) (imm : W32)
  /-- FFMA (R407). -/
  | ffma (h : Hdr) (d a b c : Code)
  /-- FMIN (R412). -/
  | fmin (h : Hdr) (d a b : Code)
  /-- FMIN_IMM (R412). -/
  | fminImm (h : Hdr) (d a : Code) (imm : W32)
  /-- FMAX (R412). -/
  | fmax (h : Hdr) (d a b : Code)
  /-- FMAX_IMM (R412). -/
  | fmaxImm (h : Hdr) (d a : Code) (imm : W32)
  /-- FCMP (R412). -/
  | fcmp (h : Hdr) (d a b : Code) (cc : BitVec 4)
  /-- FCMP_IMM (R412). -/
  | fcmpImm (h : Hdr) (d a : Code) (cc : BitVec 4) (imm : BitVec 28)
  /-- FABS (R406). -/
  | fabs (h : Hdr) (d a : Code)
  /-- FNEG (R406). -/
  | fneg (h : Hdr) (d a : Code)
  /-- FRND (R415). -/
  | frnd (h : Hdr) (d a : Code)
  /-- CVT (R399). -/
  | cvt (h : Hdr) (d a : Code) (sr : Bool) (dst src : BitVec 4)
  -- Special functions (R125, R126)
  /-- RCP (R456). -/
  | rcp (h : Hdr) (d a : Code)
  /-- RSQ (R456). -/
  | rsq (h : Hdr) (d a : Code)
  /-- SQRT (R490). -/
  | sqrt (h : Hdr) (d a : Code)
  /-- EX2 (R403). -/
  | ex2 (h : Hdr) (d a : Code)
  /-- LG2 (R441). -/
  | lg2 (h : Hdr) (d a : Code)
  /-- SIN (R484). -/
  | sin (h : Hdr) (d a : Code)
  /-- COS (R391). -/
  | cos (h : Hdr) (d a : Code)
  /-- TANH (R497). -/
  | tanh (h : Hdr) (d a : Code)
  -- Cross-lane and predicates (R433, R434, R451, R452, R488, R509, R510, R203)
  /-- LSHFL (R434). -/
  | lshfl (h : Hdr) (d a b : Code) (k : BitVec 3) (mode : BitVec 2)
  /-- LBCST (R434). -/
  | lbcst (h : Hdr) (d a b : Code) (first : Bool)
  /-- LVOTE (R434). -/
  | lvote (h : Hdr) (d a : Code) (mode : BitVec 2)
  /-- LREDX (R434). -/
  | lredx (h : Hdr) (d a : Code) (op : BitVec 4)
  /-- LSCAN (R434). -/
  | lscan (h : Hdr) (d a : Code) (op : BitVec 4) (excl : Bool)
  /-- LMATCH (R434). -/
  | lmatch (h : Hdr) (d a : Code) (w64 : Bool)
  /-- LELECT (R434). -/
  | lelect (h : Hdr) (d : Code) (hi : Bool)
  /-- SPK24 (R488). -/
  | spk24 (h : Hdr) (d a : Code) (fmt : BitVec 2)
  /-- VCOMPACT (R510). -/
  | vcompact (h : Hdr) (d a b c : Code) (nc : Bool)
  /-- PAND (R452). -/
  | pand (h : Hdr) (d a b : Code) (na nb : Bool)
  /-- POR (R452). -/
  | por (h : Hdr) (d a b : Code) (na nb : Bool)
  /-- PXOR (R452). -/
  | pxor (h : Hdr) (d a b : Code) (na nb : Bool)
  /-- PNOT (R452). -/
  | pnot (h : Hdr) (d a : Code)
  /-- WSYNC (R204). -/
  | wsync (h : Hdr) (a : Code)
  -- Memory (format M)
  /-- LD (R436). -/
  | ld (h : Hdr) (d a b : Code) (m : MFld)
  /-- ST (R493). -/
  | st (h : Hdr) (d a b : Code) (m : MFld)
  /-- PREF (R455). -/
  | pref (h : Hdr) (a b : Code) (m : MFld)
  /-- ATOM (R376). -/
  | atom (h : Hdr) (d a b : Code) (m : MFld)
  /-- CAS (R376). -/
  | cas (h : Hdr) (d a b : Code) (m : MFld)
  /-- RED (R461). -/
  | red (h : Hdr) (d a : Code) (m : MFld)
  /-- STT (R496). -/
  | stt (h : Hdr) (d a b : Code) (m : MFld)
  /-- RETRACT (R465). -/
  | retract (h : Hdr) (d a : Code) (m : MFld)
  /-- COMMIT (R389). -/
  | commit (h : Hdr) (a : Code) (m : MFld)
  /-- FENCE_FULL (R180). -/
  | fenceFull (h : Hdr) (scope : BitVec 3) (cache : BitVec 4)
  /-- FENCE_WB (R181). -/
  | fenceWb (h : Hdr) (a b : Code) (scope : BitVec 3) (cache : BitVec 4)
  /-- MWAIT (R215). -/
  | mwait (h : Hdr) (d a b : Code) (m : MFld)
  /-- ENTER (R401). -/
  | enter (h : Hdr) (n : BitVec 11)
  /-- LEAVE (R440). -/
  | leave (h : Hdr)
  -- Control and system
  /-- NOP (R448). -/
  | nop (h : Hdr)
  /-- BRA (R385). -/
  | bra (h : Hdr) (woff : W32)
  /-- BRC (R385). -/
  | brc (h : Hdr) (neg : Bool) (idx : BitVec 3) (woff : W32)
  /-- BRX (R385). -/
  | brx (h : Hdr) (a : Code)
  /-- CALL (R385). -/
  | call (h : Hdr) (woff : W32)
  /-- CALLX (R385). -/
  | callx (h : Hdr) (a : Code)
  /-- RET (R463). -/
  | ret (h : Hdr)
  /-- JOINH (R26). -/
  | joinh (h : Hdr) (n : BitVec 7)
  /-- EXIT (R404). -/
  | exit (h : Hdr)
  /-- YIELD (R514). -/
  | yield (h : Hdr)
  /-- TRAP (R505). -/
  | trap (h : Hdr) (code : BitVec 16)
  /-- TRAPRET (R324). -/
  | trapret (h : Hdr)
  /-- BKPT (R383). -/
  | bkpt (h : Hdr) (code : BitVec 16)
  /-- CSRR (R95). -/
  | csrr (h : Hdr) (d : Code) (num : BitVec 12)
  /-- CSRW (R94). -/
  | csrw (h : Hdr) (a : Code) (num : BitVec 12)
  /-- CLOCK (R388). -/
  | clock (h : Hdr) (d : Code)
  /-- ICINV (R107). -/
  | icinv (h : Hdr)
  /-- BAR (R379). -/
  | bar (h : Hdr) (lvl : BitVec 2) (num : BitVec 4)
  /-- BARA (R379). -/
  | bara (h : Hdr) (lvl : BitVec 2) (num : BitVec 4)
  /-- BARW (R379). -/
  | barw (h : Hdr) (lvl : BitVec 2) (num : BitVec 4)
  /-- LAUNCH (R432). -/
  | launch (h : Hdr) (d a b : Code)
  -- Engines (format E)
  /-- CPY (R393). -/
  | cpy (h : Hdr) (d a b : Code)
  /-- CPYG (R155). -/
  | cpyg (h : Hdr) (d a b c : Code) (mq : Bool) (slot : BitVec 2)
  /-- CPYT (R393). -/
  | cpyt (h : Hdr) (d a b c : Code) (mq : Bool) (slot : BitVec 2)
  /-- MSEAT (R252). -/
  | mseat (h : Hdr) (d a b c : Code) (i4 sp : Bool)
  /-- MMUL (R261). -/
  | mmul (h : Hdr) (d a b c : Code) (p : BitVec 4) (arm : Bool) (slot : BitVec 2)
  /-- MPROM (R251). -/
  | mprom (h : Hdr) (d c : Code)
  /-- MREAD (R251). -/
  | mread (h : Hdr) (d a b c : Code)
  /-- MCLR (R251). -/
  | mclr (h : Hdr) (d c : Code)
  /-- MSTAT (R265). -/
  | mstat (h : Hdr) (d : Code)
  /-- TDSET (R499). -/
  | tdset (h : Hdr) (a b : Code)
  /-- TDGET (R500). -/
  | tdget (h : Hdr) (d a : Code)
  /-- FTEST (R211). -/
  | ftest (h : Hdr) (d a : Code)
  /-- FTEST_RAW (R212). -/
  | ftestRaw (h : Hdr) (d a : Code)
  /-- FWAIT (R213). -/
  | fwait (h : Hdr) (d a : Code)
  /-- FCANCEL (R214). -/
  | fcancel (h : Hdr) (a : Code)
  /-- FCANCEL_RAW (R214). -/
  | fcancelRaw (h : Hdr) (a : Code)
  /-- SNEW (R487). -/
  | snew (h : Hdr) (d : Code) (far : Bool)
  /-- SFREE (R481). -/
  | sfree (h : Hdr) (d a : Code)
  /-- SINS (R474). -/
  | sins (h : Hdr) (d a b c : Code)
  /-- SDEL (R474). -/
  | sdel (h : Hdr) (d a b c : Code)
  /-- SMEMB (R485). -/
  | smemb (h : Hdr) (d a b : Code)
  /-- SCARD (R472). -/
  | scard (h : Hdr) (d a : Code)
  /-- SUNION (R476). -/
  | sunion (h : Hdr) (d a b : Code) (snap : Bool)
  /-- SINTER (R476). -/
  | sinter (h : Hdr) (d a b : Code) (snap : Bool)
  /-- SDIFF (R476). -/
  | sdiff (h : Hdr) (d a b : Code) (snap : Bool)
  /-- SENUM (R479). -/
  | senum (h : Hdr) (d a b c : Code)
  /-- SREP (R491). -/
  | srep (h : Hdr) (d a b : Code)
  /-- SCOST (R473). -/
  | scost (h : Hdr) (d a b : Code) (op : BitVec 2) (snap : Bool)
  /-- TQLOAD (R269). -/
  | tqload (h : Hdr) (d a : Code)
  /-- TQRY (R273). -/
  | tqry (h : Hdr) (d a : Code)
  /-- TQFREE (R271). -/
  | tqfree (h : Hdr) (d a : Code)
  /-- IRED (R276). -/
  | ired (h : Hdr) (d a : Code)
  /-- RECRUIT (R294). -/
  | recruit (h : Hdr) (d a : Code) (imm : W32)
  /-- HLDR (R416). -/
  | hldr (h : Hdr) (d a : Code)
  /-- HRELEASE (R296). -/
  | hrelease (h : Hdr)
  /-- HJOIN (R300). -/
  | hjoin (h : Hdr) (d a : Code) (op : BitVec 4)
  -- Issue and threads
  /-- PARTITION_ISSUE_CLK (R23). -/
  | partitionIssueClk (core part : Nat)
  /-- RUN_FETCH_COMPLETE (R105). -/
  | runFetchComplete (core part ctx : Nat) (pc : W64)
  /-- RUN_END (R19). -/
  | runEnd (w : WarpKey) (lane : Nat)
  /-- JOINH_HOLD_EXPIRY (R26). -/
  | joinhHoldExpiry (w : WarpKey) (lane : Nat)
  /-- YIELD_EXPIRY (R514). -/
  | yieldExpiry (w : WarpKey) (lane : Nat)
  /-- LONG_LATENCY_COMPLETE (R78). -/
  | longLatencyComplete (id : Nat)
  /-- ENGINE_FORK_RELEASE (R175). -/
  | engineForkRelease (core slot : Nat)
  /-- ENGINE_OP_COMPLETE (R35). -/
  | engineOpComplete (core slot : Nat)
  /-- RANGE_ENTRY_RETIRE (R153). -/
  | rangeEntryRetire (core entry : Nat)
  /-- PAGE_WALK_COMPLETE (R149). -/
  | pageWalkComplete (ctx vpage : Nat)
  /-- HOME_ACCESS (R164). -/
  | homeAccess (r : HomeReq)
  /-- L1_LINE_EXPIRY (R165). -/
  | l1LineExpiry (core line : Nat)
  /-- STACK_FILL_COMPLETE (R160). -/
  | stackFillComplete (w : WarpKey) (lane : Nat)
  /-- MWAIT_WAKE (R216). -/
  | mwaitWake (id : Nat)
  /-- BARRIER_RELEASE (R199). -/
  | barrierRelease (b : BarKey)
  /-- BARRIER_MESSAGE (R197). -/
  | barrierMessage (b : BarKey) (rank : Nat)
  /-- TRAP_ENTRY (R319). -/
  | trapEntry (w : WarpKey)
  /-- WATCHDOG_TICK (R316). -/
  | watchdogTick (ctx : Nat)
  /-- WATCHDOG_DEADLOCK (R316). -/
  | watchdogDeadlock (ctx : Nat)
  /-- LINK_LOST (R202). -/
  | linkLost (rank : Nat)
  -- Engines
  /-- MATRIX_COMMAND_ACCEPT (R247). -/
  | matrixCommandAccept (core slot : Nat)
  /-- SET_KEY_APPEND (R234). -/
  | setKeyAppend (core slot : Nat)
  /-- FOLD_IDLE_START (R235). -/
  | foldIdleStart (ctx idx : Nat)
  /-- FOLD_PUBLISH (R236). -/
  | foldPublish (ctx idx : Nat)
  /-- BUCKET_ITEM_GRANT (R278). -/
  | bucketItemGrant (stack : Nat)
  /-- STACK_ACTIVATION_ALERT (R279). -/
  | stackActivationAlert (stack ctx table : Nat) (ops : List (Nat × Nat)) (lost : Nat)
  -- Remote and dispatch
  /-- REMOTE_REQUEST_RECEIVE (R365). -/
  | remoteRequestReceive (port : Nat) (r : PeerReq)
  /-- REMOTE_ERROR_RESPONSE (R329). -/
  | remoteErrorResponse (id : Nat) (cause : BitVec 5)
  /-- PORT_SEND_ROUND (R366). -/
  | portSendRound (port : Nat)
  /-- QUEUE_DOORBELL (R363). -/
  | queueDoorbell (q : Nat) (tail : W32)
  /-- QUEUE_RESTART (R363). -/
  | queueRestart (q : Nat)
  /-- SIGNAL_WORD_CHECK (R308). -/
  | signalWordCheck (q : Nat)
  /-- DISPATCH_PLACE_BLOCK (R302). -/
  | dispatchPlaceBlock 
  /-- PLACEMENT_WAIT_EXPIRY (R311). -/
  | placementWaitExpiry (launch : Nat)
  /-- CONTEXT_SAVE_COMPLETE (R331). -/
  | contextSaveComplete (blk : Nat)
  /-- BLOCK_RESTORE (R331). -/
  | blockRestore (blk : Nat)
  /-- KILN_CONE_READ (R314). -/
  | kilnConeRead (rs : List ConeReading)
  /-- LAUNCH_FORWARD (R307). -/
  | launchForward (q : Nat) (key : PortKey) (record : BitVec 512) (origin : Nat)
  /-- RANK_DONE_MESSAGE (R307). -/
  | rankDoneMessage (launch rank : Nat) (ok : Bool)
  -- Debug, host and Kiln
  /-- HALT (R341). -/
  | halt (w : WarpKey)
  /-- RESUME (R344). -/
  | resume (w : WarpKey)
  /-- STEP (R343). -/
  | step (w : WarpKey) (path : Nat)
  /-- STEPALL (R343). -/
  | stepAll (w : WarpKey)
  /-- DEBUG_CSR_WRITE (R353). -/
  | debugCsrWrite (ctx num : Nat) (v : W32)
  /-- CREATE (R360). -/
  | create (x : Nat)
  /-- UPDATE (R360). -/
  | update (x : Nat)
  /-- DESTROY (R360). -/
  | destroy (x : Nat)
  /-- TLBINV (R360). -/
  | tlbinv (x : Nat)
  /-- REKEY (R370). -/
  | rekey 
  /-- SETDROOP (R370). -/
  | setdroop 
  /-- SETBUCKET (R370). -/
  | setbucket 
  /-- FWUPDATE (R371). -/
  | fwupdate 
  /-- ATTEST (R370). -/
  | attest 
  /-- KCMD_INVALID (R370). -/
  | kcmdInvalid 
  /-- HOST_BAR2_ACCESS (R357). -/
  | hostBar2Access (write : Bool) (off bytes : Nat) (v : W64)
  /-- REGISTER_WRITE (R358). -/
  | registerWrite (off : Nat) (v : W64)
  /-- KILN_LOG_MIRROR (R369). -/
  | kilnLogMirror 
  /-- CXL_PORT_ERROR (R368). -/
  | cxlPortError (port : Nat) (poison : Bool)
  /-- RESET (R372). -/
  | reset (fail : Option Nat)
  /-- REMOTE_ACCEPTANCE (R437). -/
  | remoteAcceptance (id : Nat) (data : W128)
  /-- WRITE_BACK_REACHED_DRAM (R181). -/
  | writeBackReachedDram (line : Nat)
  /-- MMUL_ROW_TIME_ELAPSED (R259). -/
  | mmulRowTimeElapsed (core : Nat)
  /-- TABLE_COPY_REBUILT (R279). -/
  | tableCopyRebuilt (stack ctx table : Nat)
  deriving DecidableEq, Repr

end Sys2Proof
end

