-- ==== Sys2Proof/WellFormed.lean ====
section
/-!
DEFINITION. When a term of `Instr` stands for a word the part executes: `legal` (no code that raises ILLOP, R88) and
`classes` (every operand code of the class that its position accepts, else ILLOPND, R70, R71, R73). `groups` lists the
registers named, for RANGE (R13).
-/

namespace Sys2Proof

/-! ### Operand codes (R70) -/

/-- G0 to G127. -/
def isG (c : Code) : Bool := c.toNat < 0x80
/-- T0 to T7. -/
def isT (c : Code) : Bool := 0x80 ≤ c.toNat && c.toNat < 0x88
/-- ZERO, LANE, WIDTH, HIDX. -/
def isRead (c : Code) : Bool := 0x88 ≤ c.toNat && c.toNat < 0x8C
/-- P0 to P7. -/
def isP (c : Code) : Bool := 0x90 ≤ c.toNat && c.toNat < 0x98
/-- Y0 to Y7. -/
def isY (c : Code) : Bool := 0x98 ≤ c.toNat && c.toNat < 0xA0

/-! ### Operand classes (R71, R73) -/

/-- A 32-bit source. -/
def src32 (c : Code) : Bool := isG c || isT c || isY c || isRead c
/-- A 32-bit destination. -/
def dst32 (c : Code) : Bool := isG c || isT c || isY c
/-- A 32-bit destination of a long-latency instruction: no T register (R73). -/
def dstLong (c : Code) : Bool := isG c || isY c
/-- The 32-bit operand of ATOM or CAS: no T register (R375). -/
def srcLong (c : Code) : Bool := isG c || isY c || isRead c
/-- An even G register. -/
def evenG (c : Code) : Bool := isG c && c.toNat % 2 == 0
/-- A 64-bit source: an even G register or ZERO. -/
def src64 (c : Code) : Bool := evenG c || c.toNat == 0x88
/-- The first of a group of 16 G registers (R498). -/
def groupG (c : Code) : Bool := isG c && c.toNat % 16 == 0
/-- D of LD for a TYPE (R66). -/
def dstData (ty : BitVec 4) (c : Code) : Bool :=
  if ty == 5#4 then evenG c else if ty == 6#4 then isG c && c.toNat % 4 == 0 else dstLong c
/-- D of ST for a TYPE (R66). -/
def srcData (ty : BitVec 4) (c : Code) : Bool :=
  if ty == 5#4 then src64 c else if ty == 6#4 then isG c && c.toNat % 4 == 0 else src32 c
/-- Registers that D of LD or ST names (R66). -/
def dataRegs (ty : BitVec 4) : Nat := if ty == 5#4 then 2 else if ty == 6#4 then 4 else 1
/-- TYPE of ATOM or RED with a 64-bit operand (R205). -/
def atom64 (ty : BitVec 4) : Bool := ty == 12#4 || ty == 13#4
/-- Format code of CVT with a 64-bit value (R397). -/
def fmt64 (f : BitVec 4) : Bool := f == 6#4 || f == 10#4
/-- Format code of CVT that is an integer type (R397). -/
def fmtInt (f : BitVec 4) : Bool := 3 ≤ f.toNat && f.toNat ≤ 10
/-- The pairs that CVT allows, and the two of CVT.sr (R398). -/
def cvtLegal (sr : Bool) (dst src : BitVec 4) : Bool :=
  if sr then src == 0#4 && (dst == 1#4 || dst == 2#4)
  else (src == 0#4 && (dst == 1#4 || dst == 2#4 || fmtInt dst)) ||
    (dst == 0#4 && (src == 1#4 || src == 2#4 || fmtInt src)) || (fmtInt dst && fmtInt src)
/-- LVL and NUM name a barrier of the part (R197, R198). -/
def barLegal (lvl : BitVec 2) (num : BitVec 4) : Bool :=
  match lvl.toNat with
  | 0 => true
  | 1 => num.toNat < 8
  | 2 => num.toNat < 4
  | _ => false

/-- No field holds a reserved code, and every field that the chosen form leaves unused is zero (ILLOP otherwise, R88). -/
def Instr.legal : Instr → Bool
  | .iadd _ _ _ _ sat => sat != 3#2
  | .isub _ _ _ _ sat => sat != 3#2
  | .imul _ _ _ _ sat => sat != 3#2
  | .icmp _ _ _ _ cc => cc.toNat ≤ 9
  | .icmpImm _ _ _ cc _ => cc.toNat ≤ 9
  | .fcmp _ _ _ _ cc => cc.toNat ≤ 5
  | .fcmpImm _ _ _ cc _ => cc.toNat ≤ 5
  | .cvt _ _ _ sr dst src => cvtLegal sr dst src
  | .lshfl _ _ _ b k mode => if mode == 3#2 then k == 0#3 else b == 0#8
  | .lbcst _ _ _ b first => !first || b == 0#8
  | .lredx _ _ _ op => op.toNat ≤ 10
  | .lscan _ _ _ op _ => op.toNat ≤ 10
  | .spk24 _ _ _ fmt => fmt != 3#2
  | .ld _ _ _ _ m => m.scope.toNat ≤ 5 && m.ty.toNat ≤ 6 && m.sem.toNat ≤ 1
  | .st _ _ _ _ m => m.scope.toNat ≤ 5 && m.ty.toNat ≤ 6 && (m.sem == 0#2 || m.sem == 2#2)
  | .pref _ _ _ m => m.scope.toNat ≤ 5 && m.ty == 4#4 && m.sem == 0#2
  | .atom _ _ _ _ m => m.scope.toNat ≤ 5 && m.ty.toNat ≤ 13
  | .cas _ _ _ _ m => m.scope.toNat ≤ 5 && (m.ty == 4#4 || m.ty == 5#4)
  | .red _ _ _ m => m.scope.toNat ≤ 5 && m.ty.toNat ≤ 13 && (m.sem == 0#2 || m.sem == 2#2)
  | .stt _ _ _ _ m => m.scope.toNat ≤ 5 && (m.ty == 4#4 || m.ty == 5#4) && (m.sem == 0#2 || m.sem == 2#2)
  | .retract _ _ _ m => m.scope.toNat ≤ 5 && (m.ty == 4#4 || m.ty == 5#4) && (m.sem == 0#2 || m.sem == 3#2)
  | .commit _ _ m => m.scope.toNat ≤ 5 && (m.ty == 4#4 || m.ty == 5#4) && (m.sem == 0#2 || m.sem == 2#2)
  | .fenceFull _ scope _ => scope.toNat ≤ 5
  | .fenceWb _ _ _ scope _ => scope.toNat ≤ 5
  | .mwait _ _ _ _ m => m.scope.toNat ≤ 5 && (m.ty == 4#4 || m.ty == 5#4) && m.sem.toNat ≤ 1
  | .joinh _ n => 1 ≤ n.toNat && n.toNat ≤ 64
  | .bar _ lvl num => barLegal lvl num
  | .bara _ lvl num => barLegal lvl num
  | .barw _ lvl num => barLegal lvl num
  | .cpyg _ _ _ _ _ mq slot => mq || slot == 0#2
  | .cpyt _ _ _ _ _ mq slot => mq || slot == 0#2
  | .mmul _ _ _ _ _ _ arm slot => arm || slot == 0#2
  | .scost _ _ _ _ op _ => op != 3#2
  | .hjoin _ _ _ op => op.toNat ≤ 10
  | _ => true

/-- Every operand code is of the class its position accepts (ILLOPND otherwise, R71). -/
def Instr.classes : Instr → Bool
  | .iadd _ d a b _ => dst32 d && src32 a && src32 b
  | .iaddImm _ d a _ => dst32 d && src32 a
  | .isub _ d a b _ => dst32 d && src32 a && src32 b
  | .isubImm _ d a _ => dst32 d && src32 a
  | .imul _ d a b _ => dst32 d && src32 a && src32 b
  | .imulImm _ d a _ => dst32 d && src32 a
  | .imulh _ d a b _ => dst32 d && src32 a && src32 b
  | .imad _ d a b c => dst32 d && src32 a && src32 b && src32 c
  | .idiv _ d a b _ _ => dstLong d && src32 a && src32 b
  | .idot4 _ d a b c _ _ => dst32 d && src32 a && src32 b && src32 c
  | .imin _ d a b _ => dst32 d && src32 a && src32 b
  | .iminImm _ d a _ => dst32 d && src32 a
  | .imax _ d a b _ => dst32 d && src32 a && src32 b
  | .imaxImm _ d a _ => dst32 d && src32 a
  | .iabs _ d a => dst32 d && src32 a
  | .ineg _ d a => dst32 d && src32 a
  | .and _ d a b => dst32 d && src32 a && src32 b
  | .andImm _ d a _ => dst32 d && src32 a
  | .or _ d a b => dst32 d && src32 a && src32 b
  | .orImm _ d a _ => dst32 d && src32 a
  | .xor _ d a b => dst32 d && src32 a && src32 b
  | .xorImm _ d a _ => dst32 d && src32 a
  | .not _ d a => dst32 d && src32 a
  | .shl _ d a b => dst32 d && src32 a && src32 b
  | .shlImm _ d a _ => dst32 d && src32 a
  | .shr _ d a b => dst32 d && src32 a && src32 b
  | .shrImm _ d a _ => dst32 d && src32 a
  | .sar _ d a b => dst32 d && src32 a && src32 b
  | .sarImm _ d a _ => dst32 d && src32 a
  | .rot _ d a b _ => dst32 d && src32 a && src32 b
  | .rotImm _ d a _ => dst32 d && src32 a
  | .clz _ d a => dst32 d && src32 a
  | .popc _ d a => dst32 d && src32 a
  | .brev _ d a => dst32 d && src32 a
  | .bfx _ d a b _ => dst32 d && src32 a && src32 b
  | .bfi _ d a b c => dst32 d && src32 a && src32 b && src32 c
  | .icmp _ d a b _ => isP d && src32 a && src32 b
  | .icmpImm _ d a _ _ => isP d && src32 a
  | .sel _ d a b c _ => dst32 d && src32 a && src32 b && isP c
  | .mov _ d a w64 => if w64 then evenG d && src64 a else dst32 d && src32 a
  | .movi _ d _ => dst32 d
  | .movhi _ d a _ => evenG d && src32 a
  | .lea _ d _ _ => evenG d
  | .fadd _ d a b => dst32 d && src32 a && src32 b
  | .faddImm _ d a _ => dst32 d && src32 a
  | .fsub _ d a b => dst32 d && src32 a && src32 b
  | .fsubImm _ d a _ => dst32 d && src32 a
  | .fmul _ d a b => dst32 d && src32 a && src32 b
  | .fmulImm _ d a _ => dst32 d && src32 a
  | .ffma _ d a b c => dst32 d && src32 a && src32 b && src32 c
  | .fmin _ d a b => dst32 d && src32 a && src32 b
  | .fminImm _ d a _ => dst32 d && src32 a
  | .fmax _ d a b => dst32 d && src32 a && src32 b
  | .fmaxImm _ d a _ => dst32 d && src32 a
  | .fcmp _ d a b _ => isP d && src32 a && src32 b
  | .fcmpImm _ d a _ _ => isP d && src32 a
  | .fabs _ d a => dst32 d && src32 a
  | .fneg _ d a => dst32 d && src32 a
  | .frnd _ d a => dst32 d && src32 a
  | .cvt _ d a _ dst src => (if fmt64 dst then evenG d else dst32 d) && (if fmt64 src then evenG a else src32 a)
  | .rcp _ d a => dstLong d && src32 a
  | .rsq _ d a => dstLong d && src32 a
  | .sqrt _ d a => dstLong d && src32 a
  | .ex2 _ d a => dstLong d && src32 a
  | .lg2 _ d a => dstLong d && src32 a
  | .sin _ d a => dstLong d && src32 a
  | .cos _ d a => dstLong d && src32 a
  | .tanh _ d a => dstLong d && src32 a
  | .lshfl _ d a b _ mode => dst32 d && src32 a && (mode != 3#2 || src32 b)
  | .lbcst _ d a b first => dst32 d && src32 a && (first || src32 b)
  | .lvote _ d a mode => (if mode == 0#2 then isG d else isP d) && (if mode == 3#2 then src32 a else isP a)
  | .lredx _ d a _ => dst32 d && src32 a
  | .lscan _ d a _ _ => dst32 d && src32 a
  | .lmatch _ d a w64 => isG d && (if w64 then src64 a else src32 a)
  | .lelect _ d _ => isP d
  | .spk24 _ d a _ => dst32 d && src32 a
  | .vcompact _ d a b c _ => evenG d && src32 a && src32 b && isP c
  | .pand _ d a b _ _ => isP d && isP a && isP b
  | .por _ d a b _ _ => isP d && isP a && isP b
  | .pxor _ d a b _ _ => isP d && isP a && isP b
  | .pnot _ d a => isP d && isP a
  | .wsync _ a => isG a
  | .ld _ d a b m => dstData m.ty d && src64 a && src32 b
  | .st _ d a b m => srcData m.ty d && src64 a && src32 b
  | .pref _ a b _ => src64 a && src32 b
  | .atom _ d a b m => (if atom64 m.ty then evenG d && src64 b else dstLong d && srcLong b) && src64 a
  | .cas _ d a b m => (if m.ty == 5#4 then evenG d && src64 b else dstLong d && srcLong b) && src64 a
  | .red _ d a m => (if atom64 m.ty then src64 d else src32 d) && src64 a
  | .stt _ d a b m => isP d && src64 a && (if m.ty == 5#4 then src64 b else src32 b)
  | .retract _ d a _ => isP d && src64 a
  | .commit _ a _ => src64 a
  | .fenceWb _ a b _ _ => src64 a && src32 b
  | .mwait _ d a b m => (if m.ty == 5#4 then evenG d else dstLong d) && src64 a && src32 b
  | .brx _ a => evenG a
  | .callx _ a => evenG a
  | .csrr _ d _ => dst32 d
  | .csrw _ a _ => src32 a
  | .clock _ d => evenG d
  | .launch _ d a b => isG d && src64 a && src32 b
  | .cpy _ d a b => isG d && src32 a && src32 b
  | .cpyg _ d a b c _ _ => isG d && src32 a && src32 b && src32 c
  | .cpyt _ d a b c _ _ => isG d && src32 a && src32 b && src32 c
  | .mseat _ d a b c _ _ => isG d && src32 a && src32 b && src32 c
  | .mmul _ d a b c _ _ _ => isG d && src32 a && src32 b && src32 c
  | .mprom _ d c => isG d && src32 c
  | .mread _ d a b c => isG d && src32 a && src32 b && src32 c
  | .mclr _ d c => isG d && src32 c
  | .mstat _ d => isG d
  | .tdset _ a b => src32 a && groupG b
  | .tdget _ d a => groupG d && src32 a
  | .ftest _ d a => isP d && isG a
  | .ftestRaw _ d a => evenG d && isG a
  | .fwait _ d a => isG d && evenG a
  | .fcancel _ a => isG a
  | .fcancelRaw _ a => evenG a
  | .snew _ d _ => isG d
  | .sfree _ d a => isG d && src32 a
  | .sins _ d a b c => isG d && src32 a && src64 b && src32 c
  | .sdel _ d a b c => isG d && src32 a && src64 b && src32 c
  | .smemb _ d a b => isG d && src32 a && src32 b
  | .scard _ d a => isG d && src32 a
  | .sunion _ d a b _ => isG d && src32 a && src32 b
  | .sinter _ d a b _ => isG d && src32 a && src32 b
  | .sdiff _ d a b _ => isG d && src32 a && src32 b
  | .senum _ d a b c => isG d && src32 a && src64 b && src32 c
  | .srep _ d a b => isG d && src32 a && src32 b
  | .scost _ d a b _ _ => isG d && src32 a && src32 b
  | .tqload _ d a => isG d && src32 a
  | .tqry _ d a => isG d && src32 a
  | .tqfree _ d a => isG d && src32 a
  | .ired _ d a => isG d && src32 a
  | .recruit _ d a _ => isG d && src32 a
  | .hldr _ d a => (isY d || isT d) && isG a
  | .hjoin _ d a _ => isG d && isY a
  | _ => true

/-- The register groups that an instruction names: first code and number of registers (R13). -/
def Instr.groups : Instr → List (Code × Nat)
  | .iadd _ d a b _ => [(d, 1), (a, 1), (b, 1)]
  | .iaddImm _ d a _ => [(d, 1), (a, 1)]
  | .isub _ d a b _ => [(d, 1), (a, 1), (b, 1)]
  | .isubImm _ d a _ => [(d, 1), (a, 1)]
  | .imul _ d a b _ => [(d, 1), (a, 1), (b, 1)]
  | .imulImm _ d a _ => [(d, 1), (a, 1)]
  | .imulh _ d a b _ => [(d, 1), (a, 1), (b, 1)]
  | .imad _ d a b c => [(d, 1), (a, 1), (b, 1), (c, 1)]
  | .idiv _ d a b _ _ => [(d, 1), (a, 1), (b, 1)]
  | .idot4 _ d a b c _ _ => [(d, 1), (a, 1), (b, 1), (c, 1)]
  | .imin _ d a b _ => [(d, 1), (a, 1), (b, 1)]
  | .iminImm _ d a _ => [(d, 1), (a, 1)]
  | .imax _ d a b _ => [(d, 1), (a, 1), (b, 1)]
  | .imaxImm _ d a _ => [(d, 1), (a, 1)]
  | .iabs _ d a => [(d, 1), (a, 1)]
  | .ineg _ d a => [(d, 1), (a, 1)]
  | .and _ d a b => [(d, 1), (a, 1), (b, 1)]
  | .andImm _ d a _ => [(d, 1), (a, 1)]
  | .or _ d a b => [(d, 1), (a, 1), (b, 1)]
  | .orImm _ d a _ => [(d, 1), (a, 1)]
  | .xor _ d a b => [(d, 1), (a, 1), (b, 1)]
  | .xorImm _ d a _ => [(d, 1), (a, 1)]
  | .not _ d a => [(d, 1), (a, 1)]
  | .shl _ d a b => [(d, 1), (a, 1), (b, 1)]
  | .shlImm _ d a _ => [(d, 1), (a, 1)]
  | .shr _ d a b => [(d, 1), (a, 1), (b, 1)]
  | .shrImm _ d a _ => [(d, 1), (a, 1)]
  | .sar _ d a b => [(d, 1), (a, 1), (b, 1)]
  | .sarImm _ d a _ => [(d, 1), (a, 1)]
  | .rot _ d a b _ => [(d, 1), (a, 1), (b, 1)]
  | .rotImm _ d a _ => [(d, 1), (a, 1)]
  | .clz _ d a => [(d, 1), (a, 1)]
  | .popc _ d a => [(d, 1), (a, 1)]
  | .brev _ d a => [(d, 1), (a, 1)]
  | .bfx _ d a b _ => [(d, 1), (a, 1), (b, 1)]
  | .bfi _ d a b c => [(d, 1), (a, 1), (b, 1), (c, 1)]
  | .icmp _ d a b _ => [(d, 1), (a, 1), (b, 1)]
  | .icmpImm _ d a _ _ => [(d, 1), (a, 1)]
  | .sel _ d a b c _ => [(d, 1), (a, 1), (b, 1), (c, 1)]
  | .mov _ d a w64 => [(d, if w64 then 2 else 1), (a, if w64 then 2 else 1)]
  | .movi _ d _ => [(d, 1)]
  | .movhi _ d a _ => [(d, 2), (a, 1)]
  | .lea _ d _ _ => [(d, 2)]
  | .fadd _ d a b => [(d, 1), (a, 1), (b, 1)]
  | .faddImm _ d a _ => [(d, 1), (a, 1)]
  | .fsub _ d a b => [(d, 1), (a, 1), (b, 1)]
  | .fsubImm _ d a _ => [(d, 1), (a, 1)]
  | .fmul _ d a b => [(d, 1), (a, 1), (b, 1)]
  | .fmulImm _ d a _ => [(d, 1), (a, 1)]
  | .ffma _ d a b c => [(d, 1), (a, 1), (b, 1), (c, 1)]
  | .fmin _ d a b => [(d, 1), (a, 1), (b, 1)]
  | .fminImm _ d a _ => [(d, 1), (a, 1)]
  | .fmax _ d a b => [(d, 1), (a, 1), (b, 1)]
  | .fmaxImm _ d a _ => [(d, 1), (a, 1)]
  | .fcmp _ d a b _ => [(d, 1), (a, 1), (b, 1)]
  | .fcmpImm _ d a _ _ => [(d, 1), (a, 1)]
  | .fabs _ d a => [(d, 1), (a, 1)]
  | .fneg _ d a => [(d, 1), (a, 1)]
  | .frnd _ d a => [(d, 1), (a, 1)]
  | .cvt _ d a _ dst src => [(d, if fmt64 dst then 2 else 1), (a, if fmt64 src then 2 else 1)]
  | .rcp _ d a => [(d, 1), (a, 1)]
  | .rsq _ d a => [(d, 1), (a, 1)]
  | .sqrt _ d a => [(d, 1), (a, 1)]
  | .ex2 _ d a => [(d, 1), (a, 1)]
  | .lg2 _ d a => [(d, 1), (a, 1)]
  | .sin _ d a => [(d, 1), (a, 1)]
  | .cos _ d a => [(d, 1), (a, 1)]
  | .tanh _ d a => [(d, 1), (a, 1)]
  | .lshfl _ d a b _ mode => if mode == 3 then [(d, 1), (a, 1), (b, 1)] else [(d, 1), (a, 1)]
  | .lbcst _ d a b first => if first then [(d, 1), (a, 1)] else [(d, 1), (a, 1), (b, 1)]
  | .lvote _ d a _ => [(d, 1), (a, 1)]
  | .lredx _ d a _ => [(d, 1), (a, 1)]
  | .lscan _ d a _ _ => [(d, 1), (a, 1)]
  | .lmatch _ d a w64 => [(d, 1), (a, if w64 then 2 else 1)]
  | .lelect _ d _ => [(d, 1)]
  | .spk24 _ d a _ => [(d, 1), (a, 1)]
  | .vcompact _ d a b c _ => [(d, 2), (a, 1), (b, 1), (c, 1)]
  | .pand _ d a b _ _ => [(d, 1), (a, 1), (b, 1)]
  | .por _ d a b _ _ => [(d, 1), (a, 1), (b, 1)]
  | .pxor _ d a b _ _ => [(d, 1), (a, 1), (b, 1)]
  | .pnot _ d a => [(d, 1), (a, 1)]
  | .wsync _ a => [(a, 1)]
  | .ld _ d a b m => [(d, dataRegs m.ty), (a, 2), (b, 1)]
  | .st _ d a b m => [(d, dataRegs m.ty), (a, 2), (b, 1)]
  | .pref _ a b _ => [(a, 2), (b, 1)]
  | .atom _ d a b m => [(d, if atom64 m.ty then 2 else 1), (a, 2), (b, if atom64 m.ty then 2 else 1)]
  | .cas _ d a b m => [(d, if m.ty == 5#4 then 2 else 1), (a, 2), (b, if m.ty == 5#4 then 2 else 1)]
  | .red _ d a m => [(d, if atom64 m.ty then 2 else 1), (a, 2)]
  | .stt _ d a b m => [(d, if m.ty == 5#4 then 2 else 1), (a, 2), (b, if m.ty == 5#4 then 2 else 1)]
  | .retract _ d a _ => [(d, 1), (a, 2)]
  | .commit _ a _ => [(a, 2)]
  | .fenceWb _ a b _ _ => [(a, 2), (b, 1)]
  | .mwait _ d a b m => [(d, if m.ty == 5#4 then 2 else 1), (a, 2), (b, 1)]
  | .brx _ a => [(a, 2)]
  | .callx _ a => [(a, 2)]
  | .csrr _ d _ => [(d, 1)]
  | .csrw _ a _ => [(a, 1)]
  | .clock _ d => [(d, 2)]
  | .launch _ d a b => [(d, 1), (a, 2), (b, 1)]
  | .cpy _ d a b => [(d, 1), (a, 1), (b, 1)]
  | .cpyg _ d a b c _ _ => [(d, 1), (a, 1), (b, 1), (c, 1)]
  | .cpyt _ d a b c _ _ => [(d, 1), (a, 1), (b, 1), (c, 1)]
  | .mseat _ d a b c _ _ => [(d, 1), (a, 1), (b, 1), (c, 1)]
  | .mmul _ d a b c _ _ _ => [(d, 1), (a, 1), (b, 1), (c, 1)]
  | .mprom _ d c => [(d, 1), (c, 1)]
  | .mread _ d a b c => [(d, 1), (a, 1), (b, 1), (c, 1)]
  | .mclr _ d c => [(d, 1), (c, 1)]
  | .mstat _ d => [(d, 1)]
  | .tdset _ a b => [(a, 1), (b, 16)]
  | .tdget _ d a => [(d, 16), (a, 1)]
  | .ftest _ d a => [(d, 1), (a, 1)]
  | .ftestRaw _ d a => [(d, 2), (a, 1)]
  | .fwait _ d a => [(d, 1), (a, 2)]
  | .fcancel _ a => [(a, 1)]
  | .fcancelRaw _ a => [(a, 2)]
  | .snew _ d _ => [(d, 1)]
  | .sfree _ d a => [(d, 1), (a, 1)]
  | .sins _ d a b c => [(d, 1), (a, 1), (b, 2), (c, 1)]
  | .sdel _ d a b c => [(d, 1), (a, 1), (b, 2), (c, 1)]
  | .smemb _ d a b => [(d, 1), (a, 1), (b, 1)]
  | .scard _ d a => [(d, 1), (a, 1)]
  | .sunion _ d a b _ => [(d, 1), (a, 1), (b, 1)]
  | .sinter _ d a b _ => [(d, 1), (a, 1), (b, 1)]
  | .sdiff _ d a b _ => [(d, 1), (a, 1), (b, 1)]
  | .senum _ d a b c => [(d, 1), (a, 1), (b, 2), (c, 1)]
  | .srep _ d a b => [(d, 1), (a, 1), (b, 1)]
  | .scost _ d a b _ _ => [(d, 1), (a, 1), (b, 1)]
  | .tqload _ d a => [(d, 1), (a, 1)]
  | .tqry _ d a => [(d, 1), (a, 1)]
  | .tqfree _ d a => [(d, 1), (a, 1)]
  | .ired _ d a => [(d, 1), (a, 1)]
  | .recruit _ d a _ => [(d, 1), (a, 1)]
  | .hldr _ d a => [(d, 1), (a, 1)]
  | .hjoin _ d a _ => [(d, 1), (a, 1)]
  | _ => []

/-- The destination code of an instruction that writes a register (D), if it has one: a G code here traps in helper
mode (R295). -/
def Instr.dest : Instr → Option Code
  | .iadd _ d _ _ _ => some d
  | .iaddImm _ d _ _ => some d
  | .isub _ d _ _ _ => some d
  | .isubImm _ d _ _ => some d
  | .imul _ d _ _ _ => some d
  | .imulImm _ d _ _ => some d
  | .imulh _ d _ _ _ => some d
  | .imad _ d _ _ _ => some d
  | .idiv _ d _ _ _ _ => some d
  | .idot4 _ d _ _ _ _ _ => some d
  | .imin _ d _ _ _ => some d
  | .iminImm _ d _ _ => some d
  | .imax _ d _ _ _ => some d
  | .imaxImm _ d _ _ => some d
  | .iabs _ d _ => some d
  | .ineg _ d _ => some d
  | .and _ d _ _ => some d
  | .andImm _ d _ _ => some d
  | .or _ d _ _ => some d
  | .orImm _ d _ _ => some d
  | .xor _ d _ _ => some d
  | .xorImm _ d _ _ => some d
  | .not _ d _ => some d
  | .shl _ d _ _ => some d
  | .shlImm _ d _ _ => some d
  | .shr _ d _ _ => some d
  | .shrImm _ d _ _ => some d
  | .sar _ d _ _ => some d
  | .sarImm _ d _ _ => some d
  | .rot _ d _ _ _ => some d
  | .rotImm _ d _ _ => some d
  | .clz _ d _ => some d
  | .popc _ d _ => some d
  | .brev _ d _ => some d
  | .bfx _ d _ _ _ => some d
  | .bfi _ d _ _ _ => some d
  | .icmp _ d _ _ _ => some d
  | .icmpImm _ d _ _ _ => some d
  | .sel _ d _ _ _ _ => some d
  | .mov _ d _ _ => some d
  | .movi _ d _ => some d
  | .movhi _ d _ _ => some d
  | .lea _ d _ _ => some d
  | .fadd _ d _ _ => some d
  | .faddImm _ d _ _ => some d
  | .fsub _ d _ _ => some d
  | .fsubImm _ d _ _ => some d
  | .fmul _ d _ _ => some d
  | .fmulImm _ d _ _ => some d
  | .ffma _ d _ _ _ => some d
  | .fmin _ d _ _ => some d
  | .fminImm _ d _ _ => some d
  | .fmax _ d _ _ => some d
  | .fmaxImm _ d _ _ => some d
  | .fcmp _ d _ _ _ => some d
  | .fcmpImm _ d _ _ _ => some d
  | .fabs _ d _ => some d
  | .fneg _ d _ => some d
  | .frnd _ d _ => some d
  | .cvt _ d _ _ _ _ => some d
  | .rcp _ d _ => some d
  | .rsq _ d _ => some d
  | .sqrt _ d _ => some d
  | .ex2 _ d _ => some d
  | .lg2 _ d _ => some d
  | .sin _ d _ => some d
  | .cos _ d _ => some d
  | .tanh _ d _ => some d
  | .lshfl _ d _ _ _ _ => some d
  | .lbcst _ d _ _ _ => some d
  | .lvote _ d _ _ => some d
  | .lredx _ d _ _ => some d
  | .lscan _ d _ _ _ => some d
  | .lmatch _ d _ _ => some d
  | .lelect _ d _ => some d
  | .spk24 _ d _ _ => some d
  | .vcompact _ d _ _ _ _ => some d
  | .pand _ d _ _ _ _ => some d
  | .por _ d _ _ _ _ => some d
  | .pxor _ d _ _ _ _ => some d
  | .pnot _ d _ => some d
  | .ld _ d _ _ _ => some d
  | .atom _ d _ _ _ => some d
  | .cas _ d _ _ _ => some d
  | .stt _ d _ _ _ => some d
  | .retract _ d _ _ => some d
  | .mwait _ d _ _ _ => some d
  | .csrr _ d _ => some d
  | .clock _ d => some d
  | .launch _ d _ _ => some d
  | .cpy _ d _ _ => some d
  | .cpyg _ d _ _ _ _ _ => some d
  | .cpyt _ d _ _ _ _ _ => some d
  | .mseat _ d _ _ _ _ _ => some d
  | .mmul _ d _ _ _ _ _ _ => some d
  | .mprom _ d _ => some d
  | .mread _ d _ _ _ => some d
  | .mclr _ d _ => some d
  | .mstat _ d => some d
  | .tdget _ d _ => some d
  | .ftest _ d _ => some d
  | .ftestRaw _ d _ => some d
  | .fwait _ d _ => some d
  | .snew _ d _ => some d
  | .sfree _ d _ => some d
  | .sins _ d _ _ _ => some d
  | .sdel _ d _ _ _ => some d
  | .smemb _ d _ _ => some d
  | .scard _ d _ => some d
  | .sunion _ d _ _ _ => some d
  | .sinter _ d _ _ _ => some d
  | .sdiff _ d _ _ _ => some d
  | .senum _ d _ _ _ => some d
  | .srep _ d _ _ => some d
  | .scost _ d _ _ _ _ => some d
  | .tqload _ d _ => some d
  | .tqry _ d _ => some d
  | .tqfree _ d _ => some d
  | .ired _ d _ => some d
  | .recruit _ d _ _ => some d
  | .hldr _ d _ => some d
  | .hjoin _ d _ _ => some d
  | _ => none

/-- DIST and PRED of an instruction word; an event has none. -/
def Instr.hdr : Instr → Hdr
  | .iadd h _ _ _ _ => h
  | .iaddImm h _ _ _ => h
  | .isub h _ _ _ _ => h
  | .isubImm h _ _ _ => h
  | .imul h _ _ _ _ => h
  | .imulImm h _ _ _ => h
  | .imulh h _ _ _ _ => h
  | .imad h _ _ _ _ => h
  | .idiv h _ _ _ _ _ => h
  | .idot4 h _ _ _ _ _ _ => h
  | .imin h _ _ _ _ => h
  | .iminImm h _ _ _ => h
  | .imax h _ _ _ _ => h
  | .imaxImm h _ _ _ => h
  | .iabs h _ _ => h
  | .ineg h _ _ => h
  | .and h _ _ _ => h
  | .andImm h _ _ _ => h
  | .or h _ _ _ => h
  | .orImm h _ _ _ => h
  | .xor h _ _ _ => h
  | .xorImm h _ _ _ => h
  | .not h _ _ => h
  | .shl h _ _ _ => h
  | .shlImm h _ _ _ => h
  | .shr h _ _ _ => h
  | .shrImm h _ _ _ => h
  | .sar h _ _ _ => h
  | .sarImm h _ _ _ => h
  | .rot h _ _ _ _ => h
  | .rotImm h _ _ _ => h
  | .clz h _ _ => h
  | .popc h _ _ => h
  | .brev h _ _ => h
  | .bfx h _ _ _ _ => h
  | .bfi h _ _ _ _ => h
  | .icmp h _ _ _ _ => h
  | .icmpImm h _ _ _ _ => h
  | .sel h _ _ _ _ _ => h
  | .mov h _ _ _ => h
  | .movi h _ _ => h
  | .movhi h _ _ _ => h
  | .lea h _ _ _ => h
  | .fadd h _ _ _ => h
  | .faddImm h _ _ _ => h
  | .fsub h _ _ _ => h
  | .fsubImm h _ _ _ => h
  | .fmul h _ _ _ => h
  | .fmulImm h _ _ _ => h
  | .ffma h _ _ _ _ => h
  | .fmin h _ _ _ => h
  | .fminImm h _ _ _ => h
  | .fmax h _ _ _ => h
  | .fmaxImm h _ _ _ => h
  | .fcmp h _ _ _ _ => h
  | .fcmpImm h _ _ _ _ => h
  | .fabs h _ _ => h
  | .fneg h _ _ => h
  | .frnd h _ _ => h
  | .cvt h _ _ _ _ _ => h
  | .rcp h _ _ => h
  | .rsq h _ _ => h
  | .sqrt h _ _ => h
  | .ex2 h _ _ => h
  | .lg2 h _ _ => h
  | .sin h _ _ => h
  | .cos h _ _ => h
  | .tanh h _ _ => h
  | .lshfl h _ _ _ _ _ => h
  | .lbcst h _ _ _ _ => h
  | .lvote h _ _ _ => h
  | .lredx h _ _ _ => h
  | .lscan h _ _ _ _ => h
  | .lmatch h _ _ _ => h
  | .lelect h _ _ => h
  | .spk24 h _ _ _ => h
  | .vcompact h _ _ _ _ _ => h
  | .pand h _ _ _ _ _ => h
  | .por h _ _ _ _ _ => h
  | .pxor h _ _ _ _ _ => h
  | .pnot h _ _ => h
  | .wsync h _ => h
  | .ld h _ _ _ _ => h
  | .st h _ _ _ _ => h
  | .pref h _ _ _ => h
  | .atom h _ _ _ _ => h
  | .cas h _ _ _ _ => h
  | .red h _ _ _ => h
  | .stt h _ _ _ _ => h
  | .retract h _ _ _ => h
  | .commit h _ _ => h
  | .fenceFull h _ _ => h
  | .fenceWb h _ _ _ _ => h
  | .mwait h _ _ _ _ => h
  | .enter h _ => h
  | .leave h => h
  | .nop h => h
  | .bra h _ => h
  | .brc h _ _ _ => h
  | .brx h _ => h
  | .call h _ => h
  | .callx h _ => h
  | .ret h => h
  | .joinh h _ => h
  | .exit h => h
  | .yield h => h
  | .trap h _ => h
  | .trapret h => h
  | .bkpt h _ => h
  | .csrr h _ _ => h
  | .csrw h _ _ => h
  | .clock h _ => h
  | .icinv h => h
  | .bar h _ _ => h
  | .bara h _ _ => h
  | .barw h _ _ => h
  | .launch h _ _ _ => h
  | .cpy h _ _ _ => h
  | .cpyg h _ _ _ _ _ _ => h
  | .cpyt h _ _ _ _ _ _ => h
  | .mseat h _ _ _ _ _ _ => h
  | .mmul h _ _ _ _ _ _ _ => h
  | .mprom h _ _ => h
  | .mread h _ _ _ _ => h
  | .mclr h _ _ => h
  | .mstat h _ => h
  | .tdset h _ _ => h
  | .tdget h _ _ => h
  | .ftest h _ _ => h
  | .ftestRaw h _ _ => h
  | .fwait h _ _ => h
  | .fcancel h _ => h
  | .fcancelRaw h _ => h
  | .snew h _ _ => h
  | .sfree h _ _ => h
  | .sins h _ _ _ _ => h
  | .sdel h _ _ _ _ => h
  | .smemb h _ _ _ => h
  | .scard h _ _ => h
  | .sunion h _ _ _ _ => h
  | .sinter h _ _ _ _ => h
  | .sdiff h _ _ _ _ => h
  | .senum h _ _ _ _ => h
  | .srep h _ _ _ => h
  | .scost h _ _ _ _ _ => h
  | .tqload h _ _ => h
  | .tqry h _ _ => h
  | .tqfree h _ _ => h
  | .ired h _ _ => h
  | .recruit h _ _ _ => h
  | .hldr h _ _ => h
  | .hrelease h => h
  | .hjoin h _ _ _ => h
  | _ => ⟨0#3, false, 7#3⟩

/-- The row is an event, not an instruction word. -/
def Instr.isEvent : Instr → Bool
  | .partitionIssueClk _ _ => true
  | .runFetchComplete _ _ _ _ => true
  | .runEnd _ _ => true
  | .joinhHoldExpiry _ _ => true
  | .yieldExpiry _ _ => true
  | .longLatencyComplete _ => true
  | .engineForkRelease _ _ => true
  | .engineOpComplete _ _ => true
  | .rangeEntryRetire _ _ => true
  | .pageWalkComplete _ _ => true
  | .homeAccess _ => true
  | .l1LineExpiry _ _ => true
  | .stackFillComplete _ _ => true
  | .mwaitWake _ => true
  | .barrierRelease _ => true
  | .barrierMessage _ _ => true
  | .trapEntry _ => true
  | .watchdogTick _ => true
  | .watchdogDeadlock _ => true
  | .linkLost _ => true
  | .matrixCommandAccept _ _ => true
  | .setKeyAppend _ _ => true
  | .foldIdleStart _ _ => true
  | .foldPublish _ _ => true
  | .bucketItemGrant _ => true
  | .stackActivationAlert _ _ _ _ _ => true
  | .remoteRequestReceive _ _ => true
  | .remoteErrorResponse _ _ => true
  | .portSendRound _ => true
  | .queueDoorbell _ _ => true
  | .queueRestart _ => true
  | .signalWordCheck _ => true
  | .dispatchPlaceBlock => true
  | .placementWaitExpiry _ => true
  | .contextSaveComplete _ => true
  | .blockRestore _ => true
  | .kilnConeRead _ => true
  | .launchForward _ _ _ _ => true
  | .rankDoneMessage _ _ _ => true
  | .halt _ => true
  | .resume _ => true
  | .step _ _ => true
  | .stepAll _ => true
  | .debugCsrWrite _ _ _ => true
  | .create _ => true
  | .update _ => true
  | .destroy _ => true
  | .tlbinv _ => true
  | .rekey => true
  | .setdroop => true
  | .setbucket => true
  | .fwupdate => true
  | .attest => true
  | .kcmdInvalid => true
  | .hostBar2Access _ _ _ _ => true
  | .registerWrite _ _ => true
  | .kilnLogMirror => true
  | .cxlPortError _ _ => true
  | .reset _ => true
  | .remoteAcceptance _ _ => true
  | .writeBackReachedDram _ => true
  | .mmulRowTimeElapsed _ => true
  | .tableCopyRebuilt _ _ _ => true
  | _ => false

/-- The term stands for a word that raises neither ILLOP nor ILLOPND. -/
def Instr.wellFormed (i : Instr) : Bool := !i.isEvent && i.legal && i.classes

end Sys2Proof
end

