-- ==== Sys2Proof/Decode.lean ====
section
/-!
DEFINITION. The decoder: from a 64-bit word to the instruction of R86, total, refusing by name every word that R88
answers with ILLOP; the encoder; and the trailer of a run (R69, R74, R77).
-/

namespace Sys2Proof

/-- Why a word is no instruction (R88): all but `trailer` raise ILLOP. -/
inductive DecodeError where
  | reservedOpcode
  | unusedField
  | reservedBits
  | reservedCode
  | trailer
  deriving DecidableEq, Repr

/-! ### Fields of a word (R63 to R68) -/

/-- OPC. -/
def fOpc (w : W64) : BitVec 9 := w.extractLsb' 55 9
/-- DIST and PRED. -/
def fHdr (w : W64) : Hdr := ⟨w.extractLsb' 52 3, w.getLsbD 51, w.extractLsb' 48 3⟩
/-- D; also the A field of format B. -/
def fD (w : W64) : Code := w.extractLsb' 40 8
/-- A. -/
def fA (w : W64) : Code := w.extractLsb' 32 8
/-- B. -/
def fB (w : W64) : Code := w.extractLsb' 24 8
/-- C. -/
def fC (w : W64) : Code := w.extractLsb' 16 8
/-- MOD or ECTL. -/
def fMod (w : W64) : BitVec 16 := w.extractLsb' 0 16
/-- IMM32 or WOFF. -/
def fImm (w : W64) : W32 := w.extractLsb' 0 32
/-- The fields of format M below B (R66). -/
def fM (w : W64) : MFld :=
  ⟨w.extractLsb' 20 4, w.extractLsb' 17 3, w.extractLsb' 15 2, w.extractLsb' 11 4, w.extractLsb' 0 11⟩

/-- The instruction, unless a condition fails (the first that fails names the refusal) or it holds a reserved code. -/
def accept : List (Bool × DecodeError) → Instr → Except DecodeError Instr
  | [], i => if i.legal then .ok i else .error .reservedCode
  | (c, e) :: rest, i => if c then accept rest i else .error e

/-! ### The opcode map (R86) -/

/-- Row 0x0 of the map (R86). -/
def decodeRow00 (w : W64) (col : Nat) : Except DecodeError Instr :=
  match col with
  | 0 => accept [(fC w == 0#8, .unusedField), (fMod w &&& 0xfffc#16 == 0#16, .reservedBits)] (.iadd (fHdr w) (fD w) (fA w) (fB w) (w.extractLsb' 0 2))
  | 1 => accept [(fC w == 0#8, .unusedField), (fMod w &&& 0xfffc#16 == 0#16, .reservedBits)] (.isub (fHdr w) (fD w) (fA w) (fB w) (w.extractLsb' 0 2))
  | 2 => accept [(fC w == 0#8, .unusedField), (fMod w &&& 0xfffc#16 == 0#16, .reservedBits)] (.imul (fHdr w) (fD w) (fA w) (fB w) (w.extractLsb' 0 2))
  | 3 => accept [(fC w == 0#8, .unusedField), (fMod w &&& 0xfffe#16 == 0#16, .reservedBits)] (.imulh (fHdr w) (fD w) (fA w) (fB w) (w.getLsbD 0))
  | 4 => accept [(fMod w &&& 0xffff#16 == 0#16, .reservedBits)] (.imad (fHdr w) (fD w) (fA w) (fB w) (fC w))
  | 5 => accept [(fC w == 0#8, .unusedField), (fMod w &&& 0xfffc#16 == 0#16, .reservedBits)] (.idiv (fHdr w) (fD w) (fA w) (fB w) (w.getLsbD 0) (w.getLsbD 1))
  | 6 => accept [(fMod w &&& 0xfffc#16 == 0#16, .reservedBits)] (.idot4 (fHdr w) (fD w) (fA w) (fB w) (fC w) (w.getLsbD 0) (w.getLsbD 1))
  | 7 => accept [(fC w == 0#8, .unusedField), (fMod w &&& 0xfffe#16 == 0#16, .reservedBits)] (.imin (fHdr w) (fD w) (fA w) (fB w) (w.getLsbD 0))
  | 8 => accept [(fC w == 0#8, .unusedField), (fMod w &&& 0xfffe#16 == 0#16, .reservedBits)] (.imax (fHdr w) (fD w) (fA w) (fB w) (w.getLsbD 0))
  | 9 => accept [(fB w == 0#8, .unusedField), (fC w == 0#8, .unusedField), (fMod w &&& 0xffff#16 == 0#16, .reservedBits)] (.iabs (fHdr w) (fD w) (fA w))
  | 10 => accept [(fB w == 0#8, .unusedField), (fC w == 0#8, .unusedField), (fMod w &&& 0xffff#16 == 0#16, .reservedBits)] (.ineg (fHdr w) (fD w) (fA w))
  | 11 => accept [(fC w == 0#8, .unusedField), (fMod w &&& 0xffff#16 == 0#16, .reservedBits)] (.and (fHdr w) (fD w) (fA w) (fB w))
  | 12 => accept [(fC w == 0#8, .unusedField), (fMod w &&& 0xffff#16 == 0#16, .reservedBits)] (.or (fHdr w) (fD w) (fA w) (fB w))
  | 13 => accept [(fC w == 0#8, .unusedField), (fMod w &&& 0xffff#16 == 0#16, .reservedBits)] (.xor (fHdr w) (fD w) (fA w) (fB w))
  | 14 => accept [(fB w == 0#8, .unusedField), (fC w == 0#8, .unusedField), (fMod w &&& 0xffff#16 == 0#16, .reservedBits)] (.not (fHdr w) (fD w) (fA w))
  | _ => accept [(fC w == 0#8, .unusedField), (fMod w &&& 0xffff#16 == 0#16, .reservedBits)] (.shl (fHdr w) (fD w) (fA w) (fB w))

/-- Row 0x10 of the map (R86). -/
def decodeRow01 (w : W64) (col : Nat) : Except DecodeError Instr :=
  match col with
  | 0 => accept [(fC w == 0#8, .unusedField), (fMod w &&& 0xffff#16 == 0#16, .reservedBits)] (.shr (fHdr w) (fD w) (fA w) (fB w))
  | 1 => accept [(fC w == 0#8, .unusedField), (fMod w &&& 0xffff#16 == 0#16, .reservedBits)] (.sar (fHdr w) (fD w) (fA w) (fB w))
  | 2 => accept [(fC w == 0#8, .unusedField), (fMod w &&& 0xfffe#16 == 0#16, .reservedBits)] (.rot (fHdr w) (fD w) (fA w) (fB w) (w.getLsbD 0))
  | 3 => accept [(fB w == 0#8, .unusedField), (fC w == 0#8, .unusedField), (fMod w &&& 0xffff#16 == 0#16, .reservedBits)] (.clz (fHdr w) (fD w) (fA w))
  | 4 => accept [(fB w == 0#8, .unusedField), (fC w == 0#8, .unusedField), (fMod w &&& 0xffff#16 == 0#16, .reservedBits)] (.popc (fHdr w) (fD w) (fA w))
  | 5 => accept [(fB w == 0#8, .unusedField), (fC w == 0#8, .unusedField), (fMod w &&& 0xffff#16 == 0#16, .reservedBits)] (.brev (fHdr w) (fD w) (fA w))
  | 6 => accept [(fC w == 0#8, .unusedField), (fMod w &&& 0xfffe#16 == 0#16, .reservedBits)] (.bfx (fHdr w) (fD w) (fA w) (fB w) (w.getLsbD 0))
  | 7 => accept [(fMod w &&& 0xffff#16 == 0#16, .reservedBits)] (.bfi (fHdr w) (fD w) (fA w) (fB w) (fC w))
  | 8 => accept [(fC w == 0#8, .unusedField), (fMod w &&& 0xfff0#16 == 0#16, .reservedBits)] (.icmp (fHdr w) (fD w) (fA w) (fB w) (w.extractLsb' 0 4))
  | 9 => accept [(fMod w &&& 0xfffe#16 == 0#16, .reservedBits)] (.sel (fHdr w) (fD w) (fA w) (fB w) (fC w) (w.getLsbD 0))
  | 10 => accept [(fB w == 0#8, .unusedField), (fC w == 0#8, .unusedField), (fMod w &&& 0xfffe#16 == 0#16, .reservedBits)] (.mov (fHdr w) (fD w) (fA w) (w.getLsbD 0))
  | 11 => accept [(fA w == 0#8, .unusedField)] (.movi (fHdr w) (fD w) (fImm w))
  | 12 => accept [] (.movhi (fHdr w) (fD w) (fA w) (fImm w))
  | 13 => accept [(fA w == 0#8 || fA w == 1#8, .unusedField)] (.lea (fHdr w) (fD w) (fA w == 1#8) (fImm w))
  | _ => .error .reservedOpcode

/-- Row 0x20 of the map (R86). -/
def decodeRow02 (w : W64) (col : Nat) : Except DecodeError Instr :=
  match col with
  | 0 => accept [] (.iaddImm (fHdr w) (fD w) (fA w) (fImm w))
  | 1 => accept [] (.isubImm (fHdr w) (fD w) (fA w) (fImm w))
  | 2 => accept [] (.imulImm (fHdr w) (fD w) (fA w) (fImm w))
  | 7 => accept [] (.iminImm (fHdr w) (fD w) (fA w) (fImm w))
  | 8 => accept [] (.imaxImm (fHdr w) (fD w) (fA w) (fImm w))
  | 11 => accept [] (.andImm (fHdr w) (fD w) (fA w) (fImm w))
  | 12 => accept [] (.orImm (fHdr w) (fD w) (fA w) (fImm w))
  | 13 => accept [] (.xorImm (fHdr w) (fD w) (fA w) (fImm w))
  | 15 => accept [] (.shlImm (fHdr w) (fD w) (fA w) (fImm w))
  | _ => .error .reservedOpcode

/-- Row 0x30 of the map (R86). -/
def decodeRow03 (w : W64) (col : Nat) : Except DecodeError Instr :=
  match col with
  | 0 => accept [] (.shrImm (fHdr w) (fD w) (fA w) (fImm w))
  | 1 => accept [] (.sarImm (fHdr w) (fD w) (fA w) (fImm w))
  | 2 => accept [] (.rotImm (fHdr w) (fD w) (fA w) (fImm w))
  | 8 => accept [] (.icmpImm (fHdr w) (fD w) (fA w) (w.extractLsb' 28 4) (w.extractLsb' 0 28))
  | _ => .error .reservedOpcode

/-- Row 0x40 of the map (R86). -/
def decodeRow04 (w : W64) (col : Nat) : Except DecodeError Instr :=
  match col with
  | 0 => accept [(fC w == 0#8, .unusedField), (fMod w &&& 0xffff#16 == 0#16, .reservedBits)] (.fadd (fHdr w) (fD w) (fA w) (fB w))
  | 1 => accept [(fC w == 0#8, .unusedField), (fMod w &&& 0xffff#16 == 0#16, .reservedBits)] (.fsub (fHdr w) (fD w) (fA w) (fB w))
  | 2 => accept [(fC w == 0#8, .unusedField), (fMod w &&& 0xffff#16 == 0#16, .reservedBits)] (.fmul (fHdr w) (fD w) (fA w) (fB w))
  | 3 => accept [(fMod w &&& 0xffff#16 == 0#16, .reservedBits)] (.ffma (fHdr w) (fD w) (fA w) (fB w) (fC w))
  | 4 => accept [(fC w == 0#8, .unusedField), (fMod w &&& 0xffff#16 == 0#16, .reservedBits)] (.fmin (fHdr w) (fD w) (fA w) (fB w))
  | 5 => accept [(fC w == 0#8, .unusedField), (fMod w &&& 0xffff#16 == 0#16, .reservedBits)] (.fmax (fHdr w) (fD w) (fA w) (fB w))
  | 6 => accept [(fB w == 0#8, .unusedField), (fC w == 0#8, .unusedField), (fMod w &&& 0xffff#16 == 0#16, .reservedBits)] (.fabs (fHdr w) (fD w) (fA w))
  | 7 => accept [(fB w == 0#8, .unusedField), (fC w == 0#8, .unusedField), (fMod w &&& 0xffff#16 == 0#16, .reservedBits)] (.fneg (fHdr w) (fD w) (fA w))
  | 8 => accept [(fC w == 0#8, .unusedField), (fMod w &&& 0xfff0#16 == 0#16, .reservedBits)] (.fcmp (fHdr w) (fD w) (fA w) (fB w) (w.extractLsb' 0 4))
  | 9 => accept [(fB w == 0#8, .unusedField), (fC w == 0#8, .unusedField), (fMod w &&& 0xffff#16 == 0#16, .reservedBits)] (.frnd (fHdr w) (fD w) (fA w))
  | 10 => accept [(fB w == 0#8, .unusedField), (fC w == 0#8, .unusedField), (fMod w &&& 0xfe00#16 == 0#16, .reservedBits)] (.cvt (fHdr w) (fD w) (fA w) (w.getLsbD 8) (w.extractLsb' 4 4) (w.extractLsb' 0 4))
  | 11 => accept [(fB w == 0#8, .unusedField), (fC w == 0#8, .unusedField), (fMod w &&& 0xffff#16 == 0#16, .reservedBits)] (.rcp (fHdr w) (fD w) (fA w))
  | 12 => accept [(fB w == 0#8, .unusedField), (fC w == 0#8, .unusedField), (fMod w &&& 0xffff#16 == 0#16, .reservedBits)] (.rsq (fHdr w) (fD w) (fA w))
  | 13 => accept [(fB w == 0#8, .unusedField), (fC w == 0#8, .unusedField), (fMod w &&& 0xffff#16 == 0#16, .reservedBits)] (.sqrt (fHdr w) (fD w) (fA w))
  | 14 => accept [(fB w == 0#8, .unusedField), (fC w == 0#8, .unusedField), (fMod w &&& 0xffff#16 == 0#16, .reservedBits)] (.ex2 (fHdr w) (fD w) (fA w))
  | _ => accept [(fB w == 0#8, .unusedField), (fC w == 0#8, .unusedField), (fMod w &&& 0xffff#16 == 0#16, .reservedBits)] (.lg2 (fHdr w) (fD w) (fA w))

/-- Row 0x50 of the map (R86). -/
def decodeRow05 (w : W64) (col : Nat) : Except DecodeError Instr :=
  match col with
  | 0 => accept [(fB w == 0#8, .unusedField), (fC w == 0#8, .unusedField), (fMod w &&& 0xffff#16 == 0#16, .reservedBits)] (.sin (fHdr w) (fD w) (fA w))
  | 1 => accept [(fB w == 0#8, .unusedField), (fC w == 0#8, .unusedField), (fMod w &&& 0xffff#16 == 0#16, .reservedBits)] (.cos (fHdr w) (fD w) (fA w))
  | 2 => accept [(fB w == 0#8, .unusedField), (fC w == 0#8, .unusedField), (fMod w &&& 0xffff#16 == 0#16, .reservedBits)] (.tanh (fHdr w) (fD w) (fA w))
  | _ => .error .reservedOpcode

/-- Row 0x60 of the map (R86). -/
def decodeRow06 (w : W64) (col : Nat) : Except DecodeError Instr :=
  match col with
  | 0 => accept [] (.faddImm (fHdr w) (fD w) (fA w) (fImm w))
  | 1 => accept [] (.fsubImm (fHdr w) (fD w) (fA w) (fImm w))
  | 2 => accept [] (.fmulImm (fHdr w) (fD w) (fA w) (fImm w))
  | 4 => accept [] (.fminImm (fHdr w) (fD w) (fA w) (fImm w))
  | 5 => accept [] (.fmaxImm (fHdr w) (fD w) (fA w) (fImm w))
  | 8 => accept [] (.fcmpImm (fHdr w) (fD w) (fA w) (w.extractLsb' 28 4) (w.extractLsb' 0 28))
  | _ => .error .reservedOpcode

/-- Row 0x80 of the map (R86). -/
def decodeRow08 (w : W64) (col : Nat) : Except DecodeError Instr :=
  match col with
  | 0 => accept [(fC w == 0#8, .unusedField), (fMod w &&& 0xffe0#16 == 0#16, .reservedBits)] (.lshfl (fHdr w) (fD w) (fA w) (fB w) (w.extractLsb' 2 3) (w.extractLsb' 0 2))
  | 1 => accept [(fC w == 0#8, .unusedField), (fMod w &&& 0xfffe#16 == 0#16, .reservedBits)] (.lbcst (fHdr w) (fD w) (fA w) (fB w) (w.getLsbD 0))
  | 2 => accept [(fB w == 0#8, .unusedField), (fC w == 0#8, .unusedField), (fMod w &&& 0xfffc#16 == 0#16, .reservedBits)] (.lvote (fHdr w) (fD w) (fA w) (w.extractLsb' 0 2))
  | 3 => accept [(fB w == 0#8, .unusedField), (fC w == 0#8, .unusedField), (fMod w &&& 0xfff0#16 == 0#16, .reservedBits)] (.lredx (fHdr w) (fD w) (fA w) (w.extractLsb' 0 4))
  | 4 => accept [(fB w == 0#8, .unusedField), (fC w == 0#8, .unusedField), (fMod w &&& 0xffe0#16 == 0#16, .reservedBits)] (.lscan (fHdr w) (fD w) (fA w) (w.extractLsb' 0 4) (w.getLsbD 4))
  | 5 => accept [(fB w == 0#8, .unusedField), (fC w == 0#8, .unusedField), (fMod w &&& 0xfffe#16 == 0#16, .reservedBits)] (.lmatch (fHdr w) (fD w) (fA w) (w.getLsbD 0))
  | 6 => accept [(fA w == 0#8, .unusedField), (fB w == 0#8, .unusedField), (fC w == 0#8, .unusedField), (fMod w &&& 0xfffe#16 == 0#16, .reservedBits)] (.lelect (fHdr w) (fD w) (w.getLsbD 0))
  | 7 => accept [(fB w == 0#8, .unusedField), (fC w == 0#8, .unusedField), (fMod w &&& 0xfffc#16 == 0#16, .reservedBits)] (.spk24 (fHdr w) (fD w) (fA w) (w.extractLsb' 0 2))
  | 8 => accept [(fMod w &&& 0xfffe#16 == 0#16, .reservedBits)] (.vcompact (fHdr w) (fD w) (fA w) (fB w) (fC w) (w.getLsbD 0))
  | 9 => accept [(fC w == 0#8, .unusedField), (fMod w &&& 0xfffc#16 == 0#16, .reservedBits)] (.pand (fHdr w) (fD w) (fA w) (fB w) (w.getLsbD 0) (w.getLsbD 1))
  | 10 => accept [(fC w == 0#8, .unusedField), (fMod w &&& 0xfffc#16 == 0#16, .reservedBits)] (.por (fHdr w) (fD w) (fA w) (fB w) (w.getLsbD 0) (w.getLsbD 1))
  | 11 => accept [(fC w == 0#8, .unusedField), (fMod w &&& 0xfffc#16 == 0#16, .reservedBits)] (.pxor (fHdr w) (fD w) (fA w) (fB w) (w.getLsbD 0) (w.getLsbD 1))
  | 12 => accept [(fB w == 0#8, .unusedField), (fC w == 0#8, .unusedField), (fMod w &&& 0xffff#16 == 0#16, .reservedBits)] (.pnot (fHdr w) (fD w) (fA w))
  | 13 => accept [(fD w == 0#8, .unusedField), (fB w == 0#8, .unusedField), (fC w == 0#8, .unusedField), (fMod w &&& 0xffff#16 == 0#16, .reservedBits)] (.wsync (fHdr w) (fA w))
  | _ => .error .reservedOpcode

/-- Row 0xc0 of the map (R86). -/
def decodeRow0C (w : W64) (col : Nat) : Except DecodeError Instr :=
  match col with
  | 0 => accept [] (.ld (fHdr w) (fD w) (fA w) (fB w) (fM w))
  | 1 => accept [] (.st (fHdr w) (fD w) (fA w) (fB w) (fM w))
  | 2 => accept [(fD w == 0#8, .unusedField)] (.pref (fHdr w) (fA w) (fB w) (fM w))
  | 3 => accept [] (.atom (fHdr w) (fD w) (fA w) (fB w) (fM w))
  | 4 => accept [] (.cas (fHdr w) (fD w) (fA w) (fB w) (fM w))
  | 5 => accept [(fB w == 0#8, .unusedField)] (.red (fHdr w) (fD w) (fA w) (fM w))
  | 6 => accept [] (.stt (fHdr w) (fD w) (fA w) (fB w) (fM w))
  | 7 => accept [(fB w == 0#8, .unusedField)] (.retract (fHdr w) (fD w) (fA w) (fM w))
  | 8 => accept [(fD w == 0#8, .unusedField), (fB w == 0#8, .unusedField)] (.commit (fHdr w) (fA w) (fM w))
  | 9 => if (fM w).ty == 4#4 then accept [(fD w == 0#8, .unusedField), (fA w == 0#8, .unusedField), (fB w == 0#8, .unusedField), ((fM w).off == 0#11, .unusedField), ((fM w).sem == 0#2, .reservedCode)] (.fenceFull (fHdr w) (fM w).scope (fM w).cache)
    else if (fM w).ty == 5#4 then accept [(fD w == 0#8, .unusedField), ((fM w).off == 0#11, .unusedField), ((fM w).sem == 0#2, .reservedCode)] (.fenceWb (fHdr w) (fA w) (fB w) (fM w).scope (fM w).cache)
    else .error .reservedCode
  | 10 => accept [] (.mwait (fHdr w) (fD w) (fA w) (fB w) (fM w))
  | 11 => accept [(w.extractLsb' 11 37 == 0#37, .unusedField)] (.enter (fHdr w) (fM w).off)
  | 12 => accept [(w.extractLsb' 11 37 == 0#37, .unusedField), ((fM w).off == 0#11, .unusedField)] (.leave (fHdr w))
  | _ => .error .reservedOpcode

/-- Row 0x100 of the map (R86). -/
def decodeRow10 (w : W64) (col : Nat) : Except DecodeError Instr :=
  match col with
  | 0 => accept [(fD w == 0#8, .unusedField), (fA w == 0#8, .unusedField), (fB w == 0#8, .unusedField), (fC w == 0#8, .unusedField), (fMod w &&& 0xffff#16 == 0#16, .reservedBits)] (.nop (fHdr w))
  | 1 => accept [(w.extractLsb' 35 4 == 0#4, .reservedBits), (w.extractLsb' 40 8 == 0#8, .unusedField), (w.getLsbD 39 == false, .unusedField), (w.extractLsb' 32 3 == 0#3, .unusedField)] (.bra (fHdr w) (fImm w))
  | 2 => accept [(w.extractLsb' 35 4 == 0#4, .reservedBits), (w.extractLsb' 40 8 == 0#8, .unusedField)] (.brc (fHdr w) (w.getLsbD 39) (w.extractLsb' 32 3) (fImm w))
  | 3 => accept [(w.extractLsb' 35 4 == 0#4, .reservedBits), (fImm w == 0#32, .unusedField), (w.getLsbD 39 == false, .unusedField), (w.extractLsb' 32 3 == 0#3, .unusedField)] (.brx (fHdr w) (fD w))
  | 4 => accept [(w.extractLsb' 35 4 == 0#4, .reservedBits), (w.extractLsb' 40 8 == 0#8, .unusedField), (w.getLsbD 39 == false, .unusedField), (w.extractLsb' 32 3 == 0#3, .unusedField)] (.call (fHdr w) (fImm w))
  | 5 => accept [(w.extractLsb' 35 4 == 0#4, .reservedBits), (fImm w == 0#32, .unusedField), (w.getLsbD 39 == false, .unusedField), (w.extractLsb' 32 3 == 0#3, .unusedField)] (.callx (fHdr w) (fD w))
  | 6 => accept [(fD w == 0#8, .unusedField), (fA w == 0#8, .unusedField), (fB w == 0#8, .unusedField), (fC w == 0#8, .unusedField), (fMod w &&& 0xffff#16 == 0#16, .reservedBits)] (.ret (fHdr w))
  | 7 => accept [(fD w == 0#8, .unusedField), (fA w == 0#8, .unusedField), (w.extractLsb' 7 25 == 0#25, .reservedBits)] (.joinh (fHdr w) (w.extractLsb' 0 7))
  | 8 => accept [(fD w == 0#8, .unusedField), (fA w == 0#8, .unusedField), (fB w == 0#8, .unusedField), (fC w == 0#8, .unusedField), (fMod w &&& 0xffff#16 == 0#16, .reservedBits)] (.exit (fHdr w))
  | 9 => accept [(fD w == 0#8, .unusedField), (fA w == 0#8, .unusedField), (fB w == 0#8, .unusedField), (fC w == 0#8, .unusedField), (fMod w &&& 0xffff#16 == 0#16, .reservedBits)] (.yield (fHdr w))
  | 10 => accept [(fD w == 0#8, .unusedField), (fA w == 0#8, .unusedField), (w.extractLsb' 16 16 == 0#16, .reservedBits)] (.trap (fHdr w) (w.extractLsb' 0 16))
  | 11 => accept [(fD w == 0#8, .unusedField), (fA w == 0#8, .unusedField), (fB w == 0#8, .unusedField), (fC w == 0#8, .unusedField), (fMod w &&& 0xffff#16 == 0#16, .reservedBits)] (.trapret (fHdr w))
  | 12 => accept [(fD w == 0#8, .unusedField), (fA w == 0#8, .unusedField), (w.extractLsb' 16 16 == 0#16, .reservedBits)] (.bkpt (fHdr w) (w.extractLsb' 0 16))
  | 13 => accept [(fA w == 0#8, .unusedField), (w.extractLsb' 12 20 == 0#20, .reservedBits)] (.csrr (fHdr w) (fD w) (w.extractLsb' 0 12))
  | 14 => accept [(fD w == 0#8, .unusedField), (w.extractLsb' 12 20 == 0#20, .reservedBits)] (.csrw (fHdr w) (fA w) (w.extractLsb' 0 12))
  | _ => accept [(fA w == 0#8, .unusedField), (fB w == 0#8, .unusedField), (fC w == 0#8, .unusedField), (fMod w &&& 0xffff#16 == 0#16, .reservedBits)] (.clock (fHdr w) (fD w))

/-- Row 0x110 of the map (R86). -/
def decodeRow11 (w : W64) (col : Nat) : Except DecodeError Instr :=
  match col with
  | 0 => accept [(fD w == 0#8, .unusedField), (fA w == 0#8, .unusedField), (fB w == 0#8, .unusedField), (fC w == 0#8, .unusedField), (fMod w &&& 0xffff#16 == 0#16, .reservedBits)] (.icinv (fHdr w))
  | 1 => accept [(fD w == 0#8, .unusedField), (fA w == 0#8, .unusedField), (w.extractLsb' 6 26 == 0#26, .reservedBits)] (.bar (fHdr w) (w.extractLsb' 4 2) (w.extractLsb' 0 4))
  | 2 => accept [(fD w == 0#8, .unusedField), (fA w == 0#8, .unusedField), (w.extractLsb' 6 26 == 0#26, .reservedBits)] (.bara (fHdr w) (w.extractLsb' 4 2) (w.extractLsb' 0 4))
  | 3 => accept [(fD w == 0#8, .unusedField), (fA w == 0#8, .unusedField), (w.extractLsb' 6 26 == 0#26, .reservedBits)] (.barw (fHdr w) (w.extractLsb' 4 2) (w.extractLsb' 0 4))
  | 4 => accept [(fC w == 0#8, .unusedField), (fMod w &&& 0xffff#16 == 0#16, .reservedBits)] (.launch (fHdr w) (fD w) (fA w) (fB w))
  | _ => .error .reservedOpcode

/-- Row 0x140 of the map (R86). -/
def decodeRow14 (w : W64) (col : Nat) : Except DecodeError Instr :=
  match col with
  | 0 => accept [(fC w == 0#8, .unusedField), (fMod w &&& 0xffff#16 == 0#16, .reservedBits)] (.cpy (fHdr w) (fD w) (fA w) (fB w))
  | 1 => accept [(fMod w &&& 0xfff8#16 == 0#16, .reservedBits)] (.cpyg (fHdr w) (fD w) (fA w) (fB w) (fC w) (w.getLsbD 0) (w.extractLsb' 1 2))
  | 2 => accept [(fMod w &&& 0xfff8#16 == 0#16, .reservedBits)] (.cpyt (fHdr w) (fD w) (fA w) (fB w) (fC w) (w.getLsbD 0) (w.extractLsb' 1 2))
  | 3 => accept [(fMod w &&& 0xfffc#16 == 0#16, .reservedBits)] (.mseat (fHdr w) (fD w) (fA w) (fB w) (fC w) (w.getLsbD 0) (w.getLsbD 1))
  | 4 => accept [(fMod w &&& 0xff80#16 == 0#16, .reservedBits)] (.mmul (fHdr w) (fD w) (fA w) (fB w) (fC w) (w.extractLsb' 0 4) (w.getLsbD 4) (w.extractLsb' 5 2))
  | 5 => accept [(fA w == 0#8, .unusedField), (fB w == 0#8, .unusedField), (fMod w &&& 0xffff#16 == 0#16, .reservedBits)] (.mprom (fHdr w) (fD w) (fC w))
  | 6 => accept [(fMod w &&& 0xffff#16 == 0#16, .reservedBits)] (.mread (fHdr w) (fD w) (fA w) (fB w) (fC w))
  | 7 => accept [(fA w == 0#8, .unusedField), (fB w == 0#8, .unusedField), (fMod w &&& 0xffff#16 == 0#16, .reservedBits)] (.mclr (fHdr w) (fD w) (fC w))
  | 8 => accept [(fA w == 0#8, .unusedField), (fB w == 0#8, .unusedField), (fC w == 0#8, .unusedField), (fMod w &&& 0xffff#16 == 0#16, .reservedBits)] (.mstat (fHdr w) (fD w))
  | 9 => accept [(fD w == 0#8, .unusedField), (fC w == 0#8, .unusedField), (fMod w &&& 0xffff#16 == 0#16, .reservedBits)] (.tdset (fHdr w) (fA w) (fB w))
  | 10 => accept [(fB w == 0#8, .unusedField), (fC w == 0#8, .unusedField), (fMod w &&& 0xffff#16 == 0#16, .reservedBits)] (.tdget (fHdr w) (fD w) (fA w))
  | 11 => if fMod w == 0#16 then accept [(fB w == 0#8, .unusedField), (fC w == 0#8, .unusedField)] (.ftest (fHdr w) (fD w) (fA w))
    else if fMod w == 1#16 then accept [(fB w == 0#8, .unusedField), (fC w == 0#8, .unusedField)] (.ftestRaw (fHdr w) (fD w) (fA w))
    else .error .reservedBits
  | 12 => accept [(fB w == 0#8, .unusedField), (fC w == 0#8, .unusedField), (fMod w &&& 0xffff#16 == 0#16, .reservedBits)] (.fwait (fHdr w) (fD w) (fA w))
  | 13 => if fMod w == 0#16 then accept [(fD w == 0#8, .unusedField), (fB w == 0#8, .unusedField), (fC w == 0#8, .unusedField)] (.fcancel (fHdr w) (fA w))
    else if fMod w == 1#16 then accept [(fD w == 0#8, .unusedField), (fB w == 0#8, .unusedField), (fC w == 0#8, .unusedField)] (.fcancelRaw (fHdr w) (fA w))
    else .error .reservedBits
  | _ => .error .reservedOpcode

/-- Row 0x180 of the map (R86). -/
def decodeRow18 (w : W64) (col : Nat) : Except DecodeError Instr :=
  match col with
  | 0 => accept [(fA w == 0#8, .unusedField), (fB w == 0#8, .unusedField), (fC w == 0#8, .unusedField), (fMod w &&& 0xfffe#16 == 0#16, .reservedBits)] (.snew (fHdr w) (fD w) (w.getLsbD 0))
  | 1 => accept [(fB w == 0#8, .unusedField), (fC w == 0#8, .unusedField), (fMod w &&& 0xffff#16 == 0#16, .reservedBits)] (.sfree (fHdr w) (fD w) (fA w))
  | 2 => accept [(fMod w &&& 0xffff#16 == 0#16, .reservedBits)] (.sins (fHdr w) (fD w) (fA w) (fB w) (fC w))
  | 3 => accept [(fMod w &&& 0xffff#16 == 0#16, .reservedBits)] (.sdel (fHdr w) (fD w) (fA w) (fB w) (fC w))
  | 4 => accept [(fC w == 0#8, .unusedField), (fMod w &&& 0xffff#16 == 0#16, .reservedBits)] (.smemb (fHdr w) (fD w) (fA w) (fB w))
  | 5 => accept [(fB w == 0#8, .unusedField), (fC w == 0#8, .unusedField), (fMod w &&& 0xffff#16 == 0#16, .reservedBits)] (.scard (fHdr w) (fD w) (fA w))
  | 6 => accept [(fC w == 0#8, .unusedField), (fMod w &&& 0xfffe#16 == 0#16, .reservedBits)] (.sunion (fHdr w) (fD w) (fA w) (fB w) (w.getLsbD 0))
  | 7 => accept [(fC w == 0#8, .unusedField), (fMod w &&& 0xfffe#16 == 0#16, .reservedBits)] (.sinter (fHdr w) (fD w) (fA w) (fB w) (w.getLsbD 0))
  | 8 => accept [(fC w == 0#8, .unusedField), (fMod w &&& 0xfffe#16 == 0#16, .reservedBits)] (.sdiff (fHdr w) (fD w) (fA w) (fB w) (w.getLsbD 0))
  | 9 => accept [(fMod w &&& 0xffff#16 == 0#16, .reservedBits)] (.senum (fHdr w) (fD w) (fA w) (fB w) (fC w))
  | 10 => accept [(fC w == 0#8, .unusedField), (fMod w &&& 0xffff#16 == 0#16, .reservedBits)] (.srep (fHdr w) (fD w) (fA w) (fB w))
  | 11 => accept [(fC w == 0#8, .unusedField), (fMod w &&& 0xfff8#16 == 0#16, .reservedBits)] (.scost (fHdr w) (fD w) (fA w) (fB w) (w.extractLsb' 0 2) (w.getLsbD 2))
  | 12 => accept [(fB w == 0#8, .unusedField), (fC w == 0#8, .unusedField), (fMod w &&& 0xffff#16 == 0#16, .reservedBits)] (.tqload (fHdr w) (fD w) (fA w))
  | 13 => accept [(fB w == 0#8, .unusedField), (fC w == 0#8, .unusedField), (fMod w &&& 0xffff#16 == 0#16, .reservedBits)] (.tqry (fHdr w) (fD w) (fA w))
  | 14 => accept [(fB w == 0#8, .unusedField), (fC w == 0#8, .unusedField), (fMod w &&& 0xffff#16 == 0#16, .reservedBits)] (.tqfree (fHdr w) (fD w) (fA w))
  | _ => accept [(fB w == 0#8, .unusedField), (fC w == 0#8, .unusedField), (fMod w &&& 0xffff#16 == 0#16, .reservedBits)] (.ired (fHdr w) (fD w) (fA w))

/-- Row 0x1c0 of the map (R86). -/
def decodeRow1C (w : W64) (col : Nat) : Except DecodeError Instr :=
  match col with
  | 0 => accept [] (.recruit (fHdr w) (fD w) (fA w) (fImm w))
  | 1 => accept [(fB w == 0#8, .unusedField), (fC w == 0#8, .unusedField), (fMod w &&& 0xffff#16 == 0#16, .reservedBits)] (.hldr (fHdr w) (fD w) (fA w))
  | 2 => accept [(fD w == 0#8, .unusedField), (fA w == 0#8, .unusedField), (fB w == 0#8, .unusedField), (fC w == 0#8, .unusedField), (fMod w &&& 0xffff#16 == 0#16, .reservedBits)] (.hrelease (fHdr w))
  | 3 => accept [(fB w == 0#8, .unusedField), (fC w == 0#8, .unusedField), (fMod w &&& 0xfff0#16 == 0#16, .reservedBits)] (.hjoin (fHdr w) (fD w) (fA w) (w.extractLsb' 0 4))
  | _ => .error .reservedOpcode

/-- The instruction that a word encodes (R63 to R72, R86 to R88). A word it refuses raises ILLOP at the word, or is a trailer. -/
def decode (w : W64) : Except DecodeError Instr :=
  let col := (fOpc w).toNat % 16
  match (fOpc w).toNat / 16 with
  | 0 => decodeRow00 w col
  | 1 => decodeRow01 w col
  | 2 => decodeRow02 w col
  | 3 => decodeRow03 w col
  | 4 => decodeRow04 w col
  | 5 => decodeRow05 w col
  | 6 => decodeRow06 w col
  | 8 => decodeRow08 w col
  | 12 => decodeRow0C w col
  | 16 => decodeRow10 w col
  | 17 => decodeRow11 w col
  | 20 => decodeRow14 w col
  | 24 => decodeRow18 w col
  | 28 => decodeRow1C w col
  | 31 => if col = 15 then .error .trailer else .error .reservedOpcode
  | _ => .error .reservedOpcode

/-! ### The encoder -/

/-- A word of format R or E (R65, R67). -/
def wordR (opc : BitVec 9) (h : Hdr) (d a b c : Code) (m : BitVec 16) : W64 :=
  opc ++ h.dist ++ BitVec.ofBool h.neg ++ h.idx ++ d ++ a ++ b ++ c ++ m
/-- A word of format I (R65). -/
def wordI (opc : BitVec 9) (h : Hdr) (d a : Code) (imm : W32) : W64 :=
  opc ++ h.dist ++ BitVec.ofBool h.neg ++ h.idx ++ d ++ a ++ imm
/-- A word of format M (R66). -/
def wordM (opc : BitVec 9) (h : Hdr) (d a b : Code) (m : MFld) : W64 :=
  opc ++ h.dist ++ BitVec.ofBool h.neg ++ h.idx ++ d ++ a ++ b ++ m.ty ++ m.scope ++ m.sem ++ m.cache ++ m.off
/-- A word of format B (R68). -/
def wordB (opc : BitVec 9) (h : Hdr) (a : Code) (neg : BitVec 1) (idx : BitVec 3) (woff : W32) : W64 :=
  opc ++ h.dist ++ BitVec.ofBool h.neg ++ h.idx ++ a ++ neg ++ 0#4 ++ idx ++ woff

/-- The word of an instruction (R63 to R69, R86), 0 for an event, which has no word. -/
def encode : Instr → W64
  | .iadd h d a b sat => wordR 0x0#9 h d a b 0#8 (0#14 ++ sat)
  | .iaddImm h d a imm => wordI 0x20#9 h d a imm
  | .isub h d a b sat => wordR 0x1#9 h d a b 0#8 (0#14 ++ sat)
  | .isubImm h d a imm => wordI 0x21#9 h d a imm
  | .imul h d a b sat => wordR 0x2#9 h d a b 0#8 (0#14 ++ sat)
  | .imulImm h d a imm => wordI 0x22#9 h d a imm
  | .imulh h d a b nat => wordR 0x3#9 h d a b 0#8 (0#15 ++ BitVec.ofBool nat)
  | .imad h d a b c => wordR 0x4#9 h d a b c 0#16
  | .idiv h d a b signed rem => wordR 0x5#9 h d a b 0#8 (0#14 ++ BitVec.ofBool rem ++ BitVec.ofBool signed)
  | .idot4 h d a b c sa sb => wordR 0x6#9 h d a b c (0#14 ++ BitVec.ofBool sb ++ BitVec.ofBool sa)
  | .imin h d a b nat => wordR 0x7#9 h d a b 0#8 (0#15 ++ BitVec.ofBool nat)
  | .iminImm h d a imm => wordI 0x27#9 h d a imm
  | .imax h d a b nat => wordR 0x8#9 h d a b 0#8 (0#15 ++ BitVec.ofBool nat)
  | .imaxImm h d a imm => wordI 0x28#9 h d a imm
  | .iabs h d a => wordR 0x9#9 h d a 0#8 0#8 0#16
  | .ineg h d a => wordR 0xa#9 h d a 0#8 0#8 0#16
  | .and h d a b => wordR 0xb#9 h d a b 0#8 0#16
  | .andImm h d a imm => wordI 0x2b#9 h d a imm
  | .or h d a b => wordR 0xc#9 h d a b 0#8 0#16
  | .orImm h d a imm => wordI 0x2c#9 h d a imm
  | .xor h d a b => wordR 0xd#9 h d a b 0#8 0#16
  | .xorImm h d a imm => wordI 0x2d#9 h d a imm
  | .not h d a => wordR 0xe#9 h d a 0#8 0#8 0#16
  | .shl h d a b => wordR 0xf#9 h d a b 0#8 0#16
  | .shlImm h d a imm => wordI 0x2f#9 h d a imm
  | .shr h d a b => wordR 0x10#9 h d a b 0#8 0#16
  | .shrImm h d a imm => wordI 0x30#9 h d a imm
  | .sar h d a b => wordR 0x11#9 h d a b 0#8 0#16
  | .sarImm h d a imm => wordI 0x31#9 h d a imm
  | .rot h d a b right => wordR 0x12#9 h d a b 0#8 (0#15 ++ BitVec.ofBool right)
  | .rotImm h d a imm => wordI 0x32#9 h d a imm
  | .clz h d a => wordR 0x13#9 h d a 0#8 0#8 0#16
  | .popc h d a => wordR 0x14#9 h d a 0#8 0#8 0#16
  | .brev h d a => wordR 0x15#9 h d a 0#8 0#8 0#16
  | .bfx h d a b signed => wordR 0x16#9 h d a b 0#8 (0#15 ++ BitVec.ofBool signed)
  | .bfi h d a b c => wordR 0x17#9 h d a b c 0#16
  | .icmp h d a b cc => wordR 0x18#9 h d a b 0#8 (0#12 ++ cc)
  | .icmpImm h d a cc imm => wordI 0x38#9 h d a (cc ++ imm)
  | .sel h d a b c nc => wordR 0x19#9 h d a b c (0#15 ++ BitVec.ofBool nc)
  | .mov h d a w64 => wordR 0x1a#9 h d a 0#8 0#8 (0#15 ++ BitVec.ofBool w64)
  | .movi h d imm => wordI 0x1b#9 h d 0#8 imm
  | .movhi h d a imm => wordI 0x1c#9 h d a imm
  | .lea h d cbr imm => wordI 0x1d#9 h d (if cbr then 1#8 else 0#8) imm
  | .fadd h d a b => wordR 0x40#9 h d a b 0#8 0#16
  | .faddImm h d a imm => wordI 0x60#9 h d a imm
  | .fsub h d a b => wordR 0x41#9 h d a b 0#8 0#16
  | .fsubImm h d a imm => wordI 0x61#9 h d a imm
  | .fmul h d a b => wordR 0x42#9 h d a b 0#8 0#16
  | .fmulImm h d a imm => wordI 0x62#9 h d a imm
  | .ffma h d a b c => wordR 0x43#9 h d a b c 0#16
  | .fmin h d a b => wordR 0x44#9 h d a b 0#8 0#16
  | .fminImm h d a imm => wordI 0x64#9 h d a imm
  | .fmax h d a b => wordR 0x45#9 h d a b 0#8 0#16
  | .fmaxImm h d a imm => wordI 0x65#9 h d a imm
  | .fcmp h d a b cc => wordR 0x48#9 h d a b 0#8 (0#12 ++ cc)
  | .fcmpImm h d a cc imm => wordI 0x68#9 h d a (cc ++ imm)
  | .fabs h d a => wordR 0x46#9 h d a 0#8 0#8 0#16
  | .fneg h d a => wordR 0x47#9 h d a 0#8 0#8 0#16
  | .frnd h d a => wordR 0x49#9 h d a 0#8 0#8 0#16
  | .cvt h d a sr dst src => wordR 0x4a#9 h d a 0#8 0#8 (0#7 ++ BitVec.ofBool sr ++ dst ++ src)
  | .rcp h d a => wordR 0x4b#9 h d a 0#8 0#8 0#16
  | .rsq h d a => wordR 0x4c#9 h d a 0#8 0#8 0#16
  | .sqrt h d a => wordR 0x4d#9 h d a 0#8 0#8 0#16
  | .ex2 h d a => wordR 0x4e#9 h d a 0#8 0#8 0#16
  | .lg2 h d a => wordR 0x4f#9 h d a 0#8 0#8 0#16
  | .sin h d a => wordR 0x50#9 h d a 0#8 0#8 0#16
  | .cos h d a => wordR 0x51#9 h d a 0#8 0#8 0#16
  | .tanh h d a => wordR 0x52#9 h d a 0#8 0#8 0#16
  | .lshfl h d a b k mode => wordR 0x80#9 h d a b 0#8 (0#11 ++ k ++ mode)
  | .lbcst h d a b first => wordR 0x81#9 h d a b 0#8 (0#15 ++ BitVec.ofBool first)
  | .lvote h d a mode => wordR 0x82#9 h d a 0#8 0#8 (0#14 ++ mode)
  | .lredx h d a op => wordR 0x83#9 h d a 0#8 0#8 (0#12 ++ op)
  | .lscan h d a op excl => wordR 0x84#9 h d a 0#8 0#8 (0#11 ++ BitVec.ofBool excl ++ op)
  | .lmatch h d a w64 => wordR 0x85#9 h d a 0#8 0#8 (0#15 ++ BitVec.ofBool w64)
  | .lelect h d hi => wordR 0x86#9 h d 0#8 0#8 0#8 (0#15 ++ BitVec.ofBool hi)
  | .spk24 h d a fmt => wordR 0x87#9 h d a 0#8 0#8 (0#14 ++ fmt)
  | .vcompact h d a b c nc => wordR 0x88#9 h d a b c (0#15 ++ BitVec.ofBool nc)
  | .pand h d a b na nb => wordR 0x89#9 h d a b 0#8 (0#14 ++ BitVec.ofBool nb ++ BitVec.ofBool na)
  | .por h d a b na nb => wordR 0x8a#9 h d a b 0#8 (0#14 ++ BitVec.ofBool nb ++ BitVec.ofBool na)
  | .pxor h d a b na nb => wordR 0x8b#9 h d a b 0#8 (0#14 ++ BitVec.ofBool nb ++ BitVec.ofBool na)
  | .pnot h d a => wordR 0x8c#9 h d a 0#8 0#8 0#16
  | .wsync h a => wordR 0x8d#9 h 0#8 a 0#8 0#8 0#16
  | .ld h d a b m => wordM 0xc0#9 h d a b m
  | .st h d a b m => wordM 0xc1#9 h d a b m
  | .pref h a b m => wordM 0xc2#9 h 0#8 a b m
  | .atom h d a b m => wordM 0xc3#9 h d a b m
  | .cas h d a b m => wordM 0xc4#9 h d a b m
  | .red h d a m => wordM 0xc5#9 h d a 0#8 m
  | .stt h d a b m => wordM 0xc6#9 h d a b m
  | .retract h d a m => wordM 0xc7#9 h d a 0#8 m
  | .commit h a m => wordM 0xc8#9 h 0#8 a 0#8 m
  | .fenceFull h scope cache => wordM 0xc9#9 h 0#8 0#8 0#8 ⟨4#4, scope, 0#2, cache, 0#11⟩
  | .fenceWb h a b scope cache => wordM 0xc9#9 h 0#8 a b ⟨5#4, scope, 0#2, cache, 0#11⟩
  | .mwait h d a b m => wordM 0xca#9 h d a b m
  | .enter h n => wordM 0xcb#9 h 0#8 0#8 0#8 ⟨0#4, 0#3, 0#2, 0#4, n⟩
  | .leave h => wordM 0xcc#9 h 0#8 0#8 0#8 ⟨0#4, 0#3, 0#2, 0#4, 0#11⟩
  | .nop h => wordR 0x100#9 h 0#8 0#8 0#8 0#8 0#16
  | .bra h woff => wordB 0x101#9 h 0#8 0#1 0#3 woff
  | .brc h neg idx woff => wordB 0x102#9 h 0#8 (BitVec.ofBool neg) idx woff
  | .brx h a => wordB 0x103#9 h a 0#1 0#3 0#32
  | .call h woff => wordB 0x104#9 h 0#8 0#1 0#3 woff
  | .callx h a => wordB 0x105#9 h a 0#1 0#3 0#32
  | .ret h => wordR 0x106#9 h 0#8 0#8 0#8 0#8 0#16
  | .joinh h n => wordI 0x107#9 h 0#8 0#8 (0#25 ++ n)
  | .exit h => wordR 0x108#9 h 0#8 0#8 0#8 0#8 0#16
  | .yield h => wordR 0x109#9 h 0#8 0#8 0#8 0#8 0#16
  | .trap h code => wordI 0x10a#9 h 0#8 0#8 (0#16 ++ code)
  | .trapret h => wordR 0x10b#9 h 0#8 0#8 0#8 0#8 0#16
  | .bkpt h code => wordI 0x10c#9 h 0#8 0#8 (0#16 ++ code)
  | .csrr h d num => wordI 0x10d#9 h d 0#8 (0#20 ++ num)
  | .csrw h a num => wordI 0x10e#9 h 0#8 a (0#20 ++ num)
  | .clock h d => wordR 0x10f#9 h d 0#8 0#8 0#8 0#16
  | .icinv h => wordR 0x110#9 h 0#8 0#8 0#8 0#8 0#16
  | .bar h lvl num => wordI 0x111#9 h 0#8 0#8 (0#26 ++ lvl ++ num)
  | .bara h lvl num => wordI 0x112#9 h 0#8 0#8 (0#26 ++ lvl ++ num)
  | .barw h lvl num => wordI 0x113#9 h 0#8 0#8 (0#26 ++ lvl ++ num)
  | .launch h d a b => wordR 0x114#9 h d a b 0#8 0#16
  | .cpy h d a b => wordR 0x140#9 h d a b 0#8 0#16
  | .cpyg h d a b c mq slot => wordR 0x141#9 h d a b c (0#13 ++ slot ++ BitVec.ofBool mq)
  | .cpyt h d a b c mq slot => wordR 0x142#9 h d a b c (0#13 ++ slot ++ BitVec.ofBool mq)
  | .mseat h d a b c i4 sp => wordR 0x143#9 h d a b c (0#14 ++ BitVec.ofBool sp ++ BitVec.ofBool i4)
  | .mmul h d a b c p arm slot => wordR 0x144#9 h d a b c (0#9 ++ slot ++ BitVec.ofBool arm ++ p)
  | .mprom h d c => wordR 0x145#9 h d 0#8 0#8 c 0#16
  | .mread h d a b c => wordR 0x146#9 h d a b c 0#16
  | .mclr h d c => wordR 0x147#9 h d 0#8 0#8 c 0#16
  | .mstat h d => wordR 0x148#9 h d 0#8 0#8 0#8 0#16
  | .tdset h a b => wordR 0x149#9 h 0#8 a b 0#8 0#16
  | .tdget h d a => wordR 0x14a#9 h d a 0#8 0#8 0#16
  | .ftest h d a => wordR 0x14b#9 h d a 0#8 0#8 0#16
  | .ftestRaw h d a => wordR 0x14b#9 h d a 0#8 0#8 1#16
  | .fwait h d a => wordR 0x14c#9 h d a 0#8 0#8 0#16
  | .fcancel h a => wordR 0x14d#9 h 0#8 a 0#8 0#8 0#16
  | .fcancelRaw h a => wordR 0x14d#9 h 0#8 a 0#8 0#8 1#16
  | .snew h d far => wordR 0x180#9 h d 0#8 0#8 0#8 (0#15 ++ BitVec.ofBool far)
  | .sfree h d a => wordR 0x181#9 h d a 0#8 0#8 0#16
  | .sins h d a b c => wordR 0x182#9 h d a b c 0#16
  | .sdel h d a b c => wordR 0x183#9 h d a b c 0#16
  | .smemb h d a b => wordR 0x184#9 h d a b 0#8 0#16
  | .scard h d a => wordR 0x185#9 h d a 0#8 0#8 0#16
  | .sunion h d a b snap => wordR 0x186#9 h d a b 0#8 (0#15 ++ BitVec.ofBool snap)
  | .sinter h d a b snap => wordR 0x187#9 h d a b 0#8 (0#15 ++ BitVec.ofBool snap)
  | .sdiff h d a b snap => wordR 0x188#9 h d a b 0#8 (0#15 ++ BitVec.ofBool snap)
  | .senum h d a b c => wordR 0x189#9 h d a b c 0#16
  | .srep h d a b => wordR 0x18a#9 h d a b 0#8 0#16
  | .scost h d a b op snap => wordR 0x18b#9 h d a b 0#8 (0#13 ++ BitVec.ofBool snap ++ op)
  | .tqload h d a => wordR 0x18c#9 h d a 0#8 0#8 0#16
  | .tqry h d a => wordR 0x18d#9 h d a 0#8 0#8 0#16
  | .tqfree h d a => wordR 0x18e#9 h d a 0#8 0#8 0#16
  | .ired h d a => wordR 0x18f#9 h d a 0#8 0#8 0#16
  | .recruit h d a imm => wordI 0x1c0#9 h d a imm
  | .hldr h d a => wordR 0x1c1#9 h d a 0#8 0#8 0#16
  | .hrelease h => wordR 0x1c2#9 h 0#8 0#8 0#8 0#8 0#16
  | .hjoin h d a op => wordR 0x1c3#9 h d a 0#8 0#8 (0#12 ++ op)
  | _ => 0#64

/-! ### Trailers and runs (R69, R74, R75, R77) -/

/-- The word is a trailer: OPC 0x1FF. -/
def isTrailer (w : W64) : Bool := fOpc w == 0x1FF#9
/-- BINDi of a trailer, i from 0 to 3. -/
def trailerBind (w : W64) (i : Nat) : Nat := (w.extractLsb' (44 - 4 * i) 4).toNat
/-- WAIT of a trailer. -/
def trailerWait (w : W64) : BitVec 12 := w.extractLsb' 20 12
/-- LEN of a trailer. -/
def trailerLen (w : W64) : Nat := (w.extractLsb' 15 5).toNat
/-- Bits [54:48] and [14:0] of a trailer are zero (R80). -/
def trailerClean (w : W64) : Bool := w.extractLsb' 48 7 == 0#7 && w.extractLsb' 0 15 == 0#15
/-- A trailer from its fields. -/
def wordT (b0 b1 b2 b3 : BitVec 4) (wait : BitVec 12) (len : BitVec 5) : W64 :=
  0x1FF#9 ++ 0#7 ++ b0 ++ b1 ++ b2 ++ b3 ++ wait ++ len ++ 0#15

/-- OPC of a long-latency instruction (R77). -/
def opcLong (o : Nat) : Bool := o == 0x005 || (0x04B ≤ o && o ≤ 0x052) || o == 0x0C0 || o == 0x0C3 || o == 0x0C4 ||
  o == 0x0C6 || o == 0x0C7 || o == 0x0CA
/-- OPC of a control transfer (R75): BRA, BRC, BRX, CALL, CALLX, RET, EXIT, TRAPRET, RECRUIT, HRELEASE, HJOIN. -/
def opcTransfer (o : Nat) : Bool := (0x101 ≤ o && o ≤ 0x106) || o == 0x108 || o == 0x10B || o == 0x1C0 || o == 0x1C2 ||
  o == 0x1C3
/-- OPC of an engine word that issues one command per lane, and so may use one future slot per lane (R37). -/
def opcEngineLane (o : Nat) : Bool := o == 0x114 || (0x140 ≤ o && o ≤ 0x142) || o == 0x14C || (0x180 ≤ o && o ≤ 0x183) ||
  (0x185 ≤ o && o ≤ 0x18F)
/-- OPC of an engine word that issues one command per path (R37): the matrix instructions and SMEMB. -/
def opcEnginePath (o : Nat) : Bool := (0x143 ≤ o && o ≤ 0x148) || o == 0x184

/-- The future slots that a run of `n` lanes takes (R37). -/
def runSlots (ws : List W64) (n : Nat) : Nat :=
  (ws.map fun w => if opcEngineLane (fOpc w).toNat then n else if opcEnginePath (fOpc w).toNat then 1 else 0).foldl (· + ·) 0

/-- The words of a run obey R74, R75 and R77: length, LEN, control transfer last and alone, bindings. -/
def runShape (ws : List W64) (t : W64) : Bool :=
  let k := (ws.filter fun w => opcLong (fOpc w).toNat).length
  isTrailer t && 1 ≤ ws.length && ws.length ≤ 24 && trailerLen t == ws.length &&
  (ws.dropLast.all fun w => !opcTransfer (fOpc w).toNat) && k ≤ 4 &&
  ([0, 1, 2, 3].all fun i => if i < k then trailerBind t i ≤ 11 else trailerBind t i == 15)

/-- A trailer for a run of one word: its BIND names F0 when the word is long-latency (R77). -/
def trailerFor (w : W64) : W64 :=
  wordT (if opcLong (fOpc w).toNat then 0#4 else 15#4) 15#4 15#4 15#4 0#12 1#5

/-- The instruction in the low `nbits` bits of `w`, the bits above them zero: one 64-bit word (R7). -/
def decodeTableWord (nbits w : Nat) : Option Instr :=
  match decode (BitVec.ofNat 64 (w % 2 ^ nbits)) with
  | .ok i => some i
  | .error _ => none

end Sys2Proof
end

