-- ==== Sys2Proof/Machine/State.lean ====
section
/-!
DEFINITION. The state of the part as plain data: every holder of state that the spec names, each sparse (an absent
entry stands for its reset value), and `State.reset`. Addresses of byte storage are natural numbers in one key space:
HBM physical addresses, then the second tier from 2^52, then the scratchpads of the cores from 2^53, 2^20 apart (log 2).
-/

namespace Sys2Proof.Machine

/-- A sparse map from numbers: the first pair with a key gives its value. -/
abbrev SMap (α : Type) := List (Nat × α)

/-- Byte storage in canonical form: addresses strictly rising, no entry equal to the unlisted byte (log 3). -/
abbrev Memory := List Host.Cell

/-- Why the machine stops with a fault. The part itself reports every condition by a trap or a context fault (R317),
which are next states; the one fault is about the input of the model. -/
inductive Fault where
  /-- Raised by `step` when the agenda, the list of events that the outside and the scheduler supply, holds an
  instruction word: no agent of the spec executes a word outside a run. Safe: the machine stops. -/
  | wordInAgenda
  deriving DecidableEq, Repr

/-- Why an instruction has no meaning. -/
inductive Refusal where
  /-- Raised by an arm of `exec` whose instruction is not modelled yet. Safe: the machine stops. -/
  | notModelled (mnemonic : String)
  deriving DecidableEq, Repr

/-! ### Threads (R11, R91) -/

/-- A control entry of a thread's stack (R158). `clobbered` marks an entry whose value is unspecified when popped (R160),
`anyKind` one whose kind is unspecified as well (R324). -/
structure CtlEntry where
  off : Nat
  ret : Bool
  val : W64
  clobbered : Bool
  anyKind : Bool
  deriving DecidableEq, Repr

/-- A fixed-latency result in flight (R82, R83): operand code, value (bit 0 for a predicate), the clk it issued in and
the clk it completes in. -/
structure FixWrite where
  code : Nat
  val : W32
  issued : Nat
  due : Nat
  deriving DecidableEq, Repr

/-- A future slot and the sequence number of its command (R34). -/
structure FutRef where
  core : Nat
  slot : Nat
  seq : Nat
  deriving DecidableEq, Repr

/-- What a fault bit reports when it is observed (R327). -/
structure FaultInfo where
  sub : Nat
  epc : W64
  seq : Nat
  cls : Nat
  deriving DecidableEq, Repr

/-- A barrier wait of a lane (R200): `at_` is the clk of the return once the phase has released (R197). -/
structure BarWait where
  lvl : Nat
  num : Nat
  at_ : Option Nat
  deriving DecidableEq, Repr

/-- What is set aside of a lent lane (R295) and where it came from (R297). -/
structure Lent where
  y : SMap W32
  p : BitVec 8
  f : SMap Nat
  parked : Bool
  pc : W64
  deriving DecidableEq, Repr

/-- A lane's part in a helper group (R292 to R296). `claim` is the outcome of its claim at an HRELEASE whose run end is at hand: an iteration
below N, or N for none. -/
structure HelperPart where
  grp : Nat
  idx : Nat
  hidx : W32
  claim : Option Nat
  inBody : Bool
  sd0 : Nat
  lent : Option Lent
  deriving DecidableEq, Repr

/-- An effect that a run applies at its end (R76). Masks name the lanes whose guard was true. `bar` is BAR (kind 0), BARA
(1) or BARW (2); `sync` is the wait of a WSYNC, and `release` the release of the WSYNC phase that the run has completed (R197, R204). -/
inductive RunEff where
  | bar (kind lvl num : Nat) (m : Mask)
  | sync (m : Mask)
  | release (took : Mask)
  | csrw (num : Nat) (vals : SMap W32)
  | icinv (m : Mask)
  | yield
  | joinh (n : Nat)
  deriving DecidableEq, Repr

/-- One lane of a warp: a thread (R91). `spilled` and `hspilled` count the oldest control entries of its stack and of the handler's that
stand in memory (R158, R160). `arrived` holds the set arrived bits with the number of the access that would have come next (R178, R199),
`rearrive` the arrivals that wait for the next phase (R200), `kept` the waits of R90 and R326, `heldWaits`, `heldSync` and `heldWaitF` the
waits that a trap has interrupted (R79, R322), `fcs` and `fu` the first access numbers after the last FENCE or barrier for C and S pages
and for U pages (R166), and `frel` the FENCEs that make the next write a release (R171): one more than the scope of each and the first
access number after it. `edges` names lanes, with two numbers: their C and S accesses below the first come before this lane's from the
second on (R171, R178 for WSYNC, R459). -/
structure Lane where
  id : Nat
  pc : W64
  run : W64
  fp : Bool
  exited : Bool
  g : SMap W32
  p : BitVec 8
  t : SMap W32
  tset : BitVec 8
  y : SMap W32
  f : SMap Nat
  waitF : BitVec 12
  inflight : List FixWrite
  pend : SMap FutRef
  faults : SMap FaultInfo
  stk : List CtlEntry
  sdepth : Nat
  cached : Nat
  spilled : Nat
  slim : Nat
  hstk : List CtlEntry
  hsdepth : Nat
  hspilled : Nat
  wid : W64
  flat : Nat
  fpctl : W32
  arrived : List (Nat × Nat × Nat)
  rearrive : List (Nat × Nat)
  waits : List BarWait
  syncing : Bool
  kept : List RunEff
  heldWaits : List BarWait
  heldSync : Bool
  heldWaitF : BitVec 12
  fcs : Nat
  fu : Nat
  frel : List (Nat × Nat)
  edges : List (List (WarpKey × Nat) × Nat × Nat)
  helper : Option HelperPart
  joinp : Bool
  noMatch : Option W64
  homed : Bool
  deriving DecidableEq, Repr

/-! ### Paths and warps (R14, R92) -/

/-- The control transfer of a run (R75), with what its word read at issue. -/
inductive Transfer where
  | fall
  | goto (targets : SMap W64)
  | exit (m : Mask)
  | trapret (m : Mask)
  | recruit (m : Mask) (d : Nat) (counts : SMap W32) (body : W64)
  | hrelease (m : Mask)
  | hjoin (m : Mask) (d y op : Nat)
  deriving DecidableEq, Repr

/-- A FENCE whose path stalls (R180, R181): the lanes, the first access number after it, its scope, for FENCE.wb the range of
each lane (lane, base, length), and the physical lines whose write-back it awaits once the earlier stores are performed. -/
structure FenceWait where
  mask : Mask
  before : Nat
  scope : BitVec 3
  ranges : List (Nat × Nat × Nat)
  lines : Option (List Nat)
  deriving DecidableEq, Repr

/-- A path inside a run (R18): the words as fetched (R107), the word to issue next, its datapath, the future slots it holds,
its run-end effects so far, the first access number of the run and the FENCE at which it stalls. -/
structure InRun where
  base : W64
  first : Nat
  fence : Option FenceWait
  words : List W64
  trailer : W64
  idx : Nat
  dp : Nat
  slots : Nat
  effs : List RunEff
  transfer : Transfer
  deriving DecidableEq, Repr

/-- A path whose last word has issued and whose run-end effects wait (R19, R76); `first`, `dp` and `slots` are those of its run (R18, R37). -/
structure Ending where
  base : W64
  first : Nat
  dp : Nat
  slots : Nat
  next : W64
  waitF : BitVec 12
  effs : List RunEff
  transfer : Transfer
  deriving DecidableEq, Repr

/-- A valid split-table entry (R14) and what the part keeps with the path; `behind` is the datapath of the run at whose end a recruiter
that has left it may go on (R335). -/
structure Path where
  pc : W64
  run : W64
  fp : Bool
  mask : Mask
  age : Nat
  lastIssue : Nat
  endedAt : Nat
  hold : Option Nat
  yieldAt : Option Nat
  handler : Bool
  trapped : Bool
  stepping : Bool
  behind : Option Nat
  inRun : Option InRun
  ending : Option Ending
  deriving DecidableEq, Repr

/-- A precise trap that waits for its entry (R319): the frame header's fields (R321), the register that an ENGINE trap observed (R327), and
the run-end effects that R90 settles. -/
structure TrapReq where
  cause : Nat
  sub : Nat
  tpc : W64
  epc : W64
  tlanes : Mask
  eseq : Nat
  ecls : Nat
  ereg : Nat
  nrec : Nat
  fbfirst : W32
  effs : List RunEff
  deriving DecidableEq, Repr

/-- A WSYNC phase of a warp (R204): its mask and the lanes that have taken part. -/
structure SyncPhase where
  mask : Mask
  took : Mask
  deriving DecidableEq, Repr

/-- A resident warp (R92): its split table, mode bits, lanes, WSYNC phase and the phases that are complete and release at the end of a run
(R197, R204), the lanes of ICINVs that await their stores outside any run end (R107), matrix slots (R156) and what debugging keeps (R340).
`stepOne` tells that a STEP in serial mode waits for the first lane that may start (R343). `entryState` and `entryAt` hold STATE and
SDEPTH, and PC and RUN, of each lane's record at the last trap entry (R322). -/
structure Warp where
  key : WarpKey
  ctx : Nat
  blk : Nat
  nreg : Nat
  lanes : List Lane
  paths : List Path
  serial : Bool
  sage : Nat
  lastServed : Nat
  helpctl : W32
  trapMode : Bool
  trapReq : Option TrapReq
  deferred : List TrapReq
  entryState : SMap (Nat × Nat)
  entryAt : SMap (W64 × W64)
  trapId : Nat
  phase : Option SyncPhase
  closing : List Mask
  icinv : List Mask
  mq : SMap FutRef
  halt : Bool
  haltReq : Option Nat
  reason : Nat
  stepOne : Bool
  ctlPath : Nat
  since : Nat
  restoring : Bool
  deriving DecidableEq, Repr

/-- The trap of one participant kept with its group (R300), with what an ENGINE trap reports (R327). -/
structure Charge where
  cause : Nat
  sub : Nat
  epc : W64
  eseq : Nat
  ecls : Nat
  ereg : Nat
  ts : Nat
  helper : Nat
  iter : W32
  nrec : Nat
  fbfirst : W32
  deriving DecidableEq, Repr

/-- A helper group (R292 to R300): its recruiter, iteration count N, counter, the participants still in the body, every
participant it has had, captured Y registers by helper index, and charges. -/
structure HelperGroup where
  id : Nat
  w : WarpKey
  lane : Nat
  n : Nat
  counter : Nat
  body : W64
  cont : W64
  members : List (Nat × WarpKey × Nat)
  every : List (WarpKey × Nat)
  captured : SMap (SMap W32)
  charges : List Charge
  deriving DecidableEq, Repr

/-! ### Memory accesses (R148, R161 to R178) -/

/-- Page kinds (R135, R166). -/
inductive PageKind where
  | S | C | U
  deriving DecidableEq, Repr

/-- What an access does at the home. -/
inductive AccKind where
  | ld | st | atom | cas | red | stt | retract | commit | mwait | tdset
  deriving DecidableEq, Repr

/-- Where an access goes: a key of the byte storage, an offset of a core's window or debug window, the memory of
another device, or a descriptor of a context (R499). -/
inductive Loc where
  | mem (key : Nat)
  | window (core off : Nat)
  | remote (rank : Nat) (va : W64)
  | desc (ctx tid : Nat)
  deriving DecidableEq, Repr

/-- Where an access stands; `refused` holds the reason that the receiving port gave (R329) until every request of the word has an
answer (R437). -/
inductive AccState where
  | pending
  | remoteWait
  | parked
  | performed
  | refused (cause : Nat)
  deriving DecidableEq, Repr

/-- The scope instances that an agent belongs to (R161): its warp (block and flat index of its first thread, which last), block, cluster
(launch and number), die, and whether it is of this device and of the pod. -/
structure Agent where
  ctx : Nat
  w : Option (Nat × Nat)
  blk : Option Nat
  cl : Option (Nat × Nat)
  die : Option Nat
  dv : Bool
  pd : Bool
  deriving DecidableEq, Repr

/-- One access of one thread, from its issue until its result is written. Numbers rise in program order. `grp` names the word that issued
it, at `pc` of the run at `base`; `half` marks the low half of a 16-byte access, whose high half carries the flag (R163). `wide` is the
descriptor of a TDSET, `ts` the timestamp of the word's issue (R336). `rel` is one more than the scope at which it is a release, or 0, and
`fences` are the FENCEs that make it one (R171). -/
structure Access where
  id : Nat
  grp : Nat
  half : Bool
  kind : AccKind
  ctx : Nat
  w : WarpKey
  lane : Nat
  wid : W64
  launch : Nat
  loc : Loc
  va : W64
  bytes : Nat
  page : PageKind
  sem : BitVec 2
  scope : BitVec 3
  ty : BitVec 4
  data : W128
  wide : BitVec 512
  cmp : W64
  dst : Nat
  flag : Option Nat
  walk : Option Nat
  mask : Mask
  pc : W64
  base : W64
  agent : Agent
  fcs : Nat
  fu : Nat
  rel : Nat
  fences : List (Nat × Nat)
  tkey : Nat
  ts : Nat
  st : AccState
  result : W128
  deriving DecidableEq, Repr

/-- A long-latency arithmetic result that waits to be written (IDIV and the special functions, R77); `queued` tells a special function
(R319). -/
structure MathOp where
  id : Nat
  w : WarpKey
  lane : Nat
  dst : Nat
  val : W32
  flag : Nat
  queued : Bool
  deriving DecidableEq, Repr

/-! ### Sets (R220 to R242) -/

/-- A chunk of a set (R225): HI, REPK, TIER, its keys in ascending order, M and ADDR. -/
structure Chunk where
  hi : Nat
  repk : Nat
  tier : Nat
  keys : List Nat
  m : Nat
  addr : Nat
  deriving DecidableEq, Repr

/-- A directory entry (R224) of the heap at an address: the log as (key, insert) pairs, oldest first, the chunk tables at REP and OREP, what
a fold in flight will publish, and the addresses of the three tables, 0 for none. -/
structure SetEntry where
  heap : Nat
  idx : Nat
  log : List (Nat × Bool)
  foldn : Nat
  rep : List Chunk
  orep : Option (List Chunk)
  rdr : Nat
  ordr : Nat
  gen : Nat
  st : Nat
  tier : Nat
  ver : W32
  lastAppend : Nat
  fold : Option (List Chunk)
  repAt : Nat
  orepAt : Nat
  foldAt : Nat
  deriving DecidableEq, Repr

/-- What an entry read copies (R238): REP, VER and the log; and whether a fold was in flight. -/
structure SetSnap where
  handle : W32
  ver : W32
  rep : List Chunk
  log : List (Nat × Bool)
  fold : Bool
  deriving DecidableEq, Repr

/-! ### Engine operations (R34, R174) -/

/-- The engine commands. -/
inductive EngKind where
  | cpy | cpyg | cpyt
  | mseat | mmul | mprom | mread | mclr | mstat
  | snew | sfree | sins | sdel | smemb | scard | sunion | sinter | sdiff | senum | srep | scost
  | tqload | tqry | tqfree | ired | launch | fwait
  deriving DecidableEq, Repr

/-- Where an engine operation stands: held by the fork (R175), waiting for range entries (R151), waiting at its engine,
executing, armed (R156), resolved with a value per lane, faulted, or stopped. -/
inductive OpState where
  | held | entries | queued | running | armed
  | done (vals : SMap W32)
  | fault (sub : Nat)
  | stopped
  deriving DecidableEq, Repr

/-- A request to another device for the signal word of a record (R308): not sent, out, or answered. -/
inductive FarReq where
  | none | out | answered
  deriving DecidableEq, Repr

/-- One command of an engine, in its future slot: what its word read at issue, then how far it has come. `born` is its number, `issued` the
clk of its issue or, for an armed MMUL, of the copy that fired it, `slim` and `flat` are the issuing thread's stack (R138), `vals` what it
has gathered and not yet written, `prog` and `acc` its progress and running result, `laneSub` sub-causes of single lanes (R485), `target`
the command that an FWAIT waits for, `gone` that its warp has retired (R33), `file` the descriptors as the thread of an IRED saw them at
issue (R103), `asked` the sectors of other devices, by their numbers and what is done there, for which it has sent requests, and `far` the
numbers of those requests without an answer (R329), `waits` the spans of ns in which an item of it has waited for tokens (R267). -/
structure EngOp where
  core : Nat
  slot : Nat
  seq : Nat
  born : Nat
  issued : Nat
  kind : EngKind
  ctx : Nat
  launch : Nat
  blk : Nat
  w : WarpKey
  lanes : Mask
  dst : Nat
  epc : W64
  ga : W64
  gb : W64
  gc : W64
  ectl : Nat
  laneArgs : List (Nat × W32 × W32)
  descs : List (BitVec 512)
  fpctl : W32
  heap : W64
  slim : Nat
  flat : Nat
  vals : List Nat
  state : OpState
  snaps : List SetSnap
  prog : Nat
  acc : W32
  status : W32
  laneSub : SMap Nat
  sectorsDone : List Nat
  reports : Nat
  target : Option FutRef
  resolved : Bool
  retained : Bool
  cancelReq : Bool
  gone : Bool
  file : SMap (BitVec 512)
  asked : List Nat
  far : List Nat
  waits : List (Nat × Nat)
  deriving DecidableEq, Repr

/-- A range-scoreboard entry (R151): bounding range in the core's scratchpad, rounded to 32-byte sectors. -/
structure RangeEntry where
  id : Nat
  write : Bool
  lo : Nat
  hi : Nat
  op : FutRef
  granted : Bool
  deriving DecidableEq, Repr

/-! ### Matrix engine (R245) -/

/-- A seat: aligned elements by k × 256 + n, exponents XB and NaN marks by column, the flags and metadata bytes. -/
structure Seat where
  b : SMap Int
  xb : SMap Int
  mark : SMap Bool
  sparse : Bool
  int8 : Bool
  mdata : SMap Nat
  deriving DecidableEq, Repr

/-- The matrix engine of a core (R245, R247): narrow accumulators (value and exponent), step counters and accumulator
words by row × 256 + column; the holding block; the numbers of the commands that have reached the engine, in order, and of those that
wait for it; LASTCLK. -/
structure Matrix where
  holder : Option Nat
  seat0 : Seat
  seat1 : Seat
  narrow : SMap (Int × Int)
  steps : SMap Nat
  acc : SMap W32
  queue : List Nat
  waiting : List Nat
  lastClk : Nat
  deriving DecidableEq, Repr

/-! ### Cores and partitions (R3 to R5, R105, R290) -/

/-- The key under which a byte was written (R367): key id and its generation. -/
structure KeyTag where
  key : Nat
  gen : Nat
  deriving DecidableEq, Repr

/-- An L1 line (R162, R165): key of its first byte, bytes as filled with the keys under which they were written (R367), page kind, clk of the
fill. -/
structure L1Line where
  line : Nat
  bytes : List Host.Cell
  tags : SMap KeyTag
  kind : PageKind
  filled : Nat
  deriving DecidableEq, Repr

/-- An instruction-cache line of a core (R105, R106). -/
structure ICLine where
  ctx : Nat
  va : W64
  words : List W64
  deriving DecidableEq, Repr

/-- A tentative-line entry of a core (R290): the line and, while it is marked evicted, the threads (context and WID) whose RETRACT or COMMIT
ends the mark. -/
structure TentEntry where
  line : Nat
  marks : List (Nat × W64)
  deriving DecidableEq, Repr

/-- A core. -/
structure Core where
  id : Nat
  mat : Matrix
  ranges : List RangeEntry
  l1 : List L1Line
  icache : List ICLine
  predictor : SMap Nat
  tent : List TentEntry
  seqs : SMap Nat
  throttled : Bool
  deriving DecidableEq, Repr

/-- A run in the run buffer (R105): words and trailer, or the cause of a failed fetch (R80). -/
structure RunBuf where
  ctx : Nat
  pc : W64
  words : List W64
  fault : Option (Nat × W64)
  deriving DecidableEq, Repr

/-- A partition (R3, R22, R105, R350). -/
structure Partition where
  core : Nat
  part : Nat
  served : Option Nat
  lastWarp : Nat
  runbuf : List RunBuf
  prof : SMap W32
  lastFetch : Nat
  deriving DecidableEq, Repr

/-! ### Memory system -/

/-- A tentative word at its home (R286): key of the word, old value, observed bit, the owner and its core, or 256 and the number of its block
while that is saved (R291), or none once its warp has retired (R290). -/
structure TentWord where
  key : Nat
  old : W32
  observed : Bool
  ctx : Nat
  wid : W64
  core : Option Nat
  deriving DecidableEq, Repr

/-- The last release to a word as the home records it (R173): key of the word, scope, agent. -/
structure RelRec where
  key : Nat
  scope : BitVec 3
  agent : Agent
  deriving DecidableEq, Repr

/-- A page walk (R149): the die of the access that missed, context, page, and whether it has one of the die's walks or waits for one. -/
structure Walk where
  die : Nat
  ctx : Nat
  page : Nat
  active : Bool
  deriving DecidableEq, Repr

/-- A translation held in the TLB (R137): page base and size, physical key, page-table entry. -/
structure TlbEntry where
  ctx : Nat
  va : Nat
  size : Nat
  pte : W64
  deriving DecidableEq, Repr

/-! ### Tables of the base dies (R268 to R271) -/

/-- A table of a context: loading or live, its format, entries, and the queries accepted before a TQFREE's mark. -/
structure Table where
  id : Nat
  live : Bool
  fmt : Nat
  entries : List W32
  owner : FutRef
  accepted : List FutRef
  freed : Bool
  deriving DecidableEq, Repr

/-- An item of a stack's FIFO (R278): its operation, weight, the number of the row of the operation, and since which ns it waits for
tokens. -/
structure StackItem where
  op : FutRef
  weight : Nat
  row : Nat
  blocked : Option Nat
  deriving DecidableEq, Repr

/-- An HBM stack (R278, R279): token level, refill and depth, FIFO, clk of the last refill, and the tables whose copy
stands in the other bank group, or is being rebuilt. -/
structure Stack where
  id : Nat
  level : Int
  refill : Nat
  depth : Nat
  fifo : List StackItem
  last : Nat
  moved : List (Nat × Nat)
  rebuilding : List (Nat × Nat)
  deriving DecidableEq, Repr

/-! ### Contexts (R96, R101, R359) -/

/-- A context: the header as the host wrote it and as it stands since creation, the CSR image and the context-held CSRs, descriptors
(R101), tables, sets, STATUS (R362) and CTL (R360). `wdSeen` tells that it has had a resident warp in this tick (R316). `stickySet` holds
the clk in which the part last set each STICKY bit (R99), `csrBy` timestamp and source of the last CSRW of each register (R94), `ring`
timestamp, source and bytes of the FAULTBUF records that FBTAIL has not passed, in ring order (R351). `heapBad` tells that something other
than the Crock has written the set heap (R222), and `heaps` holds the heaps whose directory a set command has looked at (R487). `old` holds
the header and CSRs as a core sees them until the next run boundary after an UPDATE (R360). -/
structure Ctx where
  num : Nat
  live : Bool
  stopped : Bool
  record : BitVec 512
  hdr : BitVec 512
  img : SMap W32
  ctl : W32
  status : W64
  csr : SMap W32
  stickySet : SMap Nat
  csrBy : SMap (Nat × Nat)
  ring : List (Nat × Nat × Nat)
  desc : SMap (BitVec 512)
  tables : List Table
  sets : List SetEntry
  heapBad : Bool
  heaps : List Nat
  old : SMap (BitVec 512 × SMap W32)
  wdActive : Bool
  wdSeen : Bool
  wdTick : Nat
  deriving DecidableEq, Repr

/-! ### Queues, launches, blocks (R301 to R316) -/

/-- A hardware work queue (R363). `cur` is the launch whose signal is awaited or whose blocks are being placed; `entries` and `origins` name
the records, by number, that a LAUNCH of this device appended or another device forwarded; `forwards` wait for room. `far` holds the pieces of
16 bytes of the next record that another device has been asked for, with its answers (R364). -/
structure Queue where
  id : Nat
  qbase : W64
  log2n : Nat
  ctx : Nat
  enable : Bool
  stopped : Bool
  cause : Nat
  tail : W32
  head : W32
  cur : Option Nat
  entries : List (Nat × FutRef)
  origins : List (Nat × Nat)
  forwards : List (BitVec 512 × Nat)
  far : SMap (Option W128)
  deriving DecidableEq, Repr

/-- A launch: one accepted record on this device. `next` is the next cluster that it places; `waitSince` and `pref` are the start of its wait
for a core and the core it prefers; `ranks` are the devices that have still to answer, `sig` is the read of a signal word on another
device, and `seen` the key of the signal word that was read last, until a write reaches it (R308). -/
structure Launch where
  id : Nat
  ctx : Nat
  q : Nat
  record : BitVec 512
  started : Bool
  next : Nat
  placed : Nat
  liveBlks : Nat
  waitSince : Option Nat
  waited : Bool
  pref : Option Nat
  fut : Option FutRef
  origin : Option Nat
  ranks : List Nat
  gridMsgs : List (Nat × Nat)
  failed : Bool
  scope : BitVec 3
  sig : FarReq
  seen : Option Nat
  deriving DecidableEq, Repr

/-- A block (R32): resident, being saved (for pre-emption, or with true for migration, `target` being the core to which the block that
migrates goes), or saved; then `core` names the core it left, and `since` the clk of its save. -/
structure Block where
  id : Nat
  launch : Nat
  ctx : Nat
  b : Nat
  cluster : Nat
  f1 : Nat
  core : Nat
  scr : Nat
  scrLen : Nat
  warps : List WarpKey
  since : Nat
  saving : Option Bool
  target : Option Nat
  saved : Bool
  retired : Bool
  deriving DecidableEq, Repr

/-- The saved state of a block (R331), with its parked waits (R330), the helper groups of its recruiters (R298), the release records of
its scratch (R173) and the units of 64 KiB that its record takes in the save area (R330). -/
structure SavedBlock where
  blk : Nat
  warps : List Warp
  waits : List Access
  scratch : List Host.Cell
  mat : Option Matrix
  tent : List TentEntry
  groups : List HelperGroup
  rels : List RelRec
  units : List Nat
  deriving DecidableEq, Repr

/-! ### Links, host and Kiln (R357 to R372) -/

/-- A request to another device (R364): its number here, its size in bytes for R366, the rank of the device, the VA, the access type as ACC
of R325 names it, or 7 for a forwarded record or a message of R307, SEM and scope. The key id is that of the tenant in whose queue it
stands. -/
structure OutReq where
  id : Nat
  bytes : Nat
  rank : Nat
  va : W64
  acc : Nat
  sem : BitVec 2
  scope : BitVec 3
  deriving DecidableEq, Repr

/-- Requests of one tenant queued at a UALink port, oldest first, and the tenant's deficit (R366). -/
structure TenantQ where
  key : Nat
  reqs : List OutReq
  deficit : Nat
  deriving DecidableEq, Repr

/-- An answer that the part has given to a request from outside: the link port, or 8 for the host, the sequence number of the request, and the
value read or, with `cause`, the reason for which it was refused (R177, R329). -/
structure Reply where
  port : Nat
  seq : W32
  cause : Option Nat
  data : Nat
  deriving DecidableEq, Repr

/-- A Kiln log entry (R369). -/
structure LogEntry where
  ts : Nat
  src : Nat
  code : Nat
  data : Nat
  deriving DecidableEq, Repr

/-- A watch report that is due but not yet written (R349); `owner` is the number of the engine command, or 2^64 plus the
link port. -/
structure DueReport where
  ctx : Nat
  addr : W64
  seq : W32
  bytes : BitVec 16
  ts : Nat
  src : BitVec 8
  core : Nat
  wslot : Nat
  lane : Nat
  kind : Nat
  acc : Nat
  owner : Nat
  deriving DecidableEq, Repr

/-- The state of the part. `barDue` holds the barriers whose phase is complete, with the clk at which it releases (R197). `cxlPoison` names
the second-tier ports that answer the next request with a poison indication (R368), `lineOwners` the core that owns a line since its
last local atomic (R207), `replies` the answers given to the outside, oldest first, `scrambled` the keys and lengths of bytes that save
records have left unspecified (R330, R331). `free` counts the free values taken (the model's own, log 4), `issueQ` the words due in this
clk and `agenda` the events of the outside (log 1). -/
structure State where
  clk : Nat
  issueQ : List (WarpKey × Nat)
  agenda : List Instr
  nextId : Nat
  free : Nat
  mem : Memory
  dram : SMap (List Host.Cell)
  dramTags : SMap KeyTag
  writeBacks : List Nat
  keyTags : SMap KeyTag
  keyGens : SMap Nat
  tlb : List TlbEntry
  walks : List Walk
  lineOwners : SMap Nat
  scrambled : List (Nat × Nat)
  tentWords : List TentWord
  releases : List RelRec
  accesses : List Access
  maths : List MathOp
  ops : List EngOp
  cores : List Core
  parts : List Partition
  warps : List Warp
  groups : List HelperGroup
  barDue : List (BarKey × Nat)
  ctxs : List Ctx
  queues : List Queue
  launches : List Launch
  blocks : List Block
  saved : List SavedBlock
  hbm : List Stack
  lastQueue : SMap Nat
  lastCore : Nat
  bar0 : SMap W64
  tenants : SMap W32
  ports : SMap (List TenantQ)
  reports : List DueReport
  replies : List Reply
  msix : List Nat
  kilnLog : List LogEntry
  flashLog : List LogEntry
  droopMax : Nat
  fwBank : SMap (List Byte)
  fwActive : Nat
  fwNext : Nat
  cxlDown : List Nat
  cxlPoison : List Nat
  lostRanks : List Nat
  deriving DecidableEq, Repr

/-- The state after reset and bring-up has reached READY (R372): BOOT reads step 7 with READY set, nothing is
created, placed or listed, and every sparse map reads as its reset value. -/
def State.reset : State where
  clk := 1
  issueQ := []
  agenda := []
  nextId := 1
  free := 0
  mem := []
  dram := []
  dramTags := []
  writeBacks := []
  keyTags := []
  keyGens := []
  tlb := []
  walks := []
  lineOwners := []
  scrambled := []
  tentWords := []
  releases := []
  accesses := []
  maths := []
  ops := []
  cores := []
  parts := []
  warps := []
  groups := []
  barDue := []
  ctxs := []
  queues := []
  launches := []
  blocks := []
  saved := []
  hbm := []
  lastQueue := []
  lastCore := 255
  bar0 := [(0, 0x107#64)]
  tenants := []
  ports := []
  reports := []
  replies := []
  msix := []
  kilnLog := []
  flashLog := []
  droopMax := 32
  fwBank := []
  fwActive := 0
  fwNext := 0
  cxlDown := []
  cxlPoison := []
  lostRanks := []

end Sys2Proof.Machine
end

