-- ==== Sys2Proof/Machine/Base.lean ====
section
/-!
DEFINITION. Sparse maps, byte storage in canonical form, lane masks, and the look-up and update of each holder of state by
its name. Nothing here has an effect of its own; every other file of the machine reads and writes the state through these.
-/

namespace Sys2Proof.Machine

/-! ### Sparse maps and lists -/

/-- The value at a key, or `d`. -/
def smGet {α : Type} (d : α) : List (Nat × α) → Nat → α
  | [], _ => d
  | (k', v) :: r, k => if k' == k then v else smGet d r k

/-- The value at a key, if any. -/
def smFind {α : Type} : List (Nat × α) → Nat → Option α
  | [], _ => none
  | (k', v) :: r, k => if k' == k then some v else smFind r k

/-- The map with a value at a key. -/
def smSet {α : Type} : List (Nat × α) → Nat → α → List (Nat × α)
  | [], k, v => [(k, v)]
  | (k', v') :: r, k, v => if k' == k then (k, v) :: r else (k', v') :: smSet r k v

/-- The map without a key. -/
def smErase {α : Type} (m : List (Nat × α)) (k : Nat) : List (Nat × α) := m.filter fun e => e.1 != k

/-- The list with `f` applied to its elements that satisfy `p`, or with `f d` appended when none does. -/
def upsert {α : Type} (p : α → Bool) (d : α) (f : α → α) (l : List α) : List α :=
  if l.any p then l.map fun x => if p x then f x else x else l ++ [f d]

/-- The list with `f` applied to its elements that satisfy `p`. -/
def mapIf {α : Type} (p : α → Bool) (f : α → α) (l : List α) : List α := l.map fun x => if p x then f x else x

/-- The first element that satisfies `p`, or `d`. -/
def findD {α : Type} (p : α → Bool) (d : α) (l : List α) : α := (l.find? p).getD d

/-- Sum of a list. -/
def sumN (l : List Nat) : Nat := l.foldl (· + ·) 0

/-- Largest of a list, 0 when empty. -/
def maxN (l : List Nat) : Nat := l.foldl max 0

/-- Least of a list, `d` when empty. -/
def minN (d : Nat) : List Nat → Nat
  | [] => d
  | x :: r => r.foldl min x

/-- Insertion by a key, after equal keys. -/
def insertBy {α : Type} (key : α → Nat) (x : α) : List α → List α
  | [] => [x]
  | y :: r => if key x < key y then x :: y :: r else y :: insertBy key x r

/-- Stable sort by a key. -/
def sortBy {α : Type} (key : α → Nat) (l : List α) : List α := l.foldl (fun a x => insertBy key x a) []

/-- The distinct elements of a list, first occurrences. -/
def distinct {α : Type} [BEq α] (l : List α) : List α := l.foldl (fun a x => if a.contains x then a else a ++ [x]) []

/-- Ceiling of a quotient. -/
def ceilDiv (a b : Nat) : Nat := (a + b - 1) / b

/-- Whether two ranges of addresses meet. -/
def overlap (a n b m : Nat) : Bool := a < b + m && b < a + n

/-! ### Lane masks -/

/-- The lanes of a mask, ascending. -/
def lanesOf (m : Mask) : List Nat := (List.range 32).filter fun l => m.getLsbD l

/-- The mask of a list of lanes. -/
def maskOf (ls : List Nat) : Mask := ls.foldl (fun m l => m ||| (1#32 <<< l)) 0#32

/-- The lowest lane of a mask. -/
def lowLane (m : Mask) : Nat := (lanesOf m).headD 32

/-- How many lanes a mask names. -/
def popMask (m : Mask) : Nat := (lanesOf m).length

/-! ### Byte storage (R7, R163) -/

/-- The byte at an address. -/
def memGet (m : Memory) (a : Nat) : Byte := smGet Config.unlisted m a

/-- The storage with a byte written; it stays in canonical form. -/
def memSet : Memory → Nat → Byte → Memory
  | [], a, b => if b == Config.unlisted then [] else [(a, b)]
  | (a', b') :: r, a, b =>
    if a < a' then (if b == Config.unlisted then (a', b') :: r else (a, b) :: (a', b') :: r)
    else if a == a' then (if b == Config.unlisted then r else (a, b) :: r)
    else (a', b') :: memSet r a b

/-- Canonical form: addresses rise strictly from `lo`, and no entry is the byte that an unlisted address reads as. -/
def memWfFrom : Nat → Memory → Bool
  | _, [] => true
  | lo, (a, b) :: r => lo ≤ a && b != Config.unlisted && memWfFrom (a + 1) r

/-- The canonical form of byte storage (log 3). -/
def Memory.wf (m : Memory) : Bool := memWfFrom 0 m

/-- The little-endian number in `n` bytes (R7). -/
def memRead (m : Memory) (a : Nat) : Nat → Nat
  | 0 => 0
  | n + 1 => (memGet m a).toNat + 256 * memRead m (a + 1) n

/-- The storage with `n` bytes of a little-endian number written. -/
def memWrite (m : Memory) (a : Nat) : Nat → Nat → Memory
  | 0, _ => m
  | n + 1, v => memWrite (memSet m a (BitVec.ofNat 8 (v % 256))) (a + 1) n (v / 256)

/-! ### The key space of byte storage (log 2) -/

/-- Key of a second-tier physical address (DESIGN CHOICE, log 2). -/
def keyTier2 : Nat := 2 ^ 52
/-- Key of byte 0 of core 0's scratchpad. -/
def keyScratch : Nat := 2 ^ 53
/-- Key of a byte of a core's scratchpad. -/
def scratchKey (core off : Nat) : Nat := keyScratch + core * 2 ^ 20 + off
/-- The key lies in a scratchpad. -/
def isScratchKey (k : Nat) : Bool := keyScratch ≤ k
/-- The core of a scratchpad key. -/
def keyCore (k : Nat) : Nat := (k - keyScratch) / 2 ^ 20
/-- The number of a key's 128-byte line. -/
def lineOf (k : Nat) : Nat := k / 128

/-! ### Fields of records -/

/-- Bits [hi:lo] of a number. -/
def bitsN (v hi lo : Nat) : Nat := v / 2 ^ lo % 2 ^ (hi + 1 - lo)

/-- Bits [hi:lo] of a 64-byte record. -/
def recF (r : BitVec 512) (hi lo : Nat) : Nat := bitsN r.toNat hi lo

/-- A value as the signed number in its lowest `n` bits. -/
def signedN (n v : Nat) : Int := if v % 2 ^ n < 2 ^ (n - 1) then (v % 2 ^ n : Nat) else (v % 2 ^ n : Nat) - (2 ^ n : Nat)

/-! ### Empty holders -/

/-- A thread as it stands before anything is written (R91) (DESIGN CHOICE, log 6). -/
def blankLane (id : Nat) : Lane where
  id := id
  pc := 0
  run := 0
  fp := false
  exited := false
  g := []
  p := 0
  t := []
  tset := 0
  y := []
  f := []
  waitF := 0
  inflight := []
  pend := []
  faults := []
  stk := []
  sdepth := 0
  cached := 0
  spilled := 0
  slim := 0
  hstk := []
  hsdepth := 0
  hspilled := 0
  wid := 0
  flat := 0
  fpctl := 8
  arrived := []
  rearrive := []
  waits := []
  syncing := false
  kept := []
  heldWaits := []
  heldSync := false
  heldWaitF := 0
  fcs := 0
  fu := 0
  frel := []
  edges := []
  helper := none
  joinp := false
  noMatch := none
  homed := false

/-- A path at a run boundary. -/
def newPath (pc : W64) (m : Mask) : Path where
  pc := pc
  run := 0
  fp := false
  mask := m
  age := 0
  lastIssue := 0
  endedAt := 0
  hold := none
  yieldAt := none
  handler := false
  trapped := false
  stepping := false
  behind := none
  inRun := none
  ending := none

/-- A seat of zeros (R247). -/
def blankSeat : Seat := ⟨[], [], [], false, false, []⟩

/-- A free matrix engine (R245). -/
def blankMatrix : Matrix where
  holder := none
  seat0 := blankSeat
  seat1 := blankSeat
  narrow := []
  steps := []
  acc := []
  queue := []
  waiting := []
  lastClk := 0

/-- A core that nothing has touched. -/
def blankCore (id : Nat) : Core where
  id := id
  mat := blankMatrix
  ranges := []
  l1 := []
  icache := []
  predictor := []
  tent := []
  seqs := []
  throttled := false

/-- A partition that nothing has touched. -/
def blankPart (core part : Nat) : Partition where
  core := core
  part := part
  served := none
  lastWarp := 15
  runbuf := []
  prof := []
  lastFetch := 0

/-- A context record that nothing has written (R359). SPAN resets to 1. -/
def blankCtx (num : Nat) : Ctx where
  num := num
  live := false
  stopped := false
  record := BitVec.ofNat 512 (2 ^ 396)
  hdr := BitVec.ofNat 512 (2 ^ 396)
  img := []
  ctl := 0
  status := 0
  csr := []
  stickySet := []
  csrBy := []
  ring := []
  desc := []
  tables := []
  sets := []
  heapBad := false
  heaps := []
  old := []
  wdActive := false
  wdSeen := false
  wdTick := 0

/-- A queue that nothing has set up (R363). -/
def blankQueue (id : Nat) : Queue where
  id := id
  qbase := 0
  log2n := 0
  ctx := 0
  enable := false
  stopped := false
  cause := 0
  tail := 0
  head := 0
  cur := none
  entries := []
  origins := []
  forwards := []
  far := []

/-- A stack of the base dies with a full bucket (R278). -/
def blankStack (id : Nat) : Stack where
  id := id
  level := 65536
  refill := 48
  depth := 65536
  fifo := []
  last := 0
  moved := []
  rebuilding := []

/-- A warp slot that holds no warp (PRESUMED, log 7). -/
def blankWarp (k : WarpKey) : Warp where
  key := k
  ctx := 0
  blk := 0
  nreg := 0
  lanes := []
  paths := []
  serial := false
  sage := 0
  lastServed := 31
  helpctl := 1
  trapMode := false
  trapReq := none
  deferred := []
  entryState := []
  entryAt := []
  trapId := 0
  phase := none
  closing := []
  icinv := []
  mq := []
  halt := false
  haltReq := none
  reason := 0
  stepOne := false
  ctlPath := 0
  since := 0
  restoring := false

/-- A block that no one has placed. -/
def blankBlock : Block where
  id := 0
  launch := 0
  ctx := 0
  b := 0
  cluster := 0
  f1 := 0
  core := 0
  scr := 0
  scrLen := 0
  warps := []
  since := 0
  saving := none
  target := none
  saved := false
  retired := true

/-- A launch that no record made. -/
def blankLaunch : Launch where
  id := 0
  ctx := 0
  q := 0
  record := 0
  started := false
  next := 0
  placed := 0
  liveBlks := 0
  waitSince := none
  waited := false
  pref := none
  fut := none
  origin := none
  ranks := []
  gridMsgs := []
  failed := false
  scope := 4
  sig := .none
  seen := none

/-! ### Look-up and update -/

/-- The warp with a key, if it is resident. -/
def State.warpAt? (s : State) (k : WarpKey) : Option Warp := s.warps.find? fun w => w.key == k
/-- The warp with a key, or an empty slot. -/
def State.warpAt (s : State) (k : WarpKey) : Warp := (s.warpAt? k).getD (blankWarp k)
/-- The state with one warp changed. -/
def State.modWarp (s : State) (k : WarpKey) (f : Warp → Warp) : State :=
  { s with warps := mapIf (fun w => w.key == k) f s.warps }
/-- The lane of a warp. -/
def Warp.laneAt (w : Warp) (l : Nat) : Lane := findD (fun x => x.id == l) (blankLane l) w.lanes
/-- The warp with one lane changed. -/
def Warp.modLane (w : Warp) (l : Nat) (f : Lane → Lane) : Warp :=
  { w with lanes := mapIf (fun x => x.id == l) f w.lanes }
/-- The warp with the lanes of a mask changed. -/
def Warp.mapLanes (w : Warp) (m : Mask) (f : Lane → Lane) : Warp :=
  { w with lanes := mapIf (fun x => m.getLsbD x.id) f w.lanes }
/-- The warp with every lane changed. -/
def Warp.eachLane (w : Warp) (f : Lane → Lane) : Warp := { w with lanes := w.lanes.map f }
/-- The state with one lane changed. -/
def State.modLane (s : State) (k : WarpKey) (l : Nat) (f : Lane → Lane) : State := s.modWarp k fun w => w.modLane l f
/-- A lane by its warp's key. -/
def State.laneAt (s : State) (k : WarpKey) (l : Nat) : Lane := (s.warpAt k).laneAt l
/-- The path of a lane, if it is in one. -/
def Warp.pathOf? (w : Warp) (l : Nat) : Option Path := w.paths.find? fun p => p.mask.getLsbD l
/-- The warp with the path of a lane changed. -/
def Warp.modPath (w : Warp) (l : Nat) (f : Path → Path) : Warp :=
  { w with paths := mapIf (fun p => p.mask.getLsbD l) f w.paths }
/-- The state with the path of a lane changed. -/
def State.modPath (s : State) (k : WarpKey) (l : Nat) (f : Path → Path) : State := s.modWarp k fun w => w.modPath l f
/-- A core. -/
def State.coreAt (s : State) (c : Nat) : Core := findD (fun x => x.id == c) (blankCore c) s.cores
/-- The state with one core changed. -/
def State.modCore (s : State) (c : Nat) (f : Core → Core) : State :=
  { s with cores := upsert (fun x => x.id == c) (blankCore c) f s.cores }
/-- A partition. -/
def State.partAt (s : State) (c p : Nat) : Partition := findD (fun x => x.core == c && x.part == p) (blankPart c p) s.parts
/-- The state with one partition changed. -/
def State.modPart (s : State) (c p : Nat) (f : Partition → Partition) : State :=
  { s with parts := upsert (fun x => x.core == c && x.part == p) (blankPart c p) f s.parts }
/-- A context. -/
def State.ctxAt (s : State) (x : Nat) : Ctx := findD (fun c => c.num == x) (blankCtx x) s.ctxs
/-- The state with one context changed. -/
def State.modCtx (s : State) (x : Nat) (f : Ctx → Ctx) : State :=
  { s with ctxs := upsert (fun c => c.num == x) (blankCtx x) f s.ctxs }
/-- A queue. -/
def State.queueAt (s : State) (q : Nat) : Queue := findD (fun x => x.id == q) (blankQueue q) s.queues
/-- The state with one queue changed. -/
def State.modQueue (s : State) (q : Nat) (f : Queue → Queue) : State :=
  { s with queues := upsert (fun x => x.id == q) (blankQueue q) f s.queues }
/-- A stack. -/
def State.stackAt (s : State) (i : Nat) : Stack := findD (fun x => x.id == i) (blankStack i) s.hbm
/-- The state with one stack changed. -/
def State.modStack (s : State) (i : Nat) (f : Stack → Stack) : State :=
  { s with hbm := upsert (fun x => x.id == i) (blankStack i) f s.hbm }
/-- The operation in a future slot, if the slot is taken. -/
def State.opAt? (s : State) (core slot : Nat) : Option EngOp := s.ops.find? fun o => o.core == core && o.slot == slot
/-- The state with the operation of a slot changed. -/
def State.modOp (s : State) (core slot : Nat) (f : EngOp → EngOp) : State :=
  { s with ops := mapIf (fun o => o.core == core && o.slot == slot) f s.ops }
/-- The operation that a reference names, when the slot still holds that command. -/
def State.opOf? (s : State) (r : FutRef) : Option EngOp :=
  s.ops.find? fun o => o.core == r.core && o.slot == r.slot && o.seq == r.seq
/-- The state with one access changed. -/
def State.modAccess (s : State) (id : Nat) (f : Access → Access) : State :=
  { s with accesses := mapIf (fun a => a.id == id) f s.accesses }
/-- A launch. -/
def State.launchAt (s : State) (id : Nat) : Launch := findD (fun x => x.id == id) blankLaunch s.launches
/-- The state with one launch changed. -/
def State.modLaunch (s : State) (id : Nat) (f : Launch → Launch) : State :=
  { s with launches := mapIf (fun x => x.id == id) f s.launches }
/-- A block. -/
def State.blockAt (s : State) (id : Nat) : Block := findD (fun x => x.id == id) blankBlock s.blocks
/-- The state with one block changed. -/
def State.modBlock (s : State) (id : Nat) (f : Block → Block) : State :=
  { s with blocks := mapIf (fun x => x.id == id) f s.blocks }
/-- A helper group, if it stands. -/
def State.groupAt? (s : State) (id : Nat) : Option HelperGroup := s.groups.find? fun g => g.id == id
/-- The state with one helper group changed. -/
def State.modGroup (s : State) (id : Nat) (f : HelperGroup → HelperGroup) : State :=
  { s with groups := mapIf (fun g => g.id == id) f s.groups }
/-- The state with a BAR0 register written. -/
def State.setBar0 (s : State) (off : Nat) (v : W64) : State := { s with bar0 := smSet s.bar0 off v }

/-! ### Time, the device, free values -/

/-- The global timestamp at 1 GHz, from clk of 1.3 GHz (R6). -/
def State.ts (s : State) : Nat := s.clk * 10 / 13
/-- A duration in ns as clk, rounded up (R6). -/
def clkOfNs (ns : Nat) : Nat := ceilDiv (ns * 13) 10
/-- The pod rank of this device (R358). -/
def State.podRank (s : State) : Nat := bitsN (smGet 0#64 s.bar0 8).toNat 9 0
/-- The number of devices of the pod (R358). -/
def State.podSize (s : State) : Nat := bitsN (smGet 0#64 s.bar0 8).toNat 25 16 + 1
/-- The state with the counter of free values advanced. -/
def State.useFree (s : State) : State := { s with free := s.free + 1 }

/-! ### Fields of contexts, launches and blocks -/

/-- PRIV of a context's header (R359). -/
def Ctx.priv (c : Ctx) : Bool := c.hdr.getLsbD 385
/-- PMAP of a context's header. -/
def Ctx.pmap (c : Ctx) : Bool := c.hdr.getLsbD 384
/-- TKEY of a context's header, read as CTX[15:8]. -/
def Ctx.tkey (c : Ctx) : Nat := recF c.hdr 471 464
/-- SPAN of a context's header (R306). -/
def Ctx.span (c : Ctx) : Nat := recF c.hdr 406 396
/-- RANK of a context's header. -/
def Ctx.rank (c : Ctx) : Nat := recF c.hdr 395 386
/-- The physical address of the root table. -/
def Ctx.root (c : Ctx) : Nat := recF c.hdr 511 472 * 4096
/-- TEXTBASE as an address (R361). -/
def Ctx.textBase (c : Ctx) : Nat := recF c.hdr 383 334 * 128
/-- CBRBASE as an address. -/
def Ctx.cbrBase (c : Ctx) : Nat := recF c.hdr 333 284 * 128

/-- STKBASE as an address (R303). -/
def Launch.stkBase (l : Launch) : Nat := recF l.record 283 231 * 16
/-- SLIM in bytes. -/
def Launch.slim (l : Launch) : Nat := recF l.record 60 49 * 16
/-- SCRATCH in bytes. -/
def Launch.scratch (l : Launch) : Nat := recF l.record 76 61 * 16
/-- Extent of field i. -/
def Launch.ext (l : Launch) (i : Nat) : Nat :=
  match i with
  | 0 => recF l.record 164 154
  | 1 => recF l.record 153 149
  | 2 => recF l.record 148 133
  | 3 => recF l.record 132 117
  | 4 => recF l.record 116 101
  | _ => recF l.record 100 85
/-- Width of field i. -/
def Launch.wid (l : Launch) (i : Nat) : Nat := recF l.record (206 - 7 * i) (200 - 7 * i)
/-- NREG. -/
def Launch.nreg (l : Launch) : Nat := recF l.record 84 77
/-- PRIO. -/
def Launch.prio (l : Launch) : Nat := recF l.record 20 19
/-- PIN. -/
def Launch.pin (l : Launch) : Bool := l.record.getLsbD 18
/-- The record lists barrier `num` of level `lvl` (R198). -/
def Launch.hasBar (l : Launch) (lvl num : Nat) : Bool :=
  match lvl with
  | 0 => l.record.getLsbD (33 + num)
  | 1 => l.record.getLsbD (25 + num)
  | _ => l.record.getLsbD (21 + num)
/-- Clusters of the grid. -/
def Launch.clusters (l : Launch) : Nat := l.ext 2 * l.ext 3 * l.ext 4 * l.ext 5

/-- Window slot of a warp (R142). -/
def winOf (k : WarpKey) : Nat := k.part * 16 + k.slot
/-- PLACE of a warp (R96). -/
def placeWord (k : WarpKey) : W32 := BitVec.ofNat 32 (k.core + k.part * 256 + k.slot * 1024)
/-- The die of a core (R3). -/
def dieOf (core : Nat) : Nat := core / 64
/-- The hardware cluster of a core, by number in the part (R3). -/
def hwCluster (core : Nat) : Nat := core / 16
/-- The stack that serves a core's queries (R273). -/
def stackOf (core : Nat) : Nat := 2 * dieOf core + (core % 64 / 16) / 2

/-- The launch of a warp. -/
def State.launchOf (s : State) (w : Warp) : Launch := s.launchAt (s.blockAt w.blk).launch

/-- A warp's agent (R161). -/
def State.agentOf (s : State) (w : Warp) : Agent :=
  let b := s.blockAt w.blk
  ⟨w.ctx, some (w.blk, (w.laneAt 0).flat), some w.blk, some (b.launch, b.cluster), some (dieOf w.key.core), true, true⟩

/-! ### Context-held control and status registers (R96, R346) -/

/-- Reset value of a context-held CSR. -/
def csrReset (n : Nat) : W32 :=
  match n with
  | 0x14 => 32#32
  | 0x15 => 0x000F4240#32
  | 0x22 => 4#32
  | _ => 0#32
/-- The value of a context-held CSR. -/
def Ctx.csrOf (c : Ctx) (n : Nat) : W32 := smGet (csrReset n) c.csr n
/-- A context-held 64-bit address in two CSRs. -/
def Ctx.csr64 (c : Ctx) (n : Nat) : Nat := (c.csrOf n).toNat + (c.csrOf (n + 1)).toNat * 2 ^ 32
/-- The context with a CSR set, for every core (R94). -/
def Ctx.setCsr (c : Ctx) (n : Nat) (v : W32) : Ctx :=
  { c with csr := smSet c.csr n v, old := c.old.map fun e => (e.1, e.2.1, smErase e.2.2 n) }
/-- The context as a core sees it: an UPDATE applies there from the core's next run boundary on (R360). -/
def Ctx.view (c : Ctx) (core : Nat) : Ctx :=
  match smFind c.old core with
  | none => c
  | some (h, m) => { c with hdr := h, csr := m ++ c.csr }
/-- A context as a core sees it. -/
def State.ctxFor (s : State) (core x : Nat) : Ctx := (s.ctxAt x).view core
/-- The state with a STICKY bit of a context set (R99); a party that is no context has none. -/
def State.setSticky (s : State) (x bit : Nat) : State :=
  if 64 ≤ x then s
  else s.modCtx x fun c => { c.setCsr 0x11 (c.csrOf 0x11 ||| (1#32 <<< bit)) with stickySet := smSet c.stickySet bit s.clk }
/-- STICKY bits (R99). -/
abbrev stFbovf : Nat := 7
/-- EVICTED. -/
abbrev stEvicted : Nat := 6
/-- TQOOR. -/
abbrev stTqoor : Nat := 5
/-- MDDUP. -/
abbrev stMddup : Nat := 4
/-- ISAT. -/
abbrev stIsat : Nat := 3
/-- MNAN. -/
abbrev stMnan : Nat := 2
/-- SCOPEX. -/
abbrev stScopex : Nat := 1
/-- CMPOVF. -/
abbrev stCmpovf : Nat := 0

/-! ### Cause codes (R317, R318) -/

/-- ILLOP. -/
abbrev cIllop : Nat := 1
/-- ILLOPND. -/
abbrev cIllopnd : Nat := 2
/-- ILLRUN. -/
abbrev cIllrun : Nat := 3
/-- MISALIGN. -/
abbrev cMisalign : Nat := 4
/-- RANGE. -/
abbrev cRange : Nat := 5
/-- PAGE. -/
abbrev cPage : Nat := 6
/-- PERM. -/
abbrev cPerm : Nat := 7
/-- TKEY. -/
abbrev cTkey : Nat := 8
/-- STACK. -/
abbrev cStack : Nat := 9
/-- UPAGE. -/
abbrev cUpage : Nat := 10
/-- WSYNCMASK. -/
abbrev cWsyncmask : Nat := 11
/-- MDDUP. -/
abbrev cMddup : Nat := 12
/-- BKPT. -/
abbrev cBkpt : Nat := 13
/-- WATCH. -/
abbrev cWatch : Nat := 14
/-- DEADLOCK. -/
abbrev cDeadlock : Nat := 15
/-- ENGINE. -/
abbrev cEngine : Nat := 16
/-- LINK. -/
abbrev cLink : Nat := 17
/-- TRAP. -/
abbrev cTrap : Nat := 18
/-- BADDESC. -/
abbrev sBaddesc : Nat := 0x20
/-- BADARG. -/
abbrev sBadarg : Nat := 0x21
/-- BADSET. -/
abbrev sBadset : Nat := 0x22
/-- NOHEAP. -/
abbrev sNoheap : Nat := 0x23
/-- NOSPACE. -/
abbrev sNospace : Nat := 0x24
/-- BADHANDLE. -/
abbrev sBadhandle : Nat := 0x25
/-- ABORTED. -/
abbrev sAborted : Nat := 0x26
/-- BADTABLE. -/
abbrev sBadtable : Nat := 0x27
/-- NOTABLE. -/
abbrev sNotable : Nat := 0x28
/-- BADLAUNCH. -/
abbrev sBadlaunch : Nat := 0x29
/-- REMOTE. -/
abbrev sRemote : Nat := 0x2A

end Sys2Proof.Machine
end

