-- ==== Sys2Proof/Machine/Window.lean ====
section
/-!
DEFINITION. Control and status registers by number (R93 to R100, R346), and what a word of a core's window reads: registers,
scratchpad, accumulator file, matrix state and debug window (R141 to R145, R338 to R340).
-/

namespace Sys2Proof.Machine

/-! ### CSR numbers (R96, R346, R350) -/

/-- How a CSR may be accessed (R93). -/
inductive CsrClass where
  | ro | rw | w1c | tw
  deriving DecidableEq, Repr

/-- Who holds a CSR (R96). -/
inductive CsrHolder where
  | part | thread | warp | context
  deriving DecidableEq, Repr

/-- The class and holder of an assigned CSR number. -/
def csrInfo (n : Nat) : Option (CsrHolder × CsrClass) :=
  if n == 0 then some (.part, .ro)
  else if n == 1 || n == 2 || n == 6 || n == 7 || n == 0x28 || n == 0x29 then some (.thread, .ro)
  else if n == 3 || n == 5 then some (.warp, .ro)
  else if n == 4 || n == 0x16 || n == 0x18 || n == 0x19 || n == 0x23 || n == 0x111 then some (.context, .ro)
  else if n == 0x10 then some (.thread, .rw)
  else if n == 0x11 then some (.context, .w1c)
  else if n == 0x12 then some (.warp, .rw)
  else if n == 0x13 || n == 0x24 then some (.context, .rw)
  else if n == 0x14 || n == 0x15 || (0x1A ≤ n && n ≤ 0x22) then some (.context, .tw)
  else if 0x100 ≤ n && n < 0x110 && n % 4 < 3 then some (.context, .tw)
  else if n == 0x110 then some (.context, .tw)
  else if (0x120 ≤ n && n ≤ 0x130) || (0x140 ≤ n && n ≤ 0x148) then some (.part, .ro)
  else none

/-- A written value as it is stored: reserved bits dropped, a field out of its range at the nearest limit (R94). The low five bits of FBLO,
which the ring base has not, are dropped (DEDUCED, log 86). -/
def csrStore (n : Nat) (v : W32) : W32 :=
  if n == 0x10 then v &&& 0x1F#32
  else if n == 0x12 || n == 0x13 then v &&& 1#32
  else if n == 0x14 then BitVec.ofNat 32 (max 4 (v.toNat % 256))
  else if n == 0x20 then v &&& 0xFFFFFFE0#32
  else if n == 0x22 then BitVec.ofNat 32 (min 16 (max 4 (v.toNat % 32)))
  else if 0x100 ≤ n && n < 0x110 then
    (if n % 4 == 0 then v &&& 0xFFFFFFF0#32 else if n % 4 == 1 then v &&& 0x1FFFFFF#32 else v &&& 0x7FFFF#32)
  else if n == 0x110 then v &&& 3#32
  else v

/-- The STICKY bits that the part has set in a clk (R99). -/
def Ctx.stickyNow (c : Ctx) (clk : Nat) : W32 :=
  c.stickySet.foldl (fun v e => if e.2 == clk then v ||| (1#32 <<< e.1) else v) 0#32

/-- A write of a context-held CSR; `tm` tells trap mode, the host or the debug window (R93, R94) (DEDUCED, log 76). A bit that is set in the
clk of its clear ends set (R99). -/
def writeCtxCsr (s : State) (x n : Nat) (v : W32) (tm : Bool) : State :=
  match csrInfo n with
  | some (.context, .rw) => s.modCtx x fun c => c.setCsr n (csrStore n v)
  | some (.context, .w1c) => s.modCtx x fun c => c.setCsr n (c.csrOf n &&& (~~~v ||| c.stickyNow s.clk))
  | some (.context, .tw) => if tm then s.modCtx x fun c => c.setCsr n (csrStore n v) else s
  | _ => s

/-- CTX of a context (R96). -/
def Ctx.ctxCsr (c : Ctx) : W32 := BitVec.ofNat 32 (c.num % 64 + c.tkey * 256)

/-- A context-held CSR as it reads (R95, R96). -/
def Ctx.readCsr (c : Ctx) (n : Nat) : W32 :=
  if n == 4 then c.ctxCsr
  else if n == 0x18 then BitVec.ofNat 32 (c.cbrBase % 2 ^ 32)
  else if n == 0x19 then BitVec.ofNat 32 (c.cbrBase / 2 ^ 32)
  else c.csrOf n

/-- A read of a context-held CSR. -/
def readCtxCsr (s : State) (x n : Nat) : W32 := (s.ctxAt x).readCsr n

/-! ### Modes of a warp (R100) -/

/-- The paths that stand as valid split-table entries: none in serial mode (R27). -/
def Warp.entries (w : Warp) : List Path := if w.serial then [] else w.paths

/-- WSTAT (R100). -/
def Warp.wstat (w : Warp) : W32 :=
  BitVec.ofNat 32 ((if w.serial then 1 else 0) + (if w.trapMode then 2 else 0) + w.entries.length % 16 * 4 +
    (if w.halt then 64 else 0))

/-- A flag counter of a lane. -/
def Lane.flag (l : Lane) (i : Nat) : Nat := smGet 0 l.f i
/-- FLAGLO and FLAGHI of a lane as one number (R96). -/
def Lane.flags (l : Lane) : Nat := sumN ((List.range 12).map fun i => l.flag i % 16 * 2 ^ (4 * i))
/-- The lane's predicates P0 to P6. -/
def Lane.preds (l : Lane) : Nat := l.p.toNat % 128

/-! ### The window of a core (R141) -/

/-- The warp in a window slot of a core (R142). -/
def State.warpInSlot? (s : State) (core win : Nat) : Option Warp := s.warpAt? ⟨core, win / 16, win % 16⟩

/-- The lanes of a path, ascending. -/
def Warp.lanesIn (w : Warp) (m : Mask) : List Lane := w.lanes.filter fun l => m.getLsbD l.id

/-- A path at a run boundary: not in a run and with no run end to apply. -/
def Path.atBoundary (p : Path) : Bool := p.inRun.isNone && p.ending.isNone

/-! ### Parking (R17, R200, R204, R215) -/

/-- A lane that RECRUIT has lent (R292). -/
def Lane.isLent (l : Lane) : Bool :=
  match l.helper with
  | some h => h.lent.isSome
  | none => false

/-- A lane waits at a barrier (R200); a wait whose phase has released ends after the release latency (R197). -/
def Lane.atBarrier (clk : Nat) (l : Lane) : Bool :=
  l.waits.any fun b => match b.at_ with | none => true | some t => clk < t

/-- A lane is parked in an MWAIT; on the handler path only an MWAIT of the handler counts (R319). -/
def inMwait (s : State) (w : Warp) (p : Path) (l : Nat) : Bool :=
  s.accesses.any fun a => a.kind == .mwait && a.w == w.key && a.lane == l && a.st != .performed &&
    (!p.handler || w.trapId ≤ a.id)

/-- Some lane of a path is parked at a barrier, in WSYNC or in MWAIT; the barrier or phase at which a lent lane parked does not hold it. -/
def parked (s : State) (w : Warp) (p : Path) : Bool :=
  (w.lanesIn p.mask).any fun l => (!l.isLent && (l.atBarrier s.clk || l.syncing)) || inMwait s w p l.id

/-- A path stands inside a run that it has to finish before its warp halts or is saved: TRAPRET has resumed it there (R313, R324, R341). -/
def midRun (s : State) (w : Warp) (p : Path) : Bool := p.atBoundary && p.run != 0 && !p.fp && !p.trapped && !parked s w p

/-! ### Stopping for a save (R298, R313) -/

/-- The block of a warp is to be saved: no new run starts in it (R313). -/
def State.savesWarp (s : State) (w : Warp) : Bool := (s.blockAt w.blk).saving.isSome

/-- While a block stops for save, a path with a participant in a body goes on to the end of its iteration (R298, R313). -/
def finishesBody (w : Warp) (p : Path) : Bool :=
  (w.lanesIn p.mask).any fun l => match l.helper with | none => false | some h => h.lent.isSome || h.inBody

/-- A recruiter with iterations left claims none while its block stops for save: its HRELEASE waits for the restore (R298) (DEDUCED, log
67). -/
def claimWaits (s : State) (w : Warp) (l : Lane) : Bool :=
  s.savesWarp w &&
  match l.helper with
  | some h => h.lent.isNone && h.claim.isNone && (match s.groupAt? h.grp with | some g => g.counter < g.n | none => false)
  | none => false

/-- The HRELEASE at whose run end a path stands is one of recruiters that wait for the restore. -/
def awaitsRestore (s : State) (w : Warp) (p : Path) : Bool :=
  match p.ending with
  | some e => (match e.transfer with | .hrelease m => m == p.mask && (w.lanesIn m).all (claimWaits s w) | _ => false)
  | none => false

/-- A path stands where its block may be saved: at a run boundary with its iterations done, or at an HRELEASE that waits for the restore. -/
def readyForSave (s : State) (w : Warp) (p : Path) : Bool :=
  (p.atBoundary && !midRun s w p && !finishesBody w p) || awaitsRestore s w p

/-- A warp is stopped for save: it has finished its runs and its helpers their iterations, and no ICINV of it waits (R107, R142, R313). -/
def State.stoppedForSave (s : State) (w : Warp) : Bool := s.savesWarp w && w.icinv.isEmpty && w.paths.all (readyForSave s w)

/-- The warp's registers and pages are reachable: halted, stopped for save, or in restore before its first run. -/
def State.reachable (s : State) (w : Warp) : Bool := w.halt || s.stoppedForSave w || w.restoring

/-- A matrix seat by number. -/
def Matrix.seat (m : Matrix) (i : Nat) : Seat := if i == 0 then m.seat0 else m.seat1
/-- The matrix engine with a seat changed. -/
def Matrix.modSeat (m : Matrix) (i : Nat) (f : Seat → Seat) : Matrix :=
  if i == 0 then { m with seat0 := f m.seat0 } else { m with seat1 := f m.seat1 }

/-- An integer in `n` bits of two's complement. -/
def wrapN (n : Nat) (v : Int) : Nat := (v % (2 ^ n : Nat)).toNat

/-- A word of the matrix state beyond the seats and the accumulator file (R144) (PRESUMED, log 27). -/
def matrixWord (m : Matrix) (off : Nat) : Option Nat :=
  if off < 0x1E0000 then
    let i := (off - 0x1C0000) / 8
    let (v, x) := smGet (0, 0) m.narrow i
    some (if off % 8 == 0 then wrapN 32 v else wrapN 48 v / 2 ^ 32 + wrapN 8 x * 2 ^ 16)
  else if off < 0x1E0040 then
    let r := off - 0x1E0000
    some (sumN ((List.range 4).map fun i => smGet 0 m.steps (r + i) * 256 ^ i))
  else if 0x1E1000 ≤ off && off < 0x1E2000 then
    let o := off - 0x1E1000
    let st := m.seat (o / 0x800)
    if o % 0x800 < 0x400 then
      let n := o % 0x800 / 4
      some (wrapN 8 (smGet 0 st.xb n) + (if smGet false st.mark n then 256 else 0))
    else if o % 0x800 == 0x400 then some ((if st.sparse then 1 else 0) + (if st.int8 then 2 else 0))
    else none
  else if 0x1F0000 ≤ off && off < 0x1F8000 then
    let o := off - 0x1F0000
    let st := m.seat (o / 0x4000)
    some (sumN ((List.range 4).map fun i => smGet 0 st.mdata (o % 0x4000 + i) * 256 ^ i))
  else none

/-- Bits 32 j to 32 j + 31 of a set of register numbers. -/
def bitWord (keys : List Nat) (j : Nat) : Nat :=
  sumN ((List.range 32).map fun b => if keys.contains (32 * j + b) then 2 ^ b else 0)

/-- The control word of a warp page (R340). -/
def Warp.control (w : Warp) : Nat :=
  w.ctlPath % 8 * 16 + (if w.halt then 256 else 0) +
    (if w.paths.any (·.stepping) then 512 else 0) + w.reason % 4 * 1024

/-- A word of a warp page past the control word, while its fields are reachable (R339). -/
def warpPageWord (w : Warp) (o : Nat) : Nat :=
  if 0x40 ≤ o && o < 0xC0 then
    match w.entries[(o - 0x40) / 16]? with
    | none => 0
    | some p =>
      (match (o - 0x40) % 16 / 4 with
      | 0 => 1 + (if p.fp then 2 else 0) + p.age % 256 * 256
      | 1 => p.mask.toNat
      | 2 => p.pc.toNat % 2 ^ 32
      | _ => p.pc.toNat / 2 ^ 32)
  else if 0xC0 ≤ o && o < 0x100 then
    match w.entries[(o - 0xC0) / 8]? with
    | none => 0
    | some p => if o % 8 == 0 then p.run.toNat % 2 ^ 32 else p.run.toNat / 2 ^ 32
  else if 0x100 ≤ o && o < 0x200 then
    let l := w.laneAt ((o - 0x100) / 8)
    if o % 8 == 0 then l.pc.toNat % 2 ^ 32 else l.pc.toNat / 2 ^ 32
  else if 0x200 ≤ o && o < 0x600 then
    (smGet 0#32 (w.laneAt ((o - 0x200) / 4 % 32)).t ((o - 0x200) / 128)).toNat
  else if 0x600 ≤ o && o < 0xA00 then
    (smGet 0#32 (w.laneAt ((o - 0x600) / 4 % 32)).y ((o - 0x600) / 128)).toNat
  else if 0xA00 ≤ o && o < 0xA80 then (w.laneAt ((o - 0xA00) / 4)).preds
  else if 0xA80 ≤ o && o < 0xB80 then
    let f := (w.laneAt ((o - 0xA80) / 8)).flags
    if o % 8 == 0 then f % 2 ^ 32 else f / 2 ^ 32
  else if 0xB80 ≤ o && o < 0xD80 then
    bitWord ((w.laneAt ((o - 0xB80) / 16)).pend.map (·.1)) ((o - 0xB80) % 16 / 4)
  else if 0xD80 ≤ o && o < 0xF80 then
    bitWord ((w.laneAt ((o - 0xD80) / 16)).faults.map (·.1)) ((o - 0xD80) % 16 / 4)
  else 0

/-- A profile counter of a partition (R350). Bin 0 holds every clk that no other bin has counted, those without a resident warp among them. -/
def State.profAt (s : State) (core part n : Nat) : W32 :=
  let x := s.partAt core part
  if n == 0x120 then
    BitVec.ofNat 32 (if x.served == some s.clk then s.clk else s.clk - 1) -
      ((List.range 16).map fun i => smGet 0#32 x.prof (0x121 + i)).foldl (· + ·) 0#32
  else smGet 0#32 x.prof n

/-- A word of the debug window (R338, R339). -/
def debugWord (s : State) (core o : Nat) : Option Nat :=
  if o < 0x100000 then
    match s.warpInSlot? core (o / 0x4000) with
    | none => none
    | some w =>
      let q := o % 0x4000
      if q < 8 then some (if q < 4 then w.control else 0)
      else if s.reachable w then some (warpPageWord w q)
      else none
  else if o < 0x110000 then
    let x := (o - 0x100000) / 0x400
    let n := 0x100 + (o - 0x100000) % 0x400 / 4
    if !(s.ctxAt x).live then none
    else match csrInfo n with
      | some (.context, _) => some (readCtxCsr s x n).toNat
      | some (.part, _) =>
        some (sumN ((List.range 4).map fun p => (s.profAt core p n).toNat) % 2 ^ 32)
      | _ => some 0
  else none

/-- The 32-bit word at a multiple of 4 of a core's window; none is an error response (R141 to R146). -/
def winWord (s : State) (core off : Nat) : Option Nat :=
  if off < 0x100000 then
    match s.warpInSlot? core (off / 0x4000) with
    | none => none
    | some w =>
      let reg := off / 128 % 128
      if w.nreg ≤ reg || !s.reachable w then none
      else some (smGet 0#32 (w.laneAt (off / 4 % 32)).g reg).toNat
  else if off < 0x180000 then some (memRead s.mem (scratchKey core (off - 0x100000)) 4)
  else if off < 0x190000 then some (smGet 0#32 (s.coreAt core).mat.acc ((off - 0x180000) / 4)).toNat
  else if off < 0x1A0000 then none
  else if off < 0x1C0000 then
    let o := (off - 0x1A0000) % 0x10000 / 2
    let st := (s.coreAt core).mat.seat ((off - 0x1A0000) / 0x10000)
    some (wrapN 16 (smGet 0 st.b o) + wrapN 16 (smGet 0 st.b (o + 1)) * 2 ^ 16)
  else if off < 0x200000 then matrixWord (s.coreAt core).mat off
  else if off < 0x400000 then debugWord s core (off - 0x200000)
  else none

/-- A granted context that is not privileged owns the bytes of a word of the window (R145). -/
def winOwned (s : State) (x core off : Nat) : Bool :=
  if off < 0x100000 then
    (match s.warpInSlot? core (off / 0x4000) with | none => false | some w => w.ctx == x)
  else if off < 0x180000 then
    let o := off - 0x100000
    s.blocks.any fun b => b.ctx == x && b.core == core && !b.saved && b.scr ≤ o && o < b.scr + b.scrLen &&
      (s.blocks.any fun c => c.launch == b.launch && c.cluster == b.cluster && !c.retired)
  else match (s.coreAt core).mat.holder with
    | none => false
    | some h => (s.blockAt h).ctx == x

/-- What stands against an access of `n` bytes at an offset of a core's window by a context: nothing, or its cause (R145,
R146) (DEDUCED, log 12). -/
def winCheck (s : State) (c : Ctx) (core off n : Nat) : Option Nat :=
  if !(c.priv || c.pmap) then some cPerm
  else if !c.priv && 0x1A0000 ≤ off then some cPerm
  else if (List.range ((n + 3) / 4)).all fun i =>
      (winWord s core (off / 4 * 4 + 4 * i)).isSome && (c.priv || winOwned s c.num core (off / 4 * 4 + 4 * i))
    then none
  else some cRange

/-- The number in `n` bytes of a core's window. -/
def winRead (s : State) (core off n : Nat) : Nat :=
  sumN ((List.range ((n + 3) / 4)).map fun i => (winWord s core (off / 4 * 4 + 4 * i)).getD 0 * 2 ^ (32 * i)) /
    256 ^ (off % 4) % 256 ^ n

end Sys2Proof.Machine
end

