-- ==== Sys2Proof/Machine/Mem.lean ====
section
/-!
DEFINITION. Home memory and DRAM, encryption keys, the page-table walk and its checks, apertures, and where an access of a
thread or an engine goes (R133 to R146, R157, R164, R176, R364, R367, R368).
-/

namespace Sys2Proof.Machine

/-! ### Homes and DRAM (R164, R176, R181, R367) -/

/-- The lines that `n` bytes at a key touch. -/
def linesIn (key n : Nat) : List Nat :=
  if n == 0 then [] else (List.range (lineOf (key + n - 1) + 1 - lineOf key)).map fun i => lineOf key + i

/-- The listed bytes of a line. -/
def lineCells (m : Memory) (line : Nat) : List Host.Cell := m.filter fun c => lineOf c.1 == line

/-- The die of the home slice of a line (R5). -/
def homeDie (line : Nat) : Nat := Config.slice line % Config.slices / 64

/-- The dirty line that a die's L2 writes back when it holds as many as it has lines; which one is not given (DESIGN CHOICE, log 90). It is
none that holds a tentative word: those leave by `evictLine` (R290). -/
def dirtyVictim? (s : State) (line : Nat) : Option Nat :=
  if s.dram.length < Config.l2Lines then none
  else
    let mine := (s.dram.map (·.1)).filter fun l => homeDie l == homeDie line && !s.tentWords.any fun t => lineOf t.key == l
    if mine.length < Config.l2Lines then none else mine[Config.freeNat s.free line % mine.length]?

/-- What is kept by byte of the bytes of a line. -/
def lineTags (t : SMap KeyTag) (line : Nat) : SMap KeyTag := t.filter fun e => lineOf e.1 == line

/-- A line's write-back reaches DRAM (R181). -/
def cleanLine (s : State) (line : Nat) : State :=
  { s with dram := smErase s.dram line, dramTags := s.dramTags.filter fun e => lineOf e.1 != line }

/-- A line's DRAM copy is kept apart from its home value, with the keys of its bytes: the line is dirty in the L2 of its die (R5, R367). -/
def markDirty (s : State) (line : Nat) : State :=
  if (smFind s.dram line).isSome then s
  else
    let s := match dirtyVictim? s line with | some v => cleanLine s v | none => s
    { s with dram := smSet s.dram line (lineCells s.mem line), dramTags := s.dramTags ++ lineTags s.keyTags line }

/-- S lines in the L1 caches are invalidated before a write to them is acknowledged (R165). -/
def dropS (cs : List Core) (line : Nat) : List Core :=
  cs.map fun c => { c with l1 := c.l1.filter fun e => e.line != line || e.kind != .S }

/-- What is left of a range of bytes beside `n` bytes at a key. -/
def cutRange (key n : Nat) (r : Nat × Nat) : List (Nat × Nat) :=
  if overlap key n r.1 r.2 then
    (if r.1 < key then [(r.1, key - r.1)] else []) ++ (if key + n < r.1 + r.2 then [(key + n, r.1 + r.2 - (key + n))] else [])
  else [r]

/-- A write reaches bytes: a queue that waits on a signal word among them reads it again (R308). -/
def noteSignals (key n : Nat) (ls : List Launch) : List Launch :=
  mapIf (fun l => match l.seen with | some k => overlap k 8 key n | none => false) (fun l => { l with seen := none }) ls

/-- A write of `n` bytes at a home or a scratchpad, under a key id (R164, R367). -/
def homeWrite (s : State) (key n v tkey : Nat) : State :=
  if isScratchKey key then { s with mem := memWrite s.mem key n v }
  else
    let ls := linesIn key n
    let s := ls.foldl markDirty s
    { s with
      mem := memWrite s.mem key n v
      launches := noteSignals key n s.launches
      scrambled := s.scrambled.flatMap (cutRange key n)
      cores := ls.foldl dropS s.cores
      keyTags := (List.range n).foldl (fun t i => smSet t (key + i) ⟨tkey, smGet 0 s.keyGens tkey⟩) s.keyTags }

/-- A byte of the installed HBM or second tier (R2). One past them reads as an unspecified value, and a write to it is lost (DESIGN CHOICE,
log 89). -/
def installed (key : Nat) : Bool := if keyTier2 ≤ key then key - keyTier2 < Config.tier2 else key < Config.hbm

/-- A byte that a copy of storage holds, by the keys of its bytes, was written under another key id or an older key of the id (R367) (DESIGN
CHOICE, log 38), is not installed, or is one of a save record, whose layout is not given (R331) (DEDUCED, log 101). -/
def foreignIn (s : State) (tags : SMap KeyTag) (key tkey : Nat) : Bool :=
  !installed key || s.scrambled.any (fun r => r.1 ≤ key && key < r.1 + r.2) ||
  (match smFind tags key with
  | none => false
  | some t => t.key != tkey || t.gen != smGet 0 s.keyGens tkey)

/-- A byte at its home reads as an unspecified value under a key id (R367). -/
def foreignKey (s : State) (key tkey : Nat) : Bool := foreignIn s s.keyTags key tkey

/-- Some byte of a range reads as an unspecified value under a key id (R367). -/
def anyForeign (s : State) (key n tkey : Nat) : Bool :=
  !isScratchKey key && (List.range n).any fun i => foreignKey s (key + i) tkey

/-- An unspecified number of `n` bytes. -/
def freeBytes (free place n : Nat) : Nat :=
  sumN ((List.range n).map fun i => (Config.freeWord free (place + i)).toNat % 256 * 256 ^ i)

/-- The number in `n` bytes as the home holds them; bytes under another key are free. -/
def homeRead (s : State) (key n tkey : Nat) : Nat :=
  if anyForeign s key n tkey then
    sumN ((List.range n).map fun i =>
      (if foreignKey s (key + i) tkey then (Config.freeWord s.free (key + i)).toNat % 256
       else (memGet s.mem (key + i)).toNat) * 256 ^ i)
  else memRead s.mem key n

/-- A byte as DRAM holds it: the old byte of a dirty line (R176). -/
def dramByte (s : State) (key : Nat) : Byte :=
  match smFind s.dram (lineOf key) with
  | some cells => memGet cells key
  | none => memGet s.mem key

/-- The keys under which the bytes of a line were written as DRAM holds them (R367). -/
def dramKeys (s : State) (line : Nat) : SMap KeyTag := if (smFind s.dram line).isSome then s.dramTags else s.keyTags

/-- The number in `n` bytes as DRAM holds them (R176, R367). -/
def dramRead (s : State) (key n tkey : Nat) : Nat :=
  sumN ((List.range n).map fun i =>
    (if foreignIn s (dramKeys s (lineOf (key + i))) (key + i) tkey then (Config.freeWord s.free (key + i)).toNat % 256
     else (dramByte s (key + i)).toNat) * 256 ^ i)

/-! ### Energy buckets (R278, R310) -/

/-- The stack that holds a byte of HBM (R310). -/
def stackOfKey (key : Nat) : Nat := bitsN key 12 10

/-- A stack's level refilled up to the present. -/
def refillStack (clk : Nat) (k : Stack) : Stack :=
  { k with level := min (Int.ofNat k.depth) (k.level + Int.ofNat (k.refill * (clk * 10 / 13 - k.last * 10 / 13))), last := clk }

/-- Items begin to wait for tokens: the head whose weight the level does not cover, and those behind it (R267, R278). -/
def markBlocked (clk : Nat) (k : Stack) : Stack :=
  match k.fifo with
  | [] => k
  | i :: _ =>
    if Int.ofNat i.weight ≤ k.level then k
    else { k with fifo := mapIf (fun j => j.blocked.isNone) (fun j => { j with blocked := some (clk * 10 / 13) }) k.fifo }

/-- The items of a stack have waited up to a ns: their operations keep the spans, and they wait no more. -/
def endWaits (s : State) (stack till : Nat) : State :=
  let fifo := (s.stackAt stack).fifo
  let span (o : EngOp) : List (Nat × Nat) :=
    fifo.filterMap fun i => if i.op == ⟨o.core, o.slot, o.seq⟩ then i.blocked.map fun b => (b, max b till) else none
  if fifo.all fun i => i.blocked.isNone then s
  else ({ s with ops := s.ops.map fun o => { o with waits := o.waits ++ span o } } : State).modStack stack fun k =>
    { k with fifo := k.fifo.map fun i => { i with blocked := none } }

/-- The ns at which a stack's level has covered a weight, if it has by now. -/
def coveredAt? (clk : Nat) (k : Stack) (w : Nat) : Option Nat :=
  if (refillStack clk k).level < Int.ofNat w then none
  else some (k.last * 10 / 13 + ceilDiv (Int.ofNat w - k.level).toNat (max 1 k.refill))

/-- A stack brought up to the present: the waits of its queue end where the level came to cover the head, items of operations that are over
leave, and the level is refilled (R267, R278). -/
def settleStack (s : State) (stack : Nat) : State :=
  let k := s.stackAt stack
  let s := match k.fifo with
    | [] => s
    | i :: _ => (match coveredAt? s.clk k i.weight with | some t => endWaits s stack t | none => s)
  let going (i : StackItem) : Bool := s.ops.any fun o =>
    ⟨o.core, o.slot, o.seq⟩ == i.op && (match o.state with | .done _ => false | .fault _ => false | .stopped => false | _ => true)
  let s := s.modStack stack fun k => { refillStack s.clk k with fifo := k.fifo.filter going }
  match (s.stackAt stack).fifo with
  | [] => s
  | i :: _ => if Int.ofNat i.weight ≤ (s.stackAt stack).level then endWaits s stack s.ts else s

/-- Traffic that never waits is charged to a stack at once; the level stops at −65,536. -/
def chargeStack (s : State) (stack tokens : Nat) : State :=
  (settleStack s stack).modStack stack fun k => markBlocked s.clk { k with level := max (-65536) (k.level - Int.ofNat tokens) }

/-- Traffic that never waits is charged to the stack of a byte of HBM. -/
def chargeKey (s : State) (key tokens : Nat) : State := if keyTier2 ≤ key then s else chargeStack s (stackOfKey key) tokens

/-- Blocks of 64 bytes that `n` bytes at a key touch. -/
def blocks64 (key n : Nat) : Nat := if n == 0 then 0 else (key + n - 1) / 64 + 1 - key / 64

/-- Ordinary traffic of `n` bytes: 1 token per 64 bytes or part, and 16 more for each that activates a row, which the memory controller
decides (R278) (DESIGN CHOICE, log 65). -/
def ordinaryTokens (s : State) (key blocks : Nat) : Nat := blocks + 16 * (Config.freeNat s.free (key + 9) % (blocks + 1))

/-- Ordinary traffic of `n` bytes at a key is charged at once. -/
def chargeOrdinary (s : State) (key n : Nat) : State := chargeKey s key (ordinaryTokens s key (blocks64 key n))

/-! ### Page tables (R133 to R137, R364) -/

/-- What an access needs of its page (R136). -/
inductive Need where
  | fetch | rd | wr | rdwr
  deriving DecidableEq, Repr

/-- A bit of a page-table entry. -/
def pteBit (e i : Nat) : Bool := e / 2 ^ i % 2 == 1
/-- The ADDR field of an entry as an address. -/
def pteAddr (e : Nat) : Nat := bitsN e 51 12 * 4096

/-- An entry that points to a table aligned to `align`, G2M allowed in an L1 table only (R135, R136). -/
def tableOk (e align : Nat) (l1 : Bool) : Bool :=
  pteBit e 0 && !pteBit e 1 && bitsN e 63 52 == 0 && bitsN e 11 7 == 0 && (l1 || !pteBit e 6) && bitsN e 5 2 == 0 &&
    pteAddr e % align == 0

/-- A leaf of a page size (R135, R136, R364). -/
def leafOk (s : State) (e size : Nat) : Bool :=
  pteBit e 0 && pteBit e 1 && bitsN e 55 52 == 0 && !pteBit e 7 && !pteBit e 6 && !pteBit e 2 &&
    bitsN e 9 8 != 3 && bitsN e 11 10 < 2 &&
    (if bitsN e 51 48 == 15 then bitsN e 37 12 == 0 && bitsN e 47 38 != s.podRank && bitsN e 47 38 < s.podSize
     else pteAddr e % size == 0)

/-- An entry of a table. A walk reads what was written there, whatever key wrote it and also past the installed memory, of which the spec says
nothing (PRESUMED, log 80). -/
def pteAt (s : State) (table i : Nat) : Nat := memRead s.mem (table + 8 * i) 8

/-- The leaf and the page size that a walk finds, none for the PAGE conditions (R134, R136). -/
def walkTable (s : State) (root va : Nat) : Option (Nat × Nat) :=
  let e3 := pteAt s root (bitsN va 56 48)
  if !tableOk e3 4096 false then none else
  let e2 := pteAt s (pteAddr e3) (bitsN va 47 39)
  if !tableOk e2 4096 false then none else
  let e1 := pteAt s (pteAddr e2) (bitsN va 38 30)
  if pteBit e1 1 then (if leafOk s e1 (2 ^ 30) then some (e1, 2 ^ 30) else none)
  else if pteBit e1 6 then
    if !tableOk e1 4096 true then none else
    let e0 := pteAt s (pteAddr e1) (bitsN va 29 21)
    if leafOk s e0 (2 ^ 21) then some (e0, 2 ^ 21) else none
  else if !tableOk e1 (2 ^ 17) true then none else
    let e0 := pteAt s (pteAddr e1) (bitsN va 29 16)
    if leafOk s e0 (2 ^ 16) then some (e0, 2 ^ 16) else none

/-- A translation held since the last invalidation (R137). -/
def tlbFind (s : State) (x va : Nat) : Option TlbEntry :=
  s.tlb.find? fun e => e.ctx == x && e.va ≤ va && va < e.va + e.size

/-- The leaf that governs an address: a held translation, or the walk when that has changed and the part walks anew
(R137). -/
def leafFor (s : State) (c : Ctx) (va : Nat) : Option (Nat × Nat) :=
  let fresh := walkTable s c.root va
  match tlbFind s c.num va with
  | none => fresh
  | some e => if Config.freeBit s.free va then fresh else some (e.pte.toNat, e.size)

/-- Where a translated address goes. -/
structure Xlat where
  key : Nat
  kind : PageKind
  remote : Option Nat
  tier : Nat
  tkey : Nat
  page : Nat
  deriving DecidableEq, Repr

/-- The page kind of a leaf (R135). -/
def pteKind (e : Nat) : PageKind :=
  match bitsN e 9 8 with
  | 0 => .S
  | 1 => .C
  | _ => .U

/-- A leaf grants what an access needs (R136). -/
def grants (e : Nat) : Need → Bool
  | .fetch => pteBit e 5
  | .rd => pteBit e 3
  | .wr => pteBit e 4
  | .rdwr => pteBit e 3 && pteBit e 4

/-- Translation of an address of a context with the checks of R136, or the cause of the first that fails. -/
def translate (s : State) (c : Ctx) (va : Nat) (need : Need) : Except Nat Xlat :=
  if 2 ^ 57 ≤ va then .error cPage else
  match leafFor s c va with
  | none => .error cPage
  | some (e, size) =>
    if !grants e need then .error cPerm
    else if bitsN e 63 56 != c.tkey then .error cTkey
    else
      let pa := pteAddr e + va % size
      .ok { key := if bitsN e 11 10 == 1 then keyTier2 + pa else pa
            kind := pteKind e
            remote := if bitsN e 51 48 == 15 then some (bitsN e 47 38) else none
            tier := bitsN e 11 10
            tkey := bitsN e 63 56
            page := va / size * size }

/-- A second-tier key whose port is down or poisoned (R368) (DEDUCED, log 43). -/
def portDown (s : State) (x : Xlat) : Bool :=
  x.tier == 1 && x.remote.isNone && (s.cxlDown ++ s.cxlPoison).contains ((x.key - keyTier2) / 4096 % 8)

/-! ### Where an access goes (R138 to R140) -/

/-- The parties of an access: context, block, core, and the thread's stack. -/
structure Who where
  ctx : Nat
  blk : Nat
  slim : Nat
  flat : Nat
  deriving DecidableEq, Repr

/-- A place an access may go to; `stk` is the offset in the thread's stack for the stack window. -/
structure Place where
  loc : Loc
  kind : PageKind
  tkey : Nat
  page : Option Nat
  stk : Option Nat
  deriving DecidableEq, Repr

/-- First address of the apertures (R133). -/
def apertureBase : Nat := 0x00FD000000000000
/-- Addresses from the apertures up (R133). -/
def isAperture (va : Nat) : Bool := apertureBase ≤ va && va < 0x0100000000000000

/-- The address of byte `o` of a thread's stack (R157). -/
def stackVa (s : State) (w : Who) (o : Nat) : Nat :=
  ((s.launchAt (s.blockAt w.blk).launch).stkBase + w.flat * w.slim + o) % 2 ^ 64

/-- A translated place, or its cause. -/
def placeVa (s : State) (c : Ctx) (va : Nat) (need : Need) (stk : Option Nat) : Except (Nat × Nat) Place :=
  match translate s c va need with
  | .error e => .error (e, va)
  | .ok x =>
    if portDown s x then .error (cRange, va)
    else .ok { loc := match x.remote with | some r => .remote r (BitVec.ofNat 64 va) | none => .mem x.key
               kind := x.kind
               tkey := x.tkey
               page := if (tlbFind s c.num va).isSome then none else some x.page
               stk := stk }

/-- Where `n` bytes at an address go for an access, or the cause and the faulting address (R133, R138, R139, R145). -/
def placeOf (s : State) (w : Who) (va n : Nat) (need : Need) : Except (Nat × Nat) Place :=
  let c := s.ctxAt w.ctx
  if !isAperture va then placeVa s c va need none
  else
    let b := s.blockAt w.blk
    if 0x00FF000000000000 ≤ va then
      let o := va - 0x00FF000000000000
      if o < 2 ^ 47 then
        if o + n ≤ b.scrLen then .ok ⟨.mem (scratchKey b.core (b.scr + o)), .C, 0, none, none⟩ else .error (cRange, va)
      else
        let o := o - 2 ^ 47
        if w.slim < o + n then .error (cStack, va)
        else placeVa s c (stackVa s w o) need (some o)
    else if 0x00FE000000000000 ≤ va then
      let o := va - 0x00FE000000000000
      let core := o / 0x400000
      if 256 ≤ core then .error (cRange, va) else
      match winCheck s (c.view b.core) core (o % 0x400000) n with
      | some cause => .error (cause, va)
      | none =>
        if 0x100000 ≤ o % 0x400000 && o % 0x400000 < 0x180000 then
          .ok ⟨.mem (scratchKey core (o % 0x400000 - 0x100000)), .S, 0, none, none⟩
        else .ok ⟨.window core (o % 0x400000), .S, 0, none, none⟩
    else
      let o := va - apertureBase
      let l := s.launchAt b.launch
      match s.blocks.find? fun x => x.launch == b.launch && x.cluster == b.cluster && x.f1 == o / 0x100000 with
      | none => .error (cRange, va)
      | some x =>
        if l.ext 1 ≤ o / 0x100000 || x.scrLen < o % 0x100000 + n then .error (cRange, va)
        else .ok ⟨.mem (scratchKey x.core (x.scr + o % 0x100000)), .C, 0, none, none⟩

/-! ### Scopes and release records (R161, R170, R173) -/

/-- Two agents share the scope with a code (R161). -/
def sharesScope (scope : Nat) (a b : Agent) : Bool :=
  match scope with
  | 0 => a.w.isSome && a.w == b.w && a.ctx == b.ctx
  | 1 => a.blk.isSome && a.blk == b.blk
  | 2 => a.cl.isSome && a.cl == b.cl
  | 3 => a.die.isSome && a.die == b.die
  | 4 => a.dv && b.dv
  | _ => a.pd && b.pd

/-- The word of a byte. -/
def wordKey (key : Nat) : Nat := key / 4 * 4

/-- The words that `n` bytes at a key touch. -/
def wordsIn (key n : Nat) : List Nat :=
  if n == 0 then [] else (List.range (((key + n - 1) / 4 + 1) - key / 4)).map fun i => wordKey key + 4 * i

/-- An acquire reads words: a release that it reads at a scope not shared by both sets STICKY.SCOPEX in the context of each party
whose named scope does not include the other (R173). -/
def scopeCheck (s : State) (key n : Nat) (scope : Nat) (ag : Agent) : State :=
  (s.releases.filter fun r => (wordsIn key n).contains r.key).foldl (fun s r =>
    let x := sharesScope r.scope.toNat r.agent ag
    let y := sharesScope scope r.agent ag
    let s := if x then s else s.setSticky r.agent.ctx stScopex
    if y then s else s.setSticky ag.ctx stScopex) s

/-- The release record of written words: a release replaces it, another atomic keeps it, any other write ends it (R170, R173). -/
def noteRelease (s : State) (key n : Nat) (rel : Nat) (atomic : Bool) (ag : Agent) : State :=
  if rel == 0 then
    (if atomic then s else { s with releases := s.releases.filter fun r => !(wordsIn key n).contains r.key })
  else
    { s with
      releases := (s.releases.filter fun r => !(wordsIn key n).contains r.key) ++
        (wordsIn key n).map fun k => ⟨k, BitVec.ofNat 3 (rel - 1), ag⟩ }

/-! ### Observation (R287) -/

/-- The owner of a tentative word. -/
def TentWord.ownedBy (t : TentWord) (who : Option (Nat × W64)) : Bool := some (t.ctx, t.wid) == who

/-- A foreign access to bytes sets the observed bit of the tentative words that it touches (R287, R288). -/
def observe (s : State) (key n : Nat) (who : Option (Nat × W64)) : State :=
  { s with
    tentWords := mapIf (fun t => overlap t.key 4 key n && !t.ownedBy who) (fun t => { t with observed := true }) s.tentWords }

/-- Where an owner of a tentative word is: its core, or, while its block is saved, 256 and the number of the block (R291). -/
def savedPlace (blk : Nat) : Nat := Config.cores + blk

/-- The tentative-line entries of every core and of every saved block, changed by the place that holds them. -/
def modTent (s : State) (f : Nat → List TentEntry → List TentEntry) : State :=
  { s with
    cores := s.cores.map fun c => { c with tent := f c.id c.tent }
    saved := s.saved.map fun x => { x with tent := f (savedPlace x.blk) x.tent } }

/-- An entry still stands: it is marked, or an owner at its place has a tentative word of the line (R290). -/
def entryStands (s : State) (place : Nat) (e : TentEntry) : Bool :=
  !e.marks.isEmpty || s.tentWords.any fun t => lineOf t.key == e.line && t.core == some place

/-- A write of the part's own: ordinary traffic, a foreign access to tentative words, and no release (R170, R278, R287). -/
def foreignWrite (s : State) (key n v tkey : Nat) : State :=
  let s := observe (chargeOrdinary s key n) key n none
  homeWrite { s with releases := s.releases.filter fun r => !(wordsIn key n).contains r.key } key n v tkey

/-! ### Requests to other devices (R364, R366) -/

/-- A request for another device enters the queue of port 0 under its context's key (DEDUCED, log 31). -/
def sendRemote (s : State) (x : Nat) (r : OutReq) : State :=
  let key := (s.ctxAt x).tkey
  let q := upsert (fun t => t.key == key) ⟨key, [], 0⟩ (fun t : TenantQ => { t with reqs := t.reqs ++ [r] }) (smGet [] s.ports 0)
  { s with ports := smSet s.ports 0 q }

/-- A request of the part's own, at .dv, for which it does not wait: it has a number of its own. -/
def sendOwn (s : State) (x rank va n acc : Nat) : State :=
  { sendRemote s x ⟨s.nextId, n, rank, BitVec.ofNat 64 va, acc, 0, 4⟩ with nextId := s.nextId + 1 }

/-! ### The part's own loads and stores (R321, R325) -/

/-- A store of the part's own through a context's page table, as to a C page at .dv; the cause of a failed check. One to another device is
sent (DESIGN CHOICE, log 103). -/
def partStore (s : State) (x va n v : Nat) : Except Nat State :=
  match translate s (s.ctxAt x) va .wr with
  | .error e => .error e
  | .ok t =>
    match t.remote with
    | some r => .ok (sendOwn s x r va n 2)
    | none => if portDown s t then .error cRange else .ok (foreignWrite s t.key n v t.tkey)

/-- Stores of the part's own: address, bytes, value; the first failure stops. -/
def partStores (s : State) (x : Nat) : List (Nat × Nat × Nat) → Except Nat State
  | [] => .ok s
  | (va, n, v) :: r =>
    match partStore s x va n v with
    | .error e => .error e
    | .ok s' => partStores s' x r

/-- A load of the part's own through a context's page table. What another device holds is not known here (DESIGN CHOICE, log 103). -/
def partLoad (s : State) (x va n : Nat) : Except Nat Nat :=
  match translate s (s.ctxAt x) va .rd with
  | .error e => .error e
  | .ok t =>
    if t.remote.isSome then .ok (freeBytes s.free va n)
    else if portDown s t then .error cRange
    else .ok (homeRead s t.key n t.tkey)

/-- What a load of the part's own leaves: ordinary traffic and the observed bits of tentative words, or a request to another device (R278,
R287, R364). -/
def partTouch (s : State) (x va n : Nat) : State :=
  match translate s (s.ctxAt x) va .rd with
  | .error _ => s
  | .ok t =>
    match t.remote with
    | some r => sendOwn s x r va n 1
    | none => if portDown s t then s else observe (chargeOrdinary s t.key n) t.key n none

/-! ### The set heap (R220, R222) -/

/-- The 64-byte header of a set heap, as one number. -/
def heapHeader (s : State) (x base : Nat) : Except Nat Nat :=
  (List.range 8).foldlM (fun v i => (partLoad s x (base + 8 * i) 8).map fun w => v + w * 2 ^ (64 * i)) 0

/-- The parts of a heap at an address, by its header: header and directory, and the two pools, each with its length. -/
def heapParts (hdr base : Nat) : List (Nat × Nat) :=
  [(base, 128 + 128 * 2 ^ (hdr % 32)), (bitsN hdr 511 448, bitsN hdr 447 384)] ++
    (if bitsN hdr 383 320 == 0 then [] else [(bitsN hdr 383 320, bitsN hdr 319 256)])

/-- Some bytes meet the header, the directory or a pool of the heap at an address. -/
def meetsHeap (hdr base va n : Nat) : Bool := (heapParts hdr base).any fun p => overlap va n p.1 p.2

/-- A range of addresses by pieces of 64 KiB, each with its length. -/
def pieces (va n : Nat) : List (Nat × Nat) :=
  if n == 0 then []
  else (List.range ((va % 65536 + n - 1) / 65536 + 1)).map fun i =>
    let lo := max va ((va / 65536 + i) * 65536)
    (lo, min (va + n) ((va / 65536 + i + 1) * 65536) - lo)

/-- Physical bytes meet a range of a context's addresses. -/
def physMeets (s : State) (c : Ctx) (key n : Nat) (p : Nat × Nat) : Bool :=
  (pieces p.1 p.2).any fun q =>
    match translate s c q.1 .rd with
    | .ok t => t.remote.isNone && overlap key n t.key q.2
    | .error _ => false

/-- Bytes of storage are written by a program, by an engine other than the Crock or from outside: where they lie in a heap that a set command
of a context has used, by whatever address, every later result of its set instructions is unspecified (R222). -/
def notePhys (s : State) (key n : Nat) : State :=
  (s.ctxs.filter fun c => !c.heaps.isEmpty && !c.heapBad).foldl (fun s c =>
    let hit := c.heaps.any fun base =>
      match heapHeader s c.num base with
      | .error _ => false
      | .ok h => (heapParts h base).any (physMeets s c key n)
    if hit then s.modCtx c.num fun c => { c with heapBad := true } else s) s

end Sys2Proof.Machine
end

