-- ==== Sys2Proof/Machine/Paths.lean ====
section
/-!
DEFINITION. Paths of a warp: forming, merging, serial mode, what a run names, and when a path is eligible (R14 to R22,
R26 to R29, R35, R37, R78, R293).
-/

namespace Sys2Proof.Machine

/-! ### Lanes of a path -/

/-- A lane in helper mode (R295). -/
def Lane.inHelper (l : Lane) : Bool := l.helper.isSome
/-- A live lane of its warp: from launch until it exits, except while it is lent (R14). -/
def Lane.live (l : Lane) : Bool := !l.exited && !l.isLent

/-- The live lanes of a warp. -/
def Warp.liveMask (w : Warp) : Mask := maskOf ((w.lanes.filter Lane.live).map (·.id))

/-! ### Merging and serial mode (R16, R27, R29) -/

/-- Two paths become one: at run boundaries with equal PCs (R16), or with one PC, RUN and FP, which no two valid entries share (R14). A
path behind a run stays apart until that run has ended, and the handler path from the paths left out of it (DEDUCED, log 46). -/
def canMerge (a b : Path) : Bool :=
  a.atBoundary && b.atBoundary && a.pc == b.pc && a.run == b.run && a.fp == b.fp &&
    a.handler == b.handler && a.behind.isNone && b.behind.isNone

/-- The earlier or only deadline of a merged path (R26). -/
def mergeHold : Option Nat → Option Nat → Option Nat
  | some a, some b => some (min a b)
  | some a, none => some a
  | none, b => b

/-- The path that two paths become (R16, R26, R81). One with lanes that have trapped stands until their trap is entered (DEDUCED, log 46). -/
def mergeTwo (a b : Path) : Path :=
  { a with
    mask := a.mask ||| b.mask
    age := max a.age b.age
    lastIssue := max a.lastIssue b.lastIssue
    endedAt := max a.endedAt b.endedAt
    hold := mergeHold a.hold b.hold
    yieldAt := mergeHold a.yieldAt b.yieldAt
    trapped := a.trapped || b.trapped
    stepping := a.stepping || b.stepping }

/-- A list of paths with one more path, merged where R16 allows. -/
def addPath : List Path → Path → List Path
  | [], p => [p]
  | q :: r, p => if canMerge q p then mergeTwo q p :: r else q :: addPath r p

/-- The paths after every merge that R16 allows. -/
def mergeAll (ps : List Path) : List Path := ps.foldl addPath []

/-- A path split into paths of one lane, unless it is in a run (R27). -/
def splitPath (p : Path) : List Path :=
  if p.atBoundary then (lanesOf p.mask).map fun l => { p with mask := maskOf [l] } else [p]

/-- The warp with its paths merged, in or out of serial mode as the entries needed demand (R16, R27, R29). In serial mode each lane keeps
its own path. A warp in trap mode does not enter serial mode, since its handler path does not run in it (R320) (DEDUCED, log 46). -/
def settlePaths (w : Warp) : Warp :=
  let ps := w.paths.filter fun p => p.mask != 0
  let m := mergeAll ps
  if w.serial then
    if m.length ≤ 6 then { w with serial := false, paths := m.map fun p => { p with age := 0 } }
    else { w with paths := ps.flatMap splitPath }
  else if 8 < m.length && !w.trapMode then { w with serial := true, sage := 0, paths := ps.flatMap splitPath }
  else { w with paths := m }

/-- The warp without the lanes of a mask in any path. -/
def Warp.dropLanes (w : Warp) (m : Mask) : Warp :=
  { w with paths := (w.paths.map fun p => { p with mask := p.mask &&& ~~~m }).filter fun p => p.mask != 0 }

/-- One path per distinct target of a list of (lane, PC), each a copy of a path at its boundary (R15). -/
def formPaths (base : Path) (ts : List (Nat × W64)) : List Path :=
  (distinct (ts.map (·.2))).map fun pc =>
    { base with pc := pc, run := 0, mask := maskOf ((ts.filter fun t => t.2 == pc).map (·.1)), inRun := none, ending := none }

/-! ### What a run names (R35, R37, R77, R78, R293) -/

/-- The register numbers that groups of codes name among the general registers. -/
def gRegs (gs : List (Code × Nat)) : List Nat :=
  gs.flatMap fun g => if g.1.toNat < 128 then (List.range g.2).map fun i => g.1.toNat + i else []

/-- The general registers that a word reads or writes; the awaited register of FTEST, FTEST.raw and FCANCEL is not counted
(R35). -/
def wordRegs (w : W64) : List Nat :=
  match decode w with
  | .error _ => []
  | .ok (.ftest _ _ _) => []
  | .ok (.ftestRaw _ d _) => gRegs [(d, 2)]
  | .ok (.fcancel _ _) => []
  | .ok i => gRegs i.groups

/-- The general registers that the words of a run read or write. -/
def runRegs (ws : List W64) : List Nat := ws.flatMap wordRegs

/-- The flag that a trailer binds to the long-latency word at an index of a run, if that word is long-latency (R77). -/
def boundFlag (ws : List W64) (t : W64) (idx : Nat) : Option Nat :=
  match ws[idx]? with
  | none => none
  | some w =>
    if opcLong (fOpc w).toNat then
      some (trailerBind t ((ws.take idx).filter fun x => opcLong (fOpc x).toNat).length)
    else none

/-- How many bindings of a run's words from an index on name a flag (R78). -/
def bindCount (ws : List W64) (t : W64) (f idx : Nat) : Nat :=
  ((List.range ws.length).filter fun i => idx ≤ i && boundFlag ws t i == some f).length

/-- The run ends in RECRUIT. -/
def runRecruits (ws : List W64) : Bool :=
  match ws.getLast? with
  | none => false
  | some w => fOpc w == 0x1C0#9

/-- The first word of the run that a path starts: RUN for a path resumed inside it (R324). -/
def Path.runPc (p : Path) : W64 := if p.run == 0 then p.pc else p.run

/-- The index of the first word of its run that a path has yet to issue: 0, but for a path resumed inside it (R18, R324). -/
def Path.restIdx (p : Path) : Nat := (p.pc - p.runPc).toNat / 8

/-- The run that a path starts, if it stands whole in the partition's run buffer (R105). -/
def runOf? (s : State) (w : Warp) (p : Path) : Option RunBuf :=
  (s.partAt w.key.core w.key.part).runbuf.find? fun r => r.ctx == w.ctx && r.pc == p.runPc

/-- The future slots that a path's run has taken and no command of it holds, until the run's end (R37). -/
def Path.slots (p : Path) : Nat :=
  match p.inRun, p.ending with
  | some r, _ => r.slots
  | none, some e => e.slots
  | none, none => 0

/-- Future slots of a core that no command holds and no run has taken (R37). -/
def freeSlots (s : State) (core : Nat) : Nat :=
  Config.futures - ((s.ops.filter fun o => o.core == core).length +
    sumN ((s.warps.filter fun w => w.key.core == core).flatMap fun w => w.paths.map Path.slots))

/-! ### Eligibility (R17) -/

/-- The flags that the lanes' last runs ended waiting for read zero (R79). -/
def waitsClear (w : Warp) (p : Path) : Bool :=
  (w.lanesIn p.mask).all fun l => (List.range 12).all fun i => !l.waitF.getLsbD i || l.flag i == 0

/-- The pending rule (R35) and the rule of RECRUIT (R293). -/
def pendingClear (w : Warp) (p : Path) (ws : List W64) : Bool :=
  let rs := runRegs ws
  (w.lanesIn p.mask).all fun l =>
    (l.pend.all fun e => !rs.contains e.1) &&
    (!runRecruits ws || (l.pend.isEmpty && (List.range 12).all fun i => l.flag i == 0))

/-- The flag counters leave room for the run's bindings (R78). -/
def flagRoom (w : Warp) (p : Path) (ws : List W64) (t : W64) : Bool :=
  (w.lanesIn p.mask).all fun l => (List.range 12).all fun i => l.flag i + bindCount ws t i p.restIdx ≤ 15

/-- The warp may start runs: its context runs, it has no trap to enter, is not stopped for save, and is not halted or
halting unless the path steps; a path inside a run finishes it first (R17, R313, R319, R328, R341, R343). -/
def warpRuns (s : State) (w : Warp) (p : Path) : Bool :=
  (s.ctxAt w.ctx).live && !(s.ctxAt w.ctx).stopped && w.trapReq.isNone && (!s.savesWarp w || finishesBody w p || midRun s w p) &&
    ((!w.halt && (w.haltReq.isNone || midRun s w p)) || p.stepping)

/-- The conditions of R17 but for the hold of JOINH and the presence of the run; an ICINV of a lane has acted first (R107). -/
def readyBase (s : State) (w : Warp) (p : Path) : Bool :=
  p.atBoundary && !p.fp && !p.trapped && p.behind.isNone && warpRuns s w p && p.endedAt < s.clk && waitsClear w p && !parked s w p &&
    w.icinv.all (fun m => m &&& p.mask == 0) &&
    (match p.yieldAt with | none => true | some t => t + 16 ≤ s.clk)

/-- The recruiters of a path that have left the body (R418). A handler that runs in one is bound by none of this: helper mode rests while it
runs (DESIGN CHOICE, log 102). -/
def joinsLanes (w : Warp) (p : Path) : List Lane :=
  if p.handler then [] else (w.lanesIn p.mask).filter fun l => match l.helper with | some h => !h.inBody | none => false

/-- A run that is HJOIN alone, with LEN 1 (R418). -/
def isJoinRun (ws : List W64) (t : W64) : Bool :=
  match ws with
  | [w] => fOpc w == 0x1C3#9 && runShape ws t
  | _ => false

/-- Every participant of the lane's group has left it (DEDUCED, log 66). -/
def groupEmpty (s : State) (l : Lane) : Bool :=
  match l.helper with
  | none => true
  | some h => match s.groupAt? h.grp with | some g => g.members.isEmpty | none => true

/-- A recruiter that has left the body starts HJOIN alone; any other run waits until every participant has left (R418). -/
def joinReady (s : State) (w : Warp) (p : Path) (ws : List W64) (t : W64) : Bool :=
  isJoinRun ws t || (joinsLanes w p).all (groupEmpty s)

/-- The conditions that depend on the run: pending registers, future slots, flag room, of the words that the path has yet to
issue. A run that fails a check of R80 takes none of these waits. -/
def readyRun (s : State) (w : Warp) (p : Path) (r : RunBuf) : Bool :=
  match r.fault with
  | some _ => joinReady s w p [] 0
  | none =>
    let t := r.words.getLast?.getD 0
    let ws := r.words.dropLast
    joinReady s w p ws t &&
    let rest := ws.drop p.restIdx
    (!runShape ws t || !trailerClean t || 256 < runSlots ws (popMask p.mask) ||
      (pendingClear w p rest && flagRoom w p ws t && runSlots rest (popMask p.mask) ≤ freeSlots s w.key.core))

/-- Eligible but for a hold. -/
def readyUnheld (s : State) (w : Warp) (p : Path) : Bool :=
  readyBase s w p && (match runOf? s w p with | none => false | some r => readyRun s w p r)

/-- A JOINH hold still binds the path (R26). -/
def held (s : State) (w : Warp) (p : Path) : Bool :=
  match p.hold with
  | none => false
  | some t => s.clk < t && !w.serial && w.liveMask &&& ~~~p.mask != 0 && !p.stepping &&
      w.paths.any fun q => q.mask != p.mask && (q.inRun.isSome || q.ending.isSome || (q.hold.isNone && readyUnheld s w q))

/-- A path is eligible (R17). -/
def eligible (s : State) (w : Warp) (p : Path) : Bool := readyUnheld s w p && !held s w p

/-- The paths of a warp that may start now: eligible paths, in serial mode only the next lane in turn (R28). -/
def candidates (s : State) (w : Warp) : List Path :=
  let es := w.paths.filter fun p => eligible s w p
  if w.serial then
    if w.paths.any fun p => p.inRun.isSome then []
    else (sortBy (fun p => (lowLane p.mask + 32 - (w.lastServed + 1)) % 32) es).take 1
  else es

/-! ### Ranking (R21, R22) -/

/-- AGEMAX of a warp's context. -/
def ageMax (s : State) (w : Warp) : Nat := ((s.ctxFor w.key.core w.ctx).csrOf 0x14).toNat

/-- The age of a path for ranking; a serial warp has one age (R28). -/
def ageOf (w : Warp) (p : Path) : Nat := if w.serial then w.sage else p.age

/-- X ranks before Z (R21). -/
def ranksBefore (amax : Nat) (x z : Path) : Bool :=
  let ax := decide (amax ≤ x.age)
  let az := decide (amax ≤ z.age)
  if ax != az then ax
  else if ax then
    if x.age != z.age then z.age < x.age
    else if x.pc != z.pc then x.pc.toNat < z.pc.toNat else x.run.toNat < z.run.toNat
  else if popMask x.mask != popMask z.mask then popMask z.mask < popMask x.mask
  else if x.age != z.age then z.age < x.age
  else if x.pc != z.pc then x.pc.toNat < z.pc.toNat else x.run.toNat < z.run.toNat

/-- The path that ranks first (R21). -/
def bestPath (amax : Nat) : List Path → Option Path
  | [] => none
  | p :: r =>
    match bestPath amax r with
    | none => some p
    | some q => if ranksBefore amax q p then some q else some p

/-- The warp that a partition picks when no run-lock holds (R22). A warp holds an aged path when one that may start now is aged (DEDUCED,
log 85). -/
def pickWarp (s : State) (core part : Nat) : Option Warp :=
  let ws := s.warps.filter fun w => w.key.core == core && w.key.part == part && !(candidates s w).isEmpty
  let best (w : Warp) : Nat := maxN (((candidates s w).map (ageOf w)).filter fun a => ageMax s w ≤ a)
  let aged := ws.filter fun w => (candidates s w).any fun p => ageMax s w ≤ ageOf w p
  if aged.isEmpty then
    let last := (s.partAt core part).lastWarp
    (sortBy (fun w => (w.key.slot + 16 - (last + 1)) % 16) ws).head?
  else (sortBy (fun w => (255 - best w) * 16 + w.key.slot) aged).head?

end Sys2Proof.Machine
end

