-- ==== Sys2Proof/Machine/Ops.lean ====
section
/-!
DEFINITION. The shared operations over registers, run-end effects and exceptions: writing a lane's registers and landing
fixed-latency results (R82 to R85), fault records (R97, R325), stopping a context (R328), barrier arrivals and CSR writes at
a run end (R76, R94, R199), helpers that leave a body (R297, R300, R335), raising a trap, entering it and returning from it
(R89, R90, R317 to R327).
-/

namespace Sys2Proof.Machine

/-! ### Registers of a lane -/

/-- A predicate byte with one bit written; P7 is discarded (R10). -/
def setPred (p : BitVec 8) (i : Nat) (b : Bool) : BitVec 8 :=
  if 7 ≤ i then p else if b then p ||| (1#8 <<< i) else p &&& ~~~(1#8 <<< i)

/-- A register of a lane written by its operand code (R70). -/
def Lane.write (l : Lane) (code : Nat) (v : W32) : Lane :=
  if code < 0x80 then { l with g := smSet l.g code v }
  else if code < 0x88 then { l with t := smSet l.t (code - 0x80) v, tset := l.tset ||| (1#8 <<< (code - 0x80)) }
  else if 0x90 ≤ code && code < 0x98 then { l with p := setPred l.p (code - 0x90) (v.getLsbD 0) }
  else if 0x98 ≤ code && code < 0xA0 then { l with y := smSet l.y (code - 0x98) v }
  else l

/-- Fixed-latency results that have completed by a clk are in the registers, in the order of their completion (R83). -/
def Lane.commit (clk : Nat) (l : Lane) : Lane :=
  (l.inflight.filter fun f => f.due ≤ clk).foldl (fun l f => l.write f.code f.val)
    { l with inflight := l.inflight.filter fun f => clk < f.due }

/-- Every fixed-latency result that has issued is written (R85). -/
def Lane.commitAll (l : Lane) : Lane :=
  l.inflight.foldl (fun l f => l.write f.code f.val) { l with inflight := [] }

/-- A fixed-latency result enters flight, behind those that complete before it or with it (R83). -/
def Lane.launchFix (l : Lane) (f : FixWrite) : Lane := { l with inflight := insertBy (fun x => x.due) f l.inflight }

/-- A flag counter counts down, not below zero (R78). -/
def Lane.decFlag (l : Lane) (i : Nat) : Lane := { l with f := smSet l.f i (l.flag i - 1) }

/-- A flag counter counts up (R78). -/
def Lane.incFlag (l : Lane) (i : Nat) : Lane := { l with f := smSet l.f i (l.flag i + 1) }

/-- Every L1 line of C and U pages of a core is dropped (R162). -/
def dropL1 (s : State) (core : Nat) : State :=
  s.modCore core fun c => { c with l1 := c.l1.filter fun e => e.kind == .S }

/-! ### The Kiln log (R369) -/

/-- A log with an entry of the present: behind every other one, but before those of its timestamp from higher sources (R6, R351). -/
def insertLog (l : List LogEntry) (e : LogEntry) : List LogEntry :=
  let later := l.reverse.takeWhile fun x => x.ts == e.ts && e.src < x.src
  l.take (l.length - later.length) ++ e :: later.reverse

/-- The log with an entry; a full log loses its oldest. -/
def addLog (s : State) (src code data : Nat) : State :=
  let l := insertLog s.kilnLog ⟨s.ts, src, code, data⟩
  { s with kilnLog := l.drop (l.length - 4096) }

/-! ### Errors of the second tier (R368) -/

/-- The port of the second tier at which an address of a context lies, when it is down or answers with poison. -/
def portMet? (s : State) (x va : Nat) : Option Nat :=
  match leafFor s (s.ctxAt x) va with
  | none => none
  | some (e, size) =>
    let port := (pteAddr e + va % size) / 4096 % 8
    if bitsN e 11 10 == 1 && bitsN e 51 48 != 15 && (s.cxlDown ++ s.cxlPoison).contains port then some port else none

/-- A port answers a request with an error: a port that is down gives a log entry, and a poison indication, logged when it came, has been
used up (R368) (DEDUCED, log 43). -/
def portError (s : State) (port : Nat) : State :=
  let s := { s with cxlPoison := s.cxlPoison.filter (· != port) }
  if s.cxlDown.contains port then addLog s 4095 5 port else s

/-- Requests for addresses of a context have met ports that answer with an error. -/
def noteErrors (s : State) (x : Nat) (vas : List Nat) : State := (distinct (vas.filterMap (portMet? s x))).foldl portError s

/-! ### Fault records (R97, R325) -/

/-- One lane's cause at a word: lane, cause, sub-cause, ADDR, ACC. -/
structure LaneFault where
  lane : Nat
  cause : Nat
  sub : Nat
  addr : Nat
  acc : Nat
  deriving DecidableEq, Repr

/-- The 256-bit record of a lane's fault at a word that issued at a timestamp (R325, R336). A helper's names its recruiter. -/
def recordOf (s : State) (ts : Nat) (w : Warp) (pc : W64) (mask : Mask) (f : LaneFault) : Nat :=
  let l := w.laneAt f.lane
  let (iter, idx, rk, rl) := match l.helper with
    | some h =>
      if h.inBody then
        (match s.groupAt? h.grp with
        | some g => (h.hidx.toNat, h.idx, g.w, g.lane)
        | none => (h.hidx.toNat, h.idx, w.key, f.lane))
      else (0, 0xFF, w.key, f.lane)
    | none => (0, 0xFF, w.key, f.lane)
  f.addr % 2 ^ 57 * 2 ^ 199 + pc.toNat / 8 % 2 ^ 54 * 2 ^ 145 + iter % 2 ^ 32 * 2 ^ 113 + mask.toNat * 2 ^ 81 +
    ts % 2 ^ 40 * 2 ^ 41 + idx % 256 * 2 ^ 33 + rk.core % 256 * 2 ^ 25 + winOf rk % 64 * 2 ^ 19 + rl % 32 * 2 ^ 14 +
    f.sub % 64 * 2 ^ 8 + f.cause % 32 * 2 ^ 3 + f.acc % 8

/-- A record comes behind another: it is later, or as late and from no lower source (R6, R351). -/
def recordAfter (a b : Nat × Nat × Nat) : Bool := b.1 < a.1 || (b.1 == a.1 && b.2.1 ≤ a.2.1)

/-- The records of a ring that FBTAIL has not passed. -/
def Ctx.unread (c : Ctx) : List (Nat × Nat × Nat) := c.ring.drop (c.ring.length - (c.csrOf 0x23 - c.csrOf 0x24).toNat)

/-- A 32-byte record of a timestamp and a source goes to the context's FAULTBUF ring, unless the ring is off, full, or its store fails (R97,
R325). The records that must follow it move up by one place (R351) (DEDUCED, log 87). -/
def writeRecord (s : State) (x ts src rec : Nat) : State :=
  let c := s.ctxAt x
  let fb := c.csr64 0x20
  if fb == 0 then s
  else
    let head := (c.csrOf 0x23).toNat
    let size := 2 ^ (c.csrOf 0x22).toNat
    let e := (ts, src, rec)
    let later := c.unread.reverse.takeWhile fun r => !recordAfter e r
    let moved := e :: later.reverse
    if (c.csrOf 0x23 - c.csrOf 0x24).toNat == size then s.setSticky x stFbovf
    else match partStores s x (moved.zipIdx.map fun r => (fb + (head + 2 ^ 32 - later.length + r.2) % size * 32, 32, r.1.2.2)) with
      | .error _ => (noteErrors s x (moved.zipIdx.map fun r => fb + (head + 2 ^ 32 - later.length + r.2) % size * 32)).setSticky x stFbovf
      | .ok s' => s'.modCtx x fun c =>
        { c.setCsr 0x23 (c.csrOf 0x23 + 1) with ring := c.unread.take (c.unread.length - later.length) ++ moved }

/-- The errors of the second tier that some lanes' accesses or fetches of a word have met; one through the stack window has met that of the
place in the stack's memory (R157, R368). -/
def noteFaults (s : State) (w : Warp) (fs : List LaneFault) : State :=
  let who (l : Nat) : Who := ⟨w.ctx, w.blk, (w.laneAt l).slim, (w.laneAt l).flat⟩
  noteErrors s w.ctx ((fs.filter fun f => f.cause == cRange).map fun f =>
    if 0x00FF800000000000 ≤ f.addr && f.addr < 0x0100000000000000 then stackVa s (who f.lane) (f.addr - 0x00FF800000000000) else f.addr)

/-- The source number of a warp's partition (R351). -/
def sourceOf (k : WarpKey) : Nat := k.core * 8 + k.part

/-- The records of one word, in ascending lane order, with the timestamp of its issue (R325, R336). -/
def writeRecords (s : State) (ts : Nat) (w : Warp) (pc : W64) (mask : Mask) (fs : List LaneFault) : State :=
  fs.foldl (fun t f => writeRecord t w.ctx ts (sourceOf w.key) (recordOf s ts w pc mask f)) s

/-! ### Faults that stop a context (R328, R362) -/

/-- The LAUNCH command whose record a launch is resolves. -/
def resolveLaunch (s : State) (l : Launch) (f : EngOp → OpState) : State :=
  match l.fut with
  | none => s
  | some r =>
    { s with
      ops := mapIf (fun o => o.core == r.core && o.slot == r.slot && o.seq == r.seq && o.state == .running)
        (fun o => { o with state := f o }) s.ops }

/-- The size of a message between devices of a span, which is not given (R307) (DESIGN CHOICE, log 114). -/
def messageBytes (s : State) : Nat := Config.freeNat s.free 4096

/-- A message to the device whose LAUNCH made a record that this device's part of it has ended (R307). -/
def sendDone (s : State) (x : Nat) (origin : Option Nat) : State :=
  match origin with
  | none => s
  | some r => sendOwn s x r 0 (messageBytes s) 7

/-- A launch ends with respect to one rank of its span; once every rank has answered, the LAUNCH that made it resolves to 0, or to ABORTED
when a rank failed, or the device that forwarded the record gets a message (R307, R309). -/
def launchAnswer (s : State) (id rank : Nat) (ok : Bool) : State :=
  let first := (s.launchAt id).ranks.contains rank
  let s := s.modLaunch id fun l => { l with ranks := l.ranks.filter (· != rank), failed := l.failed || !ok }
  let l := s.launchAt id
  if l.ranks.isEmpty then
    resolveLaunch (if first then sendDone s l.ctx l.origin else s) l fun o =>
      if l.failed then .fault sAborted else .done ((lanesOf o.lanes).map fun i => (i, 0#32))
  else s

/-- A rank whose link is lost ends the LAUNCH with ABORTED (R202, R307). -/
def launchLost (s : State) (id rank : Nat) : State :=
  let s := s.modLaunch id fun l => { l with ranks := l.ranks.filter (· != rank), failed := true }
  resolveLaunch s (s.launchAt id) fun _ => .fault sAborted

/-- A context fault ends this device's part of the launches of a context, and of the forwarded records that its queues hold (R307, R309). -/
def abortLaunches (s : State) (x : Nat) : State :=
  let rank := (s.ctxAt x).rank % max 1 (s.ctxAt x).span
  let s := (s.launches.filter fun l => l.ctx == x && !l.ranks.isEmpty).foldl (fun s l => launchAnswer s l.id rank false) s
  (s.queues.filter fun q => q.ctx == x).foldl (fun s q =>
    (q.origins.map (·.2) ++ q.forwards.map (·.2)).foldl (fun s r => sendDone s x (some r))
      (s.modQueue q.id fun q => { q with origins := [], forwards := [] })) s

/-- The context stops and its STATUS reports the cause; MSI-X vector x is sent. A stopped context stays as it is. -/
def contextStop (s : State) (x cause sub core wslot : Nat) : State :=
  if (s.ctxAt x).stopped then s else
  let st := BitVec.ofNat 64 (2 ^ 63 + cause % 256 * 2 ^ 40 + sub % 256 * 2 ^ 32 + core % 256 * 2 ^ 24 + wslot % 64 * 2 ^ 16)
  let s := s.modCtx x fun c => { c with stopped := true, status := st }
  let s := abortLaunches { s with msix := s.msix ++ [x] } x
  addLog s (core * 8 + wslot / 16) 7 (x + cause * 256 + sub * 65536)

/-! ### Run-end effects (R76, R94, R199, R200) -/

/-- A lane arrives at a barrier, or waits to arrive in the next phase when its bit is set already (R199, R200) (DEDUCED, log 19). -/
def Lane.arrive (next lvl num : Nat) (wait : Bool) (l : Lane) : Lane :=
  if l.arrived.any fun a => a.1 == lvl && a.2.1 == num then
    { l with
      rearrive := l.rearrive ++ [(lvl + (if wait then 4 else 0), num)]
      waits := l.waits ++ [⟨lvl, num, none⟩] }
  else { l with arrived := l.arrived ++ [(lvl, num, next)], homed := false }

/-- A lane is to arrive again once a phase releases (R200). -/
def Lane.again (lvl num : Nat) (l : Lane) : Bool := l.rearrive.any fun r => r.1 % 4 == lvl && r.2 == num

/-- A lane waits for the release of a phase. -/
def Lane.park (lvl num : Nat) (l : Lane) : Lane :=
  if l.waits.any fun b => b.lvl == lvl && b.num == num && b.at_.isNone then l
  else { l with waits := l.waits ++ [⟨lvl, num, none⟩] }

/-- A lane waits for the phase in which it has arrived, one that is to arrive again for that next phase too; with no arrival it returns at
once (R200, R379). -/
def Lane.await (lvl num : Nat) (l : Lane) : Lane :=
  let l := { l with rearrive := mapIf (fun r => r.1 % 4 == lvl && r.2 == num) (fun _ => (lvl + 4, num)) l.rearrive }
  if l.again lvl num || l.arrived.any fun a => a.1 == lvl && a.2.1 == num then l.park lvl num else l

/-- A CSRW of a context-held register at its run end: of two in one timestamp that of the higher source stands, whichever came first here; a
write of ones to STICKY clears whatever stands (R6, R94). -/
def csrwContext (s : State) (k : WarpKey) (x num : Nat) (v : W32) (tm : Bool) : State :=
  match smFind (s.ctxAt x).csrBy num with
  | some (t, src) =>
    if t == s.ts && sourceOf k < src && num != 0x11 then s
    else (writeCtxCsr s x num v tm).modCtx x fun c => { c with csrBy := smSet c.csrBy num (s.ts, sourceOf k) }
  | none => (writeCtxCsr s x num v tm).modCtx x fun c => { c with csrBy := smSet c.csrBy num (s.ts, sourceOf k) }

/-- A CSRW at its run end: thread-held registers per lane, warp- and context-held ones from the highest lane (R94). -/
def applyCsrw (s : State) (k : WarpKey) (num : Nat) (vals : List (Nat × W32)) : State :=
  let w := s.warpAt k
  match csrInfo num, vals.getLast? with
  | some (.thread, _), _ =>
    s.modWarp k fun w => w.eachLane fun l =>
      match smFind vals l.id with
      | some v => { l with fpctl := csrStore num v }
      | none => l
  | some (.warp, _), some (_, v) => s.modWarp k fun w => { w with helpctl := csrStore num v }
  | some (.context, _), some (_, v) => csrwContext s k w.ctx num v w.trapMode
  | _, _ => s

/-- ICINV at its run end: caches and run buffers of the context are emptied everywhere (R107). -/
def applyIcinv (s : State) (x : Nat) : State :=
  { s with
    cores := s.cores.map fun c => { c with icache := c.icache.filter fun e => e.ctx != x }
    parts := s.parts.map fun p => { p with runbuf := p.runbuf.filter fun r => r.ctx != x } }

/-- A lane has taken part in a WSYNC phase of its warp that has not released (R204). -/
def Warp.inPhase (w : Warp) (l : Nat) : Bool :=
  (match w.phase with | some ph => ph.took.getLsbD l | none => false) || w.closing.any fun m => m.getLsbD l

/-- A complete phase releases: its lanes wait no longer, but for one that has taken part in another (R197, R204). -/
def releasePhase (took : Mask) (w : Warp) : Warp :=
  let w := { w with closing := w.closing.filter (· != took) }
  w.mapLanes took fun l => if w.inPhase l.id then l else { l with syncing := false, heldSync := false }

/-- An effect of a run at its end, for the lanes of a mask: arrivals, CSR writes, WSYNC releases and ICINV (R76, R379). YIELD and JOINH
act on the path. -/
def applyEff (s : State) (k : WarpKey) (within : Mask) : RunEff → State
  | .bar kind lvl num m =>
    if kind < 2 then s.modWarp k fun w => w.mapLanes (m &&& within) (Lane.arrive s.nextId lvl num (kind == 0)) else s
  | .sync _ => s
  | .release took => s.modWarp k (releasePhase took)
  | .csrw num vals => applyCsrw s k num (vals.filter fun v => within.getLsbD v.1)
  | .icinv m => if m == 0 then s else applyIcinv s (s.warpAt k).ctx
  | .yield => s
  | .joinh _ => s

/-- A wait of a run at its end, for the lanes of a mask: BAR, BARW, the wait of a BARA that is to arrive again (kind 3), and WSYNC while
its phase has not released (R204, R379). -/
def applyWait (s : State) (k : WarpKey) (within : Mask) : RunEff → State
  | .bar kind lvl num m =>
    if kind == 1 then s
    else if kind == 3 then s.modWarp k fun w => w.mapLanes (m &&& within) fun l => if l.again lvl num then l.park lvl num else l
    else s.modWarp k fun w => w.mapLanes (m &&& within) (Lane.await lvl num)
  | .sync m => s.modWarp k fun w => w.mapLanes (m &&& within) fun l => { l with syncing := l.syncing || w.inPhase l.id }
  | _ => s

/-- The highest of some lanes that writes a CSR by the CSRWs of a run. -/
def csrwLane (within : Mask) (es : List RunEff) (num : Nat) : Nat :=
  maxN ((es.flatMap fun e => match e with
    | .csrw n vals => if n == num then vals.map (·.1) else []
    | _ => []).filter fun l => within.getLsbD l)

/-- The effects of a run as lanes of a mask have them: of the CSRWs of one warp- or context-held register, by whatever words, those of the
highest lane alone (R94). -/
def oneCsrw (within : Mask) (es : List RunEff) : List RunEff :=
  es.map fun e => match e with
    | .csrw num vals =>
      (match csrInfo num with
      | some (.thread, _) => e
      | _ => .csrw num (vals.filter fun v => v.1 == csrwLane within es num))
    | e => e

/-- Every effect of a run at its end: first the arrivals and the other effects in word order, then the waits (R379). -/
def applyEffs (s : State) (k : WarpKey) (within : Mask) (es : List RunEff) : State :=
  es.foldl (fun s e => applyWait s k within e) ((oneCsrw within es).foldl (fun s e => applyEff s k within e) s)

/-- ICINVs among effects that act outside any run end, for lanes of a mask: they wait with the warp for the lanes' stores (R107). -/
def deferIcinv (s : State) (k : WarpKey) (within : Mask) (es : List RunEff) : State :=
  let ms := es.filterMap fun e => match e with | .icinv m => if m &&& within == 0 then none else some (m &&& within) | _ => none
  s.modWarp k fun w => { w with icinv := w.icinv ++ ms }

/-- Effects without the ICINVs among them. -/
def noIcinv (es : List RunEff) : List RunEff := es.filter fun e => match e with | .icinv _ => false | _ => true

/-- An effect for the lanes of a mask only. -/
def clipEff (m : Mask) : RunEff → RunEff
  | .bar kind lvl num b => .bar kind lvl num (b &&& m)
  | .sync b => .sync (b &&& m)
  | .csrw num vals => .csrw num (vals.filter fun v => m.getLsbD v.1)
  | .release took => .release took
  | .icinv b => .icinv (b &&& m)
  | .yield => .yield
  | .joinh n => .joinh n

/-- Effects of the words that have issued are kept with lanes that stop inside their run without a trap entry, and act at the end of the
run in which they resume (R90, R326); a phase that the run has completed releases once, by the lowest lane. -/
def keepEffs (w : Warp) (m : Mask) (es : List RunEff) : Warp :=
  w.mapLanes m fun l =>
    { l with kept := l.kept ++ (es.filter fun e => match e with | .release _ => l.id == lowLane m | _ => true).map (clipEff (maskOf [l.id])) }

/-- An effect of an unfinished run at trap entry: arrivals, CSR writes and ICINV act, waits are kept with the lanes (R90), and a WSYNC phase
that the run has completed releases (DEDUCED, log 47). -/
def settleEff (s : State) (k : WarpKey) : RunEff → State
  | .bar 0 lvl num m =>
    let s := s.modWarp k fun w => w.mapLanes m (Lane.arrive s.nextId lvl num false)
    s.modWarp k fun w => w.mapLanes m fun l => { l with kept := l.kept ++ [.bar 2 lvl num m] }
  | .bar 1 lvl num m =>
    let s := s.modWarp k fun w => w.mapLanes m (Lane.arrive s.nextId lvl num false)
    s.modWarp k fun w => w.mapLanes m fun l => { l with kept := l.kept ++ [.bar 3 lvl num m] }
  | .bar _ lvl num m => s.modWarp k fun w => w.mapLanes m fun l => { l with kept := l.kept ++ [.bar 2 lvl num m] }
  | .sync m => s.modWarp k fun w => w.mapLanes m fun l => { l with kept := l.kept ++ [.sync m] }
  | e => applyEff s k (BitVec.allOnes 32) e

/-! ### WSYNC phases (R204) -/

/-- A lane of a phase's mask does not hold the phase: it took part, or has exited, and is not lent. -/
def syncMet (w : Warp) (ph : SyncPhase) (l : Nat) : Bool :=
  let x := w.laneAt l
  !x.isLent && (ph.took.getLsbD l || x.exited || !w.lanes.any fun y => y.id == l)

/-- The phase ends, and its lanes wait no longer. -/
def endPhase (w : Warp) (ph : SyncPhase) : Warp :=
  { w with phase := none }.mapLanes ph.took fun l => { l with syncing := false, heldSync := false }

/-- Some access is still held to come before others by an edge: its accesses below a number are not all performed. -/
def edgeLive (s : State) (d : List (WarpKey × Nat) × Nat × Nat) : Bool :=
  s.accesses.any fun e => e.st != .performed && e.page != .U && e.id < d.2.1 && d.1.contains (e.w, e.lane)

/-- The C and S accesses that lanes have made come before what a lane accesses from now on, and so do those that came before theirs: the
closure of R171. -/
def joinEdges (s : State) (src : List (WarpKey × Nat)) (l : Lane) : Lane :=
  { l with
    edges := (l.edges ++ (src, s.nextId, s.nextId) ::
      src.flatMap fun k => (s.laneAt k.1 k.2).edges.map fun d => (d.1, d.2.1, s.nextId)).filter (edgeLive s) }

/-- An access is held to come before what a lane accesses from a number on (R171). -/
def edgeBefore (l : Lane) (n : Nat) (e : Access) : Bool :=
  e.page != .U && l.edges.any fun d => d.2.2 ≤ n && e.id < d.2.1 && d.1.contains (e.w, e.lane)

/-- The lanes of a phase that releases: what each one accessed before comes before what each one accesses from now on (R178). -/
def syncEdges (s : State) (k : WarpKey) (ph : SyncPhase) : State :=
  s.modWarp k fun w => w.mapLanes ph.took (joinEdges s ((lanesOf ph.took).map fun j => (k, j)))

/-- A phase releases when every lane of its mask meets its condition, with the edges of R178 (R204). -/
def settleSync (s : State) (k : WarpKey) : State :=
  let w := s.warpAt k
  match w.phase with
  | none => s
  | some ph => if (lanesOf ph.mask).all (syncMet w ph) then (syncEdges s k ph).modWarp k fun w => endPhase w ph else s

/-! ### Helpers that leave a body (R297, R300, R335, R402) -/

/-- The results of a lane's outstanding accesses and arithmetic are discarded (R78), and its waits on words end. -/
def discardResults (s : State) (k : WarpKey) (l : Nat) : State :=
  { s with
    accesses := (s.accesses.filter fun a => !(a.w == k && a.lane == l && (a.st == .performed || a.kind == .mwait))).map fun a =>
      if a.w == k && a.lane == l then { a with flag := none } else a
    maths := s.maths.filter fun m => !(m.w == k && m.lane == l) }

/-- A lent lane goes home with its own state restored (R297); a parked one rejoins its home path. `last` is the clk of the last word that it
issued (R81). -/
def goHome (s : State) (k : WarpKey) (l last : Nat) : State :=
  let s := discardResults s k l
  match (s.laneAt k l).helper with
  | none => s
  | some h =>
    match h.lent with
    | none => s
    | some t =>
      let s := s.modWarp k fun w => (w.dropLanes (maskOf [l])).modLane l fun x =>
        { x with
          y := t.y
          p := t.p
          f := t.f
          inflight := []
          helper := none
          pc := t.pc
          sdepth := h.sd0
          stk := x.stk.filter fun e => e.off < h.sd0 }
      let s := if t.parked then
          s.modWarp k fun w => settlePaths
            { w with paths := w.paths ++ [{ newPath t.pc (maskOf [l]) with endedAt := s.clk, lastIssue := last }] }
        else s
      settleSync s k

/-- The recruiter goes to the continuation and stays in helper mode until HJOIN (R296, R300). Where it leaves a run that goes on, it waits
for the end of that run and then for the flags of its trailer (R79, R335). -/
def toContinuation (s : State) (k : WarpKey) (l : Nat) (cont : W64) (clk : Nat) (run : Option (Nat × BitVec 12)) : State :=
  s.modWarp k fun w => settlePaths
    { (w.dropLanes (maskOf [l])).modLane l fun x =>
        { x with
          pc := cont
          waitF := match run with | some r => r.2 | none => x.waitF
          sdepth := (x.helper.map (·.sd0)).getD x.sdepth
          stk := x.stk.filter fun e => e.off < (x.helper.map (·.sd0)).getD x.sdepth
          helper := x.helper.map fun h => { h with inBody := false } } with
      paths := (w.dropLanes (maskOf [l])).paths ++ 
        [{ newPath cont (maskOf [l]) with endedAt := clk, lastIssue := clk, behind := run.map (·.1) }] }

/-- A participant leaves its group (R296, R300); a helper that leaves by HRELEASE has its Y registers captured, with
the results in flight (R85) (DEDUCED, log 77). -/
def leaveGroup (s : State) (k : WarpKey) (l : Nat) (capture : Bool) : State :=
  match (s.laneAt k l).helper with
  | none => s
  | some h =>
    let y := (s.laneAt k l).commitAll.y
    s.modGroup h.grp fun g =>
      { g with
        members := g.members.filter fun m => !(m.2.1 == k && m.2.2 == l)
        captured := if capture then smSet g.captured h.idx y else g.captured }

/-- A cause raised at a word or at a run's first word: the timestamp of the word's issue, the run's lanes, the trapping ones, where each lane
of the run resumes (lane, PC, RUN), and what the frame header says of it. -/
structure Raise where
  key : WarpKey
  ts : Nat
  cause : Nat
  sub : Nat
  tpc : W64
  epc : W64
  eseq : Nat
  ecls : Nat
  ereg : Nat
  mask : Mask
  tl : Mask
  faults : List LaneFault
  resume : List (Nat × W64 × W64)
  effs : List RunEff
  handler : Bool
  deriving DecidableEq, Repr

/-- A raise without some lanes, which have been charged: its effects are those of the others. -/
def Raise.without (r : Raise) (m : Mask) : Raise :=
  { r with
    mask := r.mask &&& ~~~m
    tl := r.tl &&& ~~~m
    resume := r.resume.filter fun x => !m.getLsbD x.1
    effs := r.effs.map (clipEff (~~~m)) }

/-- Participants of a path leave their groups for a cause in a body, which is charged (R300, R335). The run-end effects of the earlier words
act for them; `run` is the datapath and the WAIT of the run that goes on without them, for a cause raised per lane (DEDUCED, log 67). -/
def chargeLanes (s : State) (r : Raise) (lanes : List Nat) (cause sub : Nat) (fbfirst : W32) (run : Option (Nat × BitVec 12)) : State :=
  lanes.foldl (fun s l =>
    match (s.laneAt r.key l).helper with
    | none => s
    | some h =>
      let ch : Charge :=
        { cause := cause
          sub := sub
          epc := r.epc
          eseq := r.eseq
          ecls := r.ecls
          ereg := r.ereg
          ts := r.ts
          helper := h.idx
          iter := h.hidx
          nrec := (r.faults.filter fun f => f.lane == l).length
          fbfirst := fbfirst }
      let cont := (s.groupAt? h.grp).map (·.cont) |>.getD 0
      let s := deferIcinv (applyEffs s r.key (maskOf [l]) (noIcinv r.effs)) r.key (maskOf [l]) r.effs
      let s := leaveGroup (s.modGroup h.grp fun g => { g with charges := g.charges ++ [ch] }) r.key l false
      if h.lent.isSome then goHome s r.key l s.clk else toContinuation s r.key l cont s.clk run) s

/-! ### Raising a trap (R89, R319, R320, R326, R335) -/

/-- Paths for lanes that stop at or inside a run: one per distinct (PC, RUN) (R14), trapped when `mark` names a lane of it. -/
def stoppedPaths (base : Path) (rs : List (Nat × W64 × W64)) (mark : Nat → Bool) : List Path :=
  (distinct (rs.map (·.2))).map fun t =>
    let ls := (rs.filter fun r => r.2 == t).map (·.1)
    { base with
      pc := t.1
      run := t.2
      mask := maskOf ls
      inRun := none
      ending := none
      hold := none
      stepping := false
      behind := none
      trapped := ls.any mark }

/-- The lanes of a raise have their resume points, in paths of their own outside any run (R89, R323). -/
def stopLanes (s : State) (r : Raise) (mark : Nat → Bool) : State :=
  s.modWarp r.key fun w =>
    let base := (w.paths.find? fun p => p.mask &&& r.mask != 0).getD (newPath 0 0)
    let w := w.eachLane fun l =>
      match r.resume.find? fun x => x.1 == l.id with
      | some x => { l with pc := x.2.1, run := x.2.2 }
      | none => l
    let w := w.dropLanes r.mask
    settlePaths { w with paths := w.paths ++ stoppedPaths { base with endedAt := s.clk } r.resume mark }

/-- A trap request from a raise whose records have been written. -/
def reqOf (r : Raise) (nrec : Nat) (fbfirst : W32) : TrapReq where
  cause := r.cause
  sub := r.sub
  tpc := r.tpc
  epc := r.epc
  tlanes := r.tl
  eseq := r.eseq
  ecls := r.ecls
  ereg := r.ereg
  nrec := nrec
  fbfirst := fbfirst
  effs := r.effs

/-- A cluster that was stopped for migration goes on where it stands: a block of it halts, or traps and so may be restored only here (R331,
R345) (DEDUCED, log 44). -/
def keepFromMigration (s : State) (blk : Nat) : State :=
  let b := s.blockAt blk
  { s with
    blocks := mapIf (fun c => c.launch == b.launch && c.cluster == b.cluster && c.saving == some true && !c.saved)
      (fun c => { c with saving := none, target := none }) s.blocks }

/-- A precise trap of lanes outside any helper body: the context stops when it has no handler (R97), a second trap of the
handler path is a double trap (R328), and any other trap waits for its entry (R319, R320). -/
def takeTrap (s : State) (r : Raise) (nrec : Nat) (fbfirst : W32) : State :=
  let w := s.warpAt r.key
  if (s.ctxFor r.key.core w.ctx).csr64 0x1C == 0 then
    stopLanes (contextStop s w.ctx r.cause r.sub r.key.core (winOf r.key)) r fun l => r.tl.getLsbD l
  else if r.handler then
    stopLanes (contextStop s w.ctx r.cause 0x3F r.key.core (winOf r.key)) r fun l => r.tl.getLsbD l
  else
    (stopLanes (keepFromMigration s w.blk) r fun l => r.tl.getLsbD l).modWarp r.key fun w =>
      if w.trapMode || w.trapReq.isSome then { w with deferred := w.deferred ++ [reqOf r nrec fbfirst] }
      else { w with trapReq := some (reqOf r nrec fbfirst) }

/-- The lanes of a mask that are participants in a helper body. -/
def bodyLanes (w : Warp) (m : Mask) : List Nat :=
  ((w.lanesIn m).filter fun l => match l.helper with | some h => h.inBody | none => false).map (·.id)

/-- Raising a cause that is not raised per lane: no lane of the word has taken effect (R89). In a helper body it concerns
every participant of the path (R335), and a lane that is no participant is treated as outside a body: one whose cause it is traps, and any
other resumes at the word with the effects of the earlier words kept (R90). -/
def raiseWord (s : State) (r : Raise) : State :=
  let w := s.warpAt r.key
  let fb := (s.ctxAt w.ctx).csrOf 0x23
  let s := noteFaults (writeRecords s r.ts w r.tpc r.mask r.faults) w r.faults
  let body := bodyLanes w r.mask
  let s := chargeLanes s r body r.cause r.sub fb none
  let r := r.without (maskOf body)
  if r.mask == 0 then s
  else if r.tl == 0 then (stopLanes s r fun _ => false).modWarp r.key fun w => keepEffs w r.mask r.effs
  else takeTrap s r r.faults.length fb

/-- Lanes parked by a fault under CONTINUE: a path of their own at the word, inside its run (R326); the run-end effects of
the earlier words for these lanes act when they are resumed. `hand` tells that they are lanes of the handler path. -/
def parkFaulted (s : State) (k : WarpKey) (m : Mask) (pc run : W64) (effs : List RunEff) (hand : Bool) : State :=
  if m == 0 then s else
  s.modWarp k fun w =>
    let w := (keepEffs (w.dropLanes m) m effs).mapLanes m fun l => { l with pc := pc, run := run }
    settlePaths { w with paths := w.paths ++ [{ newPath pc m with run := run, fp := true, endedAt := s.clk, handler := hand }] }

/-- The records of one word are written, and FBHEAD as it stood before each lane's (R321, R325). -/
def recordHeads (s : State) (ts : Nat) (w : Warp) (pc : W64) (mask : Mask) (fs : List LaneFault) : State × SMap W32 :=
  fs.foldl (fun t f =>
    (writeRecord t.1 w.ctx ts (sourceOf w.key) (recordOf s ts w pc mask f), t.2 ++ [(f.lane, (t.1.ctxAt w.ctx).csrOf 0x23)])) (s, [])

/-- A fault of a stack operation, which in the handler path is a double trap whatever FAULTMODE is (R463). -/
def stackFault (r : Raise) : Bool := r.faults.any fun f => 5 ≤ f.acc

/-- Raising causes that a memory or stack access raised per lane, after the other lanes have completed the word: participants
of a body are charged, FAULTMODE CONTINUE parks the rest, and STOP traps (R325, R326, R335). Answers whether the run goes on
for the other lanes. -/
def raiseLanes (s : State) (r : Raise) : State × Bool :=
  let w := s.warpAt r.key
  let (s, heads) := recordHeads s r.ts w r.tpc r.mask r.faults
  let s := noteFaults s w r.faults
  let body := bodyLanes w r.tl
  let run := (w.paths.find? fun p => p.mask &&& r.mask != 0).bind fun p =>
    match p.inRun, p.ending with
    | some q, _ => some (q.dp, trailerWait q.trailer)
    | none, some e => some (e.dp, e.waitF)
    | none, none => none
  let s := body.foldl (fun s l =>
    let f := (r.faults.find? fun f => f.lane == l).getD ⟨l, r.cause, r.sub, 0, 0⟩
    chargeLanes s r [l] f.cause f.sub (smGet 0#32 heads l) run) s
  let q := r.without (maskOf body)
  let fs := r.faults.filter fun f => q.tl.getLsbD f.lane
  let at_ := (q.resume.find? fun x => q.tl.getLsbD x.1).map (·.2)
  if q.tl == 0 then (s, true)
  else if ((s.ctxFor r.key.core w.ctx).csrOf 0x13).getLsbD 0 && !(r.handler && stackFault r) then
    (parkFaulted s r.key q.tl ((at_.map (·.1)).getD r.tpc) ((at_.map (·.2)).getD 0) q.effs r.handler, true)
  else
    (takeTrap s { q with cause := (fs.head?.map (·.cause)).getD r.cause } fs.length (smGet 0#32 heads (lowLane q.tl)), false)

/-! ### The trap frame (R321, R322) -/

/-- The address of a warp's trap slot. -/
def trapSlot (s : State) (w : Warp) : Nat := (s.ctxFor w.key.core w.ctx).csr64 0x1E + (w.key.core * 64 + winOf w.key) * 0x2000

/-- A lane is left out of the handler path: it is lent, or recruits for participants still in the body (R322). -/
def leftOut (s : State) (l : Lane) : Bool :=
  match l.helper with
  | none => false
  | some h =>
    h.lent.isSome || (match s.groupAt? h.grp with | some g => !g.members.isEmpty | none => false)

/-- The STATE of a lane at entry (R322). -/
def laneState (s : State) (w : Warp) (r : TrapReq) (l : Lane) : Nat :=
  if leftOut s l then 4
  else if l.exited then 3
  else if r.tlanes.getLsbD l.id then 5
  else match w.pathOf? l.id with
    | none => 3
    | some p =>
      if p.fp then 2
      else if s.accesses.any fun a => a.kind == .mwait && a.w == w.key && a.lane == l.id && a.st != .performed then 6
      else if l.atBarrier s.clk || l.syncing then 1
      else 0

/-- The PC, RUN and age of a lane as its path stands. -/
def laneWhere (w : Warp) (l : Lane) : Nat × Nat × Nat :=
  match w.pathOf? l.id with
  | some p => (p.pc.toNat, p.run.toNat, p.age)
  | none => (l.pc.toNat, l.run.toNat, 0)

/-- A lane record as four 64-bit words from the lowest (R322). -/
def laneRecord (s : State) (w : Warp) (r : TrapReq) (l : Lane) : List Nat :=
  let (pc, run, age) := laneWhere w l
  let mid := l.flags * 2 ^ 16 + age % 256 * 2 ^ 8 + laneState s w r l * 2 ^ 5 + l.preds / 4
  [l.sdepth % 2 ^ 32 + (if l.joinp then 2 ^ 32 else 0) + l.preds % 4 * 2 ^ 62, mid, run, pc]

/-- The stores that write the frame: address, bytes, value (R321). -/
def frameStores (s : State) (w : Warp) (r : TrapReq) : List (Nat × Nat × Nat) :=
  let a := trapSlot s w
  let serial := if w.serial then 2 ^ 15 else 0
  [(a, 8, 0), (a + 8, 8, 0), (a + 16, 8, 0), (a + 24, 8, 0),
   (a + 32, 8, serial + r.nrec % 256 * 2 ^ 16 + r.cause % 256 * 2 ^ 24 + r.sub % 256 * 2 ^ 32 + r.ecls % 16 * 2 ^ 44 +
      r.eseq % 2 ^ 16 * 2 ^ 48),
   (a + 40, 8, r.fbfirst.toNat + r.tlanes.toNat * 2 ^ 32),
   (a + 48, 8, r.epc.toNat), (a + 56, 8, r.tpc.toNat)] ++
  (w.lanes.flatMap fun l => (laneRecord s w r l).zipIdx.map fun v => (a + 0x40 + 32 * l.id + 8 * v.2, 8, v.1)) ++
  (w.lanes.flatMap fun l => (List.range 8).map fun i =>
    (a + 0x440 + (32 * i + l.id) * 4, 4,
      (if l.tset.getLsbD i then smGet 0#32 l.t i else Config.freeWord s.free (32 * i + l.id)).toNat))

/-! ### Entering a trap (R319, R320) -/

/-- A STATE whose lane is on the handler path (R320). -/
def onHandler (st : Nat) : Bool := [0, 1, 2, 5, 6].contains st

/-- Every store of some lanes of a warp is performed (R107, R175, R506). -/
def storesDone (s : State) (k : WarpKey) (m : Mask) : Bool :=
  s.accesses.all fun a =>
    !(a.w == k && m.getLsbD a.lane && a.kind != .ld && a.kind != .mwait && a.st != .performed)

/-- The stores for which an ICINV among some effects waits are performed (R107). -/
def icinvReady (s : State) (k : WarpKey) (es : List RunEff) : Bool :=
  es.all fun e => match e with | .icinv m => storesDone s k m | _ => true

/-- A warp may enter the trap that it has to enter: every path stands at a run boundary, F11 reads zero in every lane, and every
long-latency result of the handler's lanes is in its register, MWAIT excepted (R319 steps 2 and 3). -/
def entryReady (s : State) (w : Warp) : Bool :=
  w.paths.all Path.atBoundary &&
  (match w.trapReq with | some r => icinvReady s w.key r.effs | none => false) &&
  (w.lanes.all fun l => l.flag 11 == 0 && (leftOut s l || l.exited ||
    ((s.maths.all fun m => !(m.w == w.key && m.lane == l.id)) &&
     (s.accesses.all fun a => !(a.w == w.key && a.lane == l.id && a.flag.isSome) || (a.kind == .mwait && a.st != .performed)))))

/-- While a warp waits for the results of its handler's lanes, those of the special functions land first (R319 step 3) (DEDUCED, log 88). -/
def specialsFirst (s : State) (k : WarpKey) (l : Nat) : Bool :=
  let w := s.warpAt k
  w.trapReq.isSome && w.paths.all Path.atBoundary && !leftOut s (w.laneAt l) &&
    s.maths.any fun m => m.w == k && m.queued && !leftOut s (w.laneAt m.lane)

/-- A lane whose warp waits at trap entry for the long-latency results of its handler's lanes: its fixed-latency results are written before
them (R319 step 3). -/
def fixedFirst (w : Warp) (l : Lane) : Lane := if w.trapReq.isSome && w.paths.all Path.atBoundary then l.commitAll else l

/-- An ENGINE trap at entry clears the fault bit that it reports in the trapped lanes that have it, and writes all ones (R327). -/
def clearObserved (r : TrapReq) (w : Warp) : Warp :=
  if r.cause == cEngine then
    w.mapLanes r.tlanes fun l =>
      if (smFind l.faults r.ereg).isSome then { l with faults := smErase l.faults r.ereg, g := smSet l.g r.ereg 0xFFFFFFFF#32 } else l
  else w

/-- A YIELD among some effects (R76). -/
def yields (es : List RunEff) : Bool := es.any fun e => match e with | .yield => true | _ => false

/-- The warp after the frame has been written: trap mode, one handler path at TRAPBASE (R319 step 5, R320); a YIELD of the interrupted
run acts on it (R90, R514). -/
def startHandler (s : State) (r : TrapReq) (w : Warp) : Warp :=
  let w := clearObserved r w
  let hm := maskOf ((w.lanes.filter fun l => onHandler (laneState s w r l)).map (·.id))
  let es := w.lanes.map fun l => (l.id, (laneState s w r l, l.sdepth))
  let at_ := w.lanes.map fun l => (l.id, (BitVec.ofNat 64 (laneWhere w l).1, BitVec.ofNat 64 (laneWhere w l).2.1))
  let base := BitVec.ofNat 64 ((s.ctxFor w.key.core w.ctx).csr64 0x1C)
  let w := w.mapLanes hm fun l =>
    { l with
      heldWaits := l.waits
      waits := []
      heldSync := l.syncing
      heldWaitF := if (smGet (0, 0) at_ l.id).2 == 0 then l.waitF else 0
      syncing := false
      hstk := []
      hsdepth := 0
      hspilled := 0
      waitF := 0
      pc := base
      run := 0 }
  let rest := (w.dropLanes hm).paths
  { w with
    serial := false
    trapMode := true
    trapReq := none
    entryState := es
    entryAt := at_
    trapId := s.nextId
    paths :=
      { newPath base hm with
        handler := true
        endedAt := s.clk
        lastIssue := s.clk
        yieldAt := if yields r.effs then some s.clk else none } :: rest }

/-- Entering the trap that a warp has to enter (R319 steps 3 to 5, R90): the one operation that takes an exception. The frame's
stores happen before the handler's first word (R321): no copy in the core's L1 outlives them. -/
def enterTrap (s : State) (k : WarpKey) : State :=
  let w := s.warpAt k
  match w.trapReq with
  | none => s
  | some r =>
    let s := s.modWarp k fun w => w.eachLane Lane.commitAll
    let s := (oneCsrw (BitVec.allOnes 32) r.effs).foldl (fun s e => settleEff s k e) s
    let w := s.warpAt k
    match partStores s w.ctx (frameStores s w r) with
    | .error cause =>
      contextStop (noteErrors (s.modWarp k fun w => { w with trapReq := none }) w.ctx ((frameStores s w r).map (·.1)))
        w.ctx cause 0x3F k.core (winOf k)
    | .ok s' => ((dropL1 s' k.core).modWarp k (startHandler s r)).useFree

/-! ### Return from a trap (R324, R506) -/

/-- What TRAPRET reads of one lane's record. -/
structure FrameLane where
  lane : Nat
  pc : W64
  run : W64
  age : Nat
  state : Nat
  preds : Nat
  sdepth : Nat
  t : List W32
  deriving DecidableEq, Repr

/-- A lane's record and temporaries read back from the slot. -/
def readFrameLane (s : State) (w : Warp) (l : Nat) : Except Nat FrameLane := do
  let a := trapSlot s w + 0x40 + 32 * l
  let lo ← partLoad s w.ctx a 8
  let mid ← partLoad s w.ctx (a + 8) 8
  let run ← partLoad s w.ctx (a + 16) 8
  let pc ← partLoad s w.ctx (a + 24) 8
  let ts ← (List.range 8).mapM fun i => partLoad s w.ctx (trapSlot s w + 0x440 + (32 * i + l) * 4) 4
  pure
    { lane := l
      pc := BitVec.ofNat 64 (pc / 8 * 8)
      run := BitVec.ofNat 64 (run / 8 * 8)
      age := bitsN mid 15 8
      state := bitsN mid 7 5
      preds := bitsN mid 4 0 * 4 + lo / 2 ^ 62
      sdepth := lo % 2 ^ 32
      t := ts.map fun v => BitVec.ofNat 32 v }

/-- A record's STATE is one that TRAPRET accepts from the STATE at entry (R324, R506). -/
def stateOk (old new : Nat) : Bool :=
  new != 7 && (old == new || !(new == 1 || new == 6 || new == 4 || old == 4))

/-- The lane has been moved by the handler to a run boundary elsewhere (R90): its kept waits are dropped. -/
def movedOut (from_ : W64 × W64) (f : FrameLane) : Bool := f.run == 0 && (f.pc, f.run) != from_

/-- A lane with its record restored (R324): it waits for the flags of TRAPRET's trailer, and at a run boundary for those that it waited for
at entry (R79) (DEDUCED, log 48). -/
def restoreLane (old : Nat × Nat) (from_ : W64 × W64) (f : FrameLane) (l : Lane) : Lane :=
  let inside := f.run != 0
  let parked := f.state == 1 || f.state == 6
  { l with
    pc := f.pc
    run := f.run
    p := BitVec.ofNat 8 (f.preds % 128 + l.p.toNat / 128 * 128)
    t := if inside then f.t.zipIdx.map fun v => (v.2, v.1) else l.t
    tset := if inside then 0xFF#8 else 0
    sdepth := f.sdepth
    stk := if f.sdepth == old.2 then l.stk
      else (List.range (f.sdepth / 16)).map fun i => ⟨16 * i, true, 0, true, true⟩
    exited := f.state == 3
    waits := if parked then l.heldWaits else []
    syncing := parked && l.heldSync
    heldWaits := []
    heldSync := false
    heldWaitF := 0
    kept := if movedOut from_ f then [] else l.kept
    hstk := []
    hsdepth := 0
    hspilled := 0
    waitF := l.waitF ||| l.heldWaitF }

/-- The parked MWAITs of a lane at TRAPRET: the value with which one woke is written, or it stays armed; a lane that leaves its wait has
all of them cancelled (R324). -/
def settleMwait (s : State) (k : WarpKey) (trapId : Nat) (l old new : Nat) : State :=
  if old != 6 then s else
  (s.accesses.filter fun a => a.kind == .mwait && a.w == k && a.lane == l && a.id < trapId).foldl (fun s a =>
    let dec (x : Lane) : Lane := match a.flag with | some i => x.decFlag i | none => x
    if new != 6 then
      { s with accesses := s.accesses.filter fun b => b.id != a.id }.modLane k l dec
    else if a.st == .performed then
      { s with accesses := s.accesses.filter fun b => b.id != a.id }.modLane k l fun x =>
        dec (if a.bytes == 8 then
            (x.write a.dst (a.result.setWidth 32)).write (a.dst + 1) ((a.result >>> 32).setWidth 32)
          else x.write a.dst (a.result.setWidth 32))
    else s) s

/-- The kept waits of a lane that resumes past its run, which has no word left, act at TRAPRET (R90). -/
def spendKept (s : State) (k : WarpKey) (l : Nat) : State :=
  let es := (s.laneAt k l).kept
  es.foldl (fun s e => applyWait s k (maskOf [l]) e) (s.modLane k l fun x => { x with kept := [] })

/-- What the reads of a lane's record and temporaries leave (R278, R287, R321). -/
def touchFrameLane (s : State) (w : Warp) (l : Nat) : State :=
  (List.range 8).foldl (fun s i => partTouch s w.ctx (trapSlot s w + 0x440 + (32 * i + l) * 4) 4)
    ((List.range 4).foldl (fun s i => partTouch s w.ctx (trapSlot s w + 0x40 + 32 * l + 8 * i) 8) s)

/-- The return from a trap at the run end of TRAPRET: every lane whose STATE is not 4 has its record restored, trap mode ends
and one path forms per distinct (PC, RUN, FP); a record that R506 refuses is a double trap. -/
def returnFromTrap (s : State) (k : WarpKey) : State :=
  let w := s.warpAt k
  let ls := w.lanes.filter fun l => (smGet (3, 0) w.entryState l.id).1 != 4
  match w.lanes.mapM fun l => readFrameLane s w l.id with
  | .error cause => contextStop (noteErrors s w.ctx [trapSlot s w]) w.ctx cause 0x3F k.core (winOf k)
  | .ok fs =>
    if fs.all fun f => stateOk (smGet (3, 0) w.entryState f.lane).1 f.state then
      let mine := fs.filter fun f => ls.any fun l => l.id == f.lane
      let s := w.lanes.foldl (fun s l => touchFrameLane s w l.id) s
      let s := mine.foldl (fun s f => settleMwait s k w.trapId f.lane (smGet (3, 0) w.entryState f.lane).1 f.state) s
      let last (f : FrameLane) : Nat := ((w.pathOf? f.lane).map (·.lastIssue)).getD 0
      let s := s.modWarp k fun w =>
        let w := w.eachLane fun l =>
          match mine.find? fun f => f.lane == l.id with
          | some f => restoreLane (smGet (3, 0) w.entryState f.lane) (smGet (0, 0) w.entryAt f.lane) f l
          | none => l
        let live := mine.filter fun f => f.state != 3
        let m := maskOf (mine.map (·.lane))
        let keys := distinct (live.map fun f => (f.pc, f.run, f.state == 2))
        let ps := keys.map fun key =>
          let own := live.filter fun f => (f.pc, f.run, f.state == 2) == key
          { newPath key.1 (maskOf (own.map (·.lane))) with
            run := key.2.1
            fp := key.2.2
            age := maxN (own.map (·.age))
            endedAt := s.clk
            lastIssue := if key.2.1 == 0 then maxN (own.map last) else 0 }
        settlePaths { w.dropLanes m with
          trapMode := false
          entryState := []
          entryAt := []
          trapReq := w.deferred.head?
          deferred := w.deferred.drop 1
          paths := (w.dropLanes m).paths ++ ps }
      (mine.filter fun f => f.state != 3 && f.run == 0).foldl (fun s f => spendKept s k f.lane) s
    else contextStop s w.ctx cIllop 0x3F k.core (winOf k)

end Sys2Proof.Machine
end

