-- ==== Sys2Proof/Machine/Operands.lean ====
section
/-!
DEFINITION. The word that issues next and its path, every operand form (R64, R70, R71, R82, R295), the checks that precede a
word's effect (R13, R88, R89), how a word's results leave it (R78, R82), and the end of a word's issue.
-/

namespace Sys2Proof.Machine

/-! ### The issuing word -/

/-- The word that issues: the timestamp, its warp, path, run, address, and the lanes of the path. -/
structure Cur where
  ts : Nat
  key : WarpKey
  lane0 : Nat
  w : Warp
  p : Path
  r : InRun
  pc : W64
  lanes : List Lane
  deriving DecidableEq, Repr

/-- The address of a word of a run. -/
def InRun.addr (r : InRun) (i : Nat) : W64 := r.base + BitVec.ofNat 64 (8 * i)

/-- The word whose turn it is: the head of the issue queue (R18, R23). -/
def cur? (s : State) : Option Cur :=
  match s.issueQ with
  | [] => none
  | (k, l) :: _ =>
    match s.warpAt? k with
    | none => none
    | some w =>
      match w.pathOf? l with
      | none => none
      | some p =>
        match p.inRun with
        | none => none
        | some r => some ⟨s.ts, k, l, w, p, r, r.addr r.idx, w.lanesIn p.mask⟩

/-- Where a lane resumes at the word: PC and RUN (R323). -/
def resumeAt (c : Cur) : W64 × W64 := (c.pc, if c.r.idx == 0 then 0 else c.r.base)

/-- Where a lane resumes at the word after: PC and RUN (R317, R323). -/
def resumeNext (c : Cur) : W64 × W64 :=
  if c.r.idx + 1 < c.r.words.length then (c.pc + 8, c.r.base) else (c.r.addr (c.r.words.length + 1), 0)

/-! ### Operands (R64, R70) -/

/-- A register as the lane holds it, by operand code; a temporary that its run has not written is unspecified (R73). -/
def Lane.held (free : Nat) (l : Lane) (code : Nat) : W32 :=
  if code < 0x80 then smGet 0#32 l.g code
  else if code < 0x88 then
    if l.tset.getLsbD (code - 0x80) then smGet 0#32 l.t (code - 0x80) else Config.freeWord free (code + 256 * l.id)
  else if 0x90 ≤ code && code < 0x98 then
    (if code == 0x97 || l.p.getLsbD (code - 0x90) then 1#32 else 0#32)
  else if 0x98 ≤ code && code < 0xA0 then smGet 0#32 l.y (code - 0x98)
  else 0#32

/-- A register as a word that issues now reads it: a result still in flight is seen or not, unspecified (R82) (DEDUCED, log 8). -/
def Lane.sees (clk free : Nat) (l : Lane) (code : Nat) : W32 :=
  (l.inflight.filter fun f => f.code == code).foldl
    (fun v f => if f.due ≤ clk || Config.freeBit free (code + 256 * l.id + 8192 * f.issued) then f.val else v)
    (l.held free code)

/-- The lane whose G registers a lane reads: its own, or its recruiter's in helper mode (R295). -/
def gLane (s : State) (l : Lane) : Lane :=
  match l.helper with
  | none => l
  | some h =>
    match h.lent with
    | none => l
    | some _ =>
      match s.groupAt? h.grp with
      | none => l
      | some g => s.laneAt g.w g.lane

/-- HIDX of a lane (R70, R295). -/
def Lane.hidx (l : Lane) : W32 :=
  match l.helper with
  | some h => if h.inBody then h.hidx else 0#32
  | none => 0#32

/-- A 32-bit source, or a predicate as 0 or 1 (R70); P7 reads true whatever a word has written to it. -/
def rd (s : State) (l : Lane) (c : Code) : W32 :=
  let n := c.toNat
  if n < 0x80 then (gLane s l).sees s.clk s.free n
  else if n == 0x88 then 0#32
  else if n == 0x97 then 1#32
  else if n == 0x89 then BitVec.ofNat 32 l.id
  else if n == 0x8A then 32#32
  else if n == 0x8B then l.hidx
  else l.sees s.clk s.free n

/-- The register `i` places after a code (DEDUCED, log 9). -/
def rdAt (s : State) (l : Lane) (c : Code) (i : Nat) : W32 := rd s l (c + BitVec.ofNat 8 i)

/-- A 64-bit source: a pair of G registers, or ZERO (R7, R71). -/
def rd64 (s : State) (l : Lane) (c : Code) : W64 := if c == 0x88#8 then 0#64 else rdAt s l c 1 ++ rd s l c

/-- A predicate source. -/
def rdP (s : State) (l : Lane) (c : Code) : Bool := (rd s l c).getLsbD 0

/-- The guard of a word in a lane (R64). -/
def guard (s : State) (h : Hdr) (l : Lane) : Bool := rdP s l (0x90#8 + h.idx.setWidth 8) != h.neg

/-- The lanes in which a word executes (R64). -/
def active (s : State) (c : Cur) (h : Hdr) : List Lane := c.lanes.filter fun l => guard s h l

/-- The mask of the lanes in which a word executes. -/
def activeMask (s : State) (c : Cur) (h : Hdr) : Mask := maskOf ((active s c h).map (·.id))

/-- FPCTL of the lowest lane in which a word executes (R98, R131). -/
def pathFpctl (s : State) (c : Cur) (h : Hdr) : W32 := ((active s c h).head?.map (·.fpctl)).getD 8#32

/-! ### Checks (R13, R88, R89, R295) -/

/-- The lanes of the path that run a helper body. -/
def bodyOf (c : Cur) : List Lane := c.lanes.filter fun l => match l.helper with | some h => h.inBody | none => false

/-- The word is one that helper mode refuses with ILLOP (R295, R417). -/
def helperIllop : Instr → Bool
  | .exit _ => true
  | .call _ _ => true
  | .callx _ _ => true
  | .ret _ => true
  | .recruit _ _ _ _ => true
  | .bar _ _ _ => true
  | .bara _ _ _ => true
  | .barw _ _ _ => true
  | .wsync _ _ => true
  | .hjoin _ _ _ _ => true
  | .trapret _ => true
  | _ => false

/-- The word is one that the handler path refuses with ILLOP (R380, R404, R417, R458). -/
def handlerIllop : Instr → Bool
  | .exit _ => true
  | .recruit _ _ _ _ => true
  | .bar _ _ _ => true
  | .bara _ _ _ => true
  | .barw _ _ _ => true
  | .hjoin _ _ _ _ => true
  | _ => false

/-- The word has no place outside trap mode, helper mode or a charged join (R324, R417), or names an unassigned CSR (R93). -/
def placeIllop (c : Cur) : Instr → Bool
  | .csrr _ _ n => (csrInfo n.toNat).isNone
  | .csrw _ _ n => (csrInfo n.toNat).isNone
  | .trapret _ => !c.p.handler
  | .hrelease _ => c.lanes.any fun l => match l.helper with | some h => !h.inBody | none => true
  | .hjoin _ _ _ _ => c.lanes.any fun l => l.helper.isNone && !l.joinp
  | _ => false

/-- Some register that the word names lies at or above NREG (R13). -/
def outOfRange (c : Cur) (i : Instr) : Bool :=
  i.groups.any fun g => g.1.toNat < 0x80 && c.w.nreg < g.1.toNat + g.2

/-- The first check that the word fails, with the lanes it concerns (R89). -/
def wordCheck (c : Cur) (i : Instr) : Option (Nat × Mask) :=
  let body := maskOf ((bodyOf c).map (·.id))
  if !i.legal then some (cIllop, c.p.mask)
  else if c.p.handler && handlerIllop i then some (cIllop, c.p.mask)
  else if body != 0 && helperIllop i then some (cIllop, body)
  else if placeIllop c i then some (cIllop, c.p.mask)
  else if !i.classes then some (cIllopnd, c.p.mask)
  else if body != 0 && (match i.dest with | some d => d.toNat < 0x80 | none => false) then some (cIllopnd, body)
  else if outOfRange c i then some (cRange, c.p.mask)
  else none

/-! ### The end of a word's issue -/

/-- A path whose last word has issued: the datapath is free and the run end waits (R19). -/
def endRun (clk : Nat) (p : Path) (r : InRun) : Path :=
  { p with
    lastIssue := clk
    endedAt := clk
    inRun := none
    ending := some ⟨r.base, r.first, r.dp, r.slots, r.addr (r.words.length + 1), trailerWait r.trailer, r.effs, r.transfer⟩ }

/-- The run after one more word has issued; a FENCE that stalls holds the end of its run (R18, R19, R180). -/
def stepRun (clk : Nat) (p : Path) : Path :=
  match p.inRun with
  | none => p
  | some r =>
    if r.idx + 1 < r.words.length || r.fence.isSome then
      { p with lastIssue := clk, inRun := some { r with idx := r.idx + 1 } }
    else endRun clk p r

/-- The word has issued: the next one of its run follows, and free values move on. -/
def advance (s : State) (c : Cur) : State :=
  let s := s.modWarp c.key fun w =>
    (w.modPath c.lane0 (stepRun s.clk)).mapLanes c.p.mask fun l =>
      if l.noMatch == some c.pc then { l with noMatch := none } else l
  { s with issueQ := s.issueQ.drop 1, free := s.free + 1 }

/-- The word leaves the issue queue without having issued to its end: it trapped. -/
def popIssue (s : State) : State := { s with issueQ := s.issueQ.drop 1, free := s.free + 1 }

/-- A raise at the issuing word: every lane of the path resumes at the word. -/
def raiseHere (c : Cur) (cause : Nat) (tl : Mask) (faults : List LaneFault) : Raise where
  key := c.key
  ts := c.ts
  cause := cause
  sub := 0
  tpc := c.pc
  epc := 0
  eseq := 0
  ecls := 0
  ereg := 0
  mask := c.p.mask
  tl := tl
  faults := faults
  resume := c.lanes.map fun l => (l.id, resumeAt c)
  effs := c.r.effs
  handler := c.p.handler

/-- A precise cause at the word, not raised per lane: no lane takes its effect (R89). -/
def trapWord (s : State) (c : Cur) (cause : Nat) (tl : Mask) : State := popIssue (raiseWord s (raiseHere c cause tl []))

/-- A word's execution: the checks of R89, then its effect. With no word to issue nothing happens. -/
def runWord (i : Instr) (s : State) (k : State → Cur → State) : State :=
  match cur? s with
  | none => s
  | some c =>
    match wordCheck c i with
    | some (cause, tl) => trapWord s c cause tl
    | none => k s c

/-! ### Results -/

/-- Fixed-latency results enter flight: lane, code, value (R82). -/
def putFix (s : State) (c : Cur) (lat : Nat) (vals : List (Nat × Nat × W32)) : State :=
  s.modWarp c.key fun w => w.eachLane fun l =>
    (vals.filter fun v => v.1 == l.id).foldl (fun l v => l.launchFix ⟨v.2.1, v.2.2, s.clk, s.clk + lat⟩) l

/-- A word whose every executing lane writes the registers that `f` gives, code and value, after a fixed latency. -/
def fixWord (i : Instr) (h : Hdr) (lat : Nat) (f : State → Lane → List (Nat × W32)) (s : State) : State :=
  runWord i s fun s c =>
    advance (putFix s c lat ((active s c h).flatMap fun l => (f s l).map fun v => (l.id, v))) c

/-- One 32-bit result. -/
def one (d : Code) (v : W32) : List (Nat × W32) := [(d.toNat, v)]
/-- One predicate result. -/
def oneP (d : Code) (b : Bool) : List (Nat × W32) := [(d.toNat, if b then 1#32 else 0#32)]
/-- A result in a pair of registers. -/
def pair (d : Code) (v : W64) : List (Nat × W32) := [(d.toNat, v.setWidth 32), (d.toNat + 1, (v >>> 32).setWidth 32)]

/-- The flag that the issuing word is bound to (R77). -/
def curFlag (c : Cur) : Option Nat := boundFlag c.r.words c.r.trailer c.r.idx

/-- The flag of the issuing word counts up in lanes (R78). -/
def bindFlags (s : State) (c : Cur) (ls : List Lane) : State :=
  match curFlag c with
  | none => s
  | some f => s.modWarp c.key fun w => w.mapLanes (maskOf (ls.map (·.id))) fun l => l.incFlag f

/-- Arithmetic of long latency: in each executing lane the result waits to be written, bound to the word's flag (R77) (DEDUCED, log 18).
`queued` tells a special function. -/
def mathWord (i : Instr) (h : Hdr) (d : Code) (queued : Bool) (f : State → Lane → W32) (s : State) : State :=
  runWord i s fun s c =>
    let ls := active s c h
    let ms := ls.zipIdx.map fun v => (⟨s.nextId + v.2, c.key, v.1.id, d.toNat, f s v.1, (curFlag c).getD 0, queued⟩ : MathOp)
    let s := bindFlags s c ls
    advance { s with maths := s.maths ++ ms, nextId := s.nextId + ls.length } c

/-- The run of the issuing path changed. -/
def modRun (s : State) (c : Cur) (f : InRun → InRun) : State :=
  s.modPath c.key c.lane0 fun p => { p with inRun := p.inRun.map f }

/-- An effect at the run's end is noted (R76). -/
def noteEff (s : State) (c : Cur) (e : RunEff) : State := modRun s c fun r => { r with effs := r.effs ++ [e] }

/-- The run's control transfer is noted (R75). -/
def noteTransfer (s : State) (c : Cur) (t : Transfer) : State := modRun s c fun r => { r with transfer := t }

end Sys2Proof.Machine
end

