-- ==== Sys2Proof/Machine/Flags.lean ====
section
/-!
DEFINITION. Conditions and predicates: the integer comparisons of ICMP (R424), clamping to an integer type (R421, R422), and
the predicate operations (R452). The part keeps no arithmetic flags (R114, R124); predicates and STICKY bits stand in
their place.
-/

namespace Sys2Proof.Machine

/-- The truth of "A cc B" for a condition code (R424). -/
def icmpTrue (cc : BitVec 4) (a b : W32) : Bool :=
  match cc.toNat with
  | 0 => a == b
  | 1 => a != b
  | 2 => a.toInt < b.toInt
  | 3 => a.toInt ≤ b.toInt
  | 4 => b.toInt < a.toInt
  | 5 => b.toInt ≤ a.toInt
  | 6 => a.toNat < b.toNat
  | 7 => a.toNat ≤ b.toNat
  | 8 => b.toNat < a.toNat
  | 9 => b.toNat ≤ a.toNat
  | _ => false

/-- An exact number clamped to a range (R422). -/
def clampInt (lo hi r : Int) : Int := if r < lo then lo else if hi < r then hi else r

/-- An exact operation under SAT: wrap, clamp as signed, clamp as natural (R421, R422). -/
def satOp (sat : BitVec 2) (f : Int → Int → Int) (a b : W32) : W32 :=
  match sat.toNat with
  | 1 => BitVec.ofInt 32 (clampInt (-2147483648) 2147483647 (f a.toInt b.toInt))
  | 2 => BitVec.ofInt 32 (clampInt 0 4294967295 (f a.toNat b.toNat))
  | _ => BitVec.ofInt 32 (f a.toInt b.toInt)

/-- A predicate operand with its negation bit (R451). -/
def rdPN (s : State) (l : Lane) (c : Code) (neg : Bool) : Bool := rdP s l c != neg

end Sys2Proof.Machine
end

