-- ==== Sys2Proof/Machine/Bitwise.lean ====
section
/-!
DEFINITION. Bit operations, shifts, moves, addresses, selection and predicate logic (R374, R382, R387, R439, R444, R445, R449
to R453, R466, R467, R478, R482, R483, R513).
-/

namespace Sys2Proof.Machine

/-- AND (R374). -/
def execAnd (h : Hdr) (d a b : Code) (s : State) : Host.Outcome State Fault Refusal :=
  .next (fixWord (.and h d a b) h 2 (fun s l => one d (rd s l a &&& rd s l b)) s)

/-- AND with an immediate (R374). -/
def execAndImm (h : Hdr) (d a : Code) (imm : W32) (s : State) : Host.Outcome State Fault Refusal :=
  .next (fixWord (.andImm h d a imm) h 2 (fun s l => one d (rd s l a &&& imm)) s)

/-- OR (R450). -/
def execOr (h : Hdr) (d a b : Code) (s : State) : Host.Outcome State Fault Refusal :=
  .next (fixWord (.or h d a b) h 2 (fun s l => one d (rd s l a ||| rd s l b)) s)

/-- OR with an immediate (R450). -/
def execOrImm (h : Hdr) (d a : Code) (imm : W32) (s : State) : Host.Outcome State Fault Refusal :=
  .next (fixWord (.orImm h d a imm) h 2 (fun s l => one d (rd s l a ||| imm)) s)

/-- XOR (R513). -/
def execXor (h : Hdr) (d a b : Code) (s : State) : Host.Outcome State Fault Refusal :=
  .next (fixWord (.xor h d a b) h 2 (fun s l => one d (rd s l a ^^^ rd s l b)) s)

/-- XOR with an immediate (R513). -/
def execXorImm (h : Hdr) (d a : Code) (imm : W32) (s : State) : Host.Outcome State Fault Refusal :=
  .next (fixWord (.xorImm h d a imm) h 2 (fun s l => one d (rd s l a ^^^ imm)) s)

/-- NOT (R449). -/
def execNot (h : Hdr) (d a : Code) (s : State) : Host.Outcome State Fault Refusal :=
  .next (fixWord (.not h d a) h 2 (fun s l => one d (~~~ rd s l a)) s)

/-- SHL (R483): a shift of 32 or more gives 0. -/
def execShl (h : Hdr) (d a b : Code) (s : State) : Host.Outcome State Fault Refusal :=
  .next (fixWord (.shl h d a b) h 2 (fun s l => one d (rd s l a <<< (rd s l b).toNat)) s)

/-- SHL with an immediate (R483). -/
def execShlImm (h : Hdr) (d a : Code) (imm : W32) (s : State) : Host.Outcome State Fault Refusal :=
  .next (fixWord (.shlImm h d a imm) h 2 (fun s l => one d (rd s l a <<< imm.toNat)) s)

/-- SHR (R483): logical, a shift of 32 or more gives 0. -/
def execShr (h : Hdr) (d a b : Code) (s : State) : Host.Outcome State Fault Refusal :=
  .next (fixWord (.shr h d a b) h 2 (fun s l => one d (rd s l a >>> (rd s l b).toNat)) s)

/-- SHR with an immediate (R483). -/
def execShrImm (h : Hdr) (d a : Code) (imm : W32) (s : State) : Host.Outcome State Fault Refusal :=
  .next (fixWord (.shrImm h d a imm) h 2 (fun s l => one d (rd s l a >>> imm.toNat)) s)

/-- SAR (R467): arithmetic, the amount limited to 31. -/
def execSar (h : Hdr) (d a b : Code) (s : State) : Host.Outcome State Fault Refusal :=
  .next (fixWord (.sar h d a b) h 2 (fun s l => one d ((rd s l a).sshiftRight (min (rd s l b).toNat 31))) s)

/-- SAR with an immediate (R467). -/
def execSarImm (h : Hdr) (d a : Code) (imm : W32) (s : State) : Host.Outcome State Fault Refusal :=
  .next (fixWord (.sarImm h d a imm) h 2 (fun s l => one d ((rd s l a).sshiftRight (min imm.toNat 31))) s)

/-- A rotation to the left or the right by an amount modulo 32 (R467). -/
def rotate (right : Bool) (a n : W32) : W32 :=
  let k := n.toNat % 32
  let k := if right then (32 - k) % 32 else k
  (a <<< k) ||| (a >>> ((32 - k) % 32))

/-- ROT (R467). -/
def execRot (h : Hdr) (d a b : Code) (right : Bool) (s : State) : Host.Outcome State Fault Refusal :=
  .next (fixWord (.rot h d a b right) h 2 (fun s l => one d (rotate right (rd s l a) (rd s l b))) s)

/-- ROT with an immediate: to the left (R466). -/
def execRotImm (h : Hdr) (d a : Code) (imm : W32) (s : State) : Host.Outcome State Fault Refusal :=
  .next (fixWord (.rotImm h d a imm) h 2 (fun s l => one d (rotate false (rd s l a) imm)) s)

/-- Zeros above the highest 1 (R387). -/
def countLeading (v : W32) : Nat := 32 - ((List.range 32).filter fun i => v.toNat / 2 ^ i != 0).length

/-- CLZ (R387). -/
def execClz (h : Hdr) (d a : Code) (s : State) : Host.Outcome State Fault Refusal :=
  .next (fixWord (.clz h d a) h 2 (fun s l => one d (BitVec.ofNat 32 (countLeading (rd s l a)))) s)

/-- POPC (R453). -/
def execPopc (h : Hdr) (d a : Code) (s : State) : Host.Outcome State Fault Refusal :=
  .next (fixWord (.popc h d a) h 2 (fun s l => one d (BitVec.ofNat 32 (popMask (rd s l a)))) s)

/-- The bits in reverse order (R387). -/
def reverseBits (v : W32) : W32 := maskOf ((lanesOf v).map fun i => 31 - i)

/-- BREV (R387). -/
def execBrev (h : Hdr) (d a : Code) (s : State) : Host.Outcome State Fault Refusal :=
  .next (fixWord (.brev h d a) h 2 (fun s l => one d (reverseBits (rd s l a))) s)

/-- Position of a field (R381). -/
def fieldPos (ctl : W32) : Nat := ctl.toNat % 32
/-- Length of a field, limited to the register (R381, R382). -/
def fieldLen (ctl : W32) : Nat := min (ctl.toNat / 256 % 64) (32 - fieldPos ctl)

/-- BFX of a value under a control word (R382). -/
def extractField (signed : Bool) (v ctl : W32) : W32 :=
  let len := fieldLen ctl
  let f := v.toNat / 2 ^ fieldPos ctl % 2 ^ len
  if len == 0 then 0#32
  else if signed && f / 2 ^ (len - 1) == 1 then BitVec.ofNat 32 (f + (2 ^ 32 - 2 ^ len))
  else BitVec.ofNat 32 f

/-- BFI of bits into a base under a control word (R382). -/
def insertField (base bits ctl : W32) : W32 :=
  let mask := BitVec.ofNat 32 ((2 ^ fieldLen ctl - 1) * 2 ^ fieldPos ctl)
  (base &&& ~~~mask) ||| ((bits <<< fieldPos ctl) &&& mask)

/-- BFX (R382). -/
def execBfx (h : Hdr) (d a b : Code) (signed : Bool) (s : State) : Host.Outcome State Fault Refusal :=
  .next (fixWord (.bfx h d a b signed) h 2 (fun s l => one d (extractField signed (rd s l a) (rd s l b))) s)

/-- BFI (R382). -/
def execBfi (h : Hdr) (d a b c : Code) (s : State) : Host.Outcome State Fault Refusal :=
  .next (fixWord (.bfi h d a b c) h 2 (fun s l => one d (insertField (rd s l a) (rd s l b) (rd s l c))) s)

/-- SEL (R478). -/
def execSel (h : Hdr) (d a b c : Code) (nc : Bool) (s : State) : Host.Outcome State Fault Refusal :=
  .next (fixWord (.sel h d a b c nc) h 2 (fun s l => one d (if rdPN s l c nc then rd s l a else rd s l b)) s)

/-- MOV of 32 bits, or of a pair under .b64 (R445). -/
def execMov (h : Hdr) (d a : Code) (w64 : Bool) (s : State) : Host.Outcome State Fault Refusal :=
  .next (fixWord (.mov h d a w64) h 2 (fun s l => if w64 then pair d (rd64 s l a) else one d (rd s l a)) s)

/-- MOVI (R445). -/
def execMovi (h : Hdr) (d : Code) (imm : W32) (s : State) : Host.Outcome State Fault Refusal :=
  .next (fixWord (.movi h d imm) h 2 (fun _ _ => one d imm) s)

/-- MOVHI: A in the low register, the immediate in the high one (R445). -/
def execMovhi (h : Hdr) (d a : Code) (imm : W32) (s : State) : Host.Outcome State Fault Refusal :=
  .next (fixWord (.movhi h d a imm) h 2 (fun s l => pair d (imm ++ rd s l a)) s)

/-- LEA: the word's own address or CBR, plus a signed offset (R439). -/
def execLea (h : Hdr) (d : Code) (cbr : Bool) (imm : W32) (s : State) : Host.Outcome State Fault Refusal :=
  .next (runWord (.lea h d cbr imm) s fun s c =>
    let base := if cbr then BitVec.ofNat 64 (s.ctxAt c.w.ctx).cbrBase else c.pc
    advance (putFix s c 2 ((active s c h).flatMap fun l => (pair d (base + imm.signExtend 64)).map fun v => (l.id, v))) c)

/-- PAND (R452). -/
def execPand (h : Hdr) (d a b : Code) (na nb : Bool) (s : State) : Host.Outcome State Fault Refusal :=
  .next (fixWord (.pand h d a b na nb) h 1 (fun s l => oneP d (rdPN s l a na && rdPN s l b nb)) s)

/-- POR (R452). -/
def execPor (h : Hdr) (d a b : Code) (na nb : Bool) (s : State) : Host.Outcome State Fault Refusal :=
  .next (fixWord (.por h d a b na nb) h 1 (fun s l => oneP d (rdPN s l a na || rdPN s l b nb)) s)

/-- PXOR (R452). -/
def execPxor (h : Hdr) (d a b : Code) (na nb : Bool) (s : State) : Host.Outcome State Fault Refusal :=
  .next (fixWord (.pxor h d a b na nb) h 1 (fun s l => oneP d (rdPN s l a na != rdPN s l b nb)) s)

/-- PNOT (R452). -/
def execPnot (h : Hdr) (d a : Code) (s : State) : Host.Outcome State Fault Refusal :=
  .next (fixWord (.pnot h d a) h 1 (fun s l => oneP d (!rdP s l a)) s)

end Sys2Proof.Machine
end

