-- ==== Sys2Proof/Machine/Debug.lean ====
section
/-!
DEFINITION. Halting, resuming and stepping of warps, and the halt of a breakpoint or a watchpoint hit (R340 to R348).
-/

namespace Sys2Proof.Machine

/-! ### Halting (R341, R342) -/

/-- A warp has a halt to come, unless it is halted or has one already. -/
def Warp.askHalt (reason : Nat) (w : Warp) : Warp :=
  if w.halt || w.haltReq.isSome then w else { w with haltReq := some reason }

/-- Every path of the warp stands at a run boundary: the halt is reached, every hold has ended, and every lane shows where its path stands. A
path that was stepping has ended its run or parked (R26, R341, R343). -/
def settleHalt (s : State) (w : Warp) : Warp :=
  match w.haltReq with
  | none => w
  | some r =>
    if w.paths.all fun p => p.atBoundary && !midRun s w p then
      let w := w.eachLane fun l =>
        let l := l.commitAll
        match w.pathOf? l.id with
        | some p => { l with pc := p.pc, run := p.run }
        | none => l
      { w with
        halt := true
        haltReq := none
        reason := r
        paths := w.paths.map fun p => { p with hold := none } }
    else w

/-- A halt of a warp with its reason; under DBGCTL.BHALT every other warp of its block halts with reason 3 (R341). -/
def requestHalt (s : State) (k : WarpKey) (reason : Nat) : State :=
  let w := s.warpAt k
  let s := keepFromMigration (s.modWarp k fun w => settleHalt s (w.askHalt reason)) w.blk
  if ((s.ctxAt w.ctx).csrOf 0x110).getLsbD 1 then
    { s with warps := mapIf (fun v => v.blk == w.blk && v.ctx == w.ctx && v.key != k) (fun v => settleHalt s (v.askHalt 3)) s.warps }
  else s

/-- The halt in place of a BKPT or WATCH trap: the lanes stand at the PC where R317 resumes them, in no run, so that RESUME
starts a run there (R342, R344). A warp that hits while it is stepped is halted already and takes the new reason (R341)
(DEDUCED, log 68). -/
def haltLanes (s : State) (c : Cur) (reason : Nat) (r : Raise) : State :=
  let s := (oneCsrw (BitVec.allOnes 32) (noIcinv r.effs)).foldl (fun s e => settleEff s c.key e) (deferIcinv s c.key c.p.mask r.effs)
  let r := { r with resume := r.resume.map fun x => (x.1, x.2.1, 0#64) }
  (requestHalt (stopLanes s r fun _ => false) c.key reason).modWarp c.key fun w => if w.halt then { w with reason := reason } else w

/-- DBGCTL.BKHALT of the warp's context (R346) (DEDUCED, log 68). -/
def bkHalt (s : State) (w : Warp) : Bool := ((s.ctxAt w.ctx).csrOf 0x110).getLsbD 0

/-! ### Resuming and stepping (R343, R344) -/

/-- The paths that one path becomes when its lanes' PCs have been changed: an unchanged part keeps its age (R344). -/
def reformPath (w : Warp) (p : Path) : List Path :=
  let ls := w.lanesIn p.mask
  let same := ls.filter fun l => l.pc == p.pc
  { p with mask := maskOf (same.map (·.id)) } ::
    (distinct ((ls.filter fun l => l.pc != p.pc).map (·.pc))).map fun pc =>
      { newPath pc (maskOf ((ls.filter fun l => l.pc == pc).map (·.id))) with
        handler := p.handler
        fp := p.fp
        endedAt := p.endedAt }

/-- One path per distinct lane PC (R344). -/
def reformPaths (w : Warp) : Warp := settlePaths { w with paths := w.paths.flatMap (reformPath w) }

/-- RESUME of a halted warp; the lanes that a fault has parked are eligible again (R326). -/
def resumeWarp (w : Warp) : Warp :=
  if w.halt then
    { reformPaths { w with paths := w.paths.map fun p => { p with fp := false } } with halt := false }
  else w

/-- A path that STEP may advance: one that is not parked. -/
def canStep (s : State) (w : Warp) (p : Path) : Bool := !p.fp && !parked s w p

/-- STEP of a halted warp: the path that a split entry holds may start one run, or in serial mode the first lane that may start in the
order of R28 (R343) (DEDUCED, log 78). -/
def stepPathOf (s : State) (i : Nat) (w : Warp) : Warp :=
  if w.halt then
    let w := reformPaths w
    if w.serial then { w with stepOne := true, paths := mapIf (canStep s w) (fun p => { p with stepping := true }) w.paths }
    else match w.paths[i]? with
      | none => w
      | some t => { w with paths := mapIf (fun p => p.mask == t.mask && canStep s w p) (fun p => { p with stepping := true }) w.paths }
  else w

/-- STEPALL of a halted warp: every path may start one run. -/
def stepAllOf (s : State) (w : Warp) : Warp :=
  if w.halt then
    let w := reformPaths w
    { w with stepOne := false, paths := mapIf (canStep s w) (fun p => { p with stepping := true }) w.paths }
  else w

/-- A write of the control word (R340): one with more than one command bit does nothing. -/
def writeControl (s : State) (k : WarpKey) (v : Nat) : State :=
  if !([0, 1, 2, 4, 8].contains (v % 16)) then s else
  let s := s.modWarp k fun w => { w with ctlPath := bitsN v 6 4 }
  match v % 16 with
  | 1 => requestHalt s k 0
  | 2 => s.modWarp k resumeWarp
  | 4 => s.modWarp k (stepPathOf s (bitsN v 6 4))
  | 8 => s.modWarp k (stepAllOf s)
  | _ => s

/-! ### Watchpoints (R346 to R348) -/

/-- First address of a watchpoint's range. -/
def watchBase (c : Ctx) (n : Nat) : Nat :=
  (c.csrOf (0x100 + 4 * n)).toNat / 16 * 16 + (c.csrOf (0x101 + 4 * n)).toNat % 2 ^ 25 * 2 ^ 32

/-- The bytes of a watchpoint's range that `n` bytes at an address cover with their mask bits set. -/
def watchBytes (c : Ctx) (wp va n : Nat) : List Nat :=
  (List.range 16).filter fun b =>
    (c.csrOf (0x102 + 4 * wp)).getLsbD b && va ≤ watchBase c wp + b && watchBase c wp + b < va + n

/-- The first watchpoint, enabled for a kind of write (16 core stores, 17 engine writes, 18 remote atomics), that matches, with
the first byte (R347). -/
def watchHit (c : Ctx) (kind va n : Nat) : Option (Nat × Nat) :=
  (List.range 4).findSome? fun wp =>
    if (c.csrOf (0x102 + 4 * wp)).getLsbD kind then ((watchBytes c wp va n).head?).map fun b => (wp, b) else none

/-- A core store that matches: WATCH at the word, or the halt in its place; no lane performs its access (R348). -/
def watchWord (s : State) (c : Cur) (hits : List (Nat × Nat × Nat)) : State :=
  let m := maskOf (hits.map (·.1))
  let s := match hits with
    | [] => s
    | (_, wp, b) :: _ => s.modCtx c.w.ctx fun x => x.setCsr 0x111 (BitVec.ofNat 32 (256 + b * 16 + wp))
  let s := s.modWarp c.key fun w => w.mapLanes m fun l => { l with noMatch := some c.pc }
  if bkHalt s c.w then popIssue (haltLanes s c 2 (raiseHere c cWatch m []))
  else trapWord s c cWatch m

end Sys2Proof.Machine
end

