-- ==== Sys2Proof/Machine/Access.lean ====
section
/-!
DEFINITION. The issue of a memory word: addresses, the checks of each lane, faults per lane, and the accesses that enter the
memory system (R133 to R149, R285, R325, R326, R347, R436, R437, R461, R493).
-/

namespace Sys2Proof.Machine

/-- Bytes of a TYPE of LD and ST (R66). -/
def tyBytes (ty : BitVec 4) : Nat :=
  match ty.toNat with
  | 0 => 1
  | 1 => 1
  | 2 => 2
  | 3 => 2
  | 4 => 4
  | 5 => 8
  | _ => 16

/-- Bytes of a TYPE of ATOM and RED (R205). -/
def atomBytes (ty : BitVec 4) : Nat := if ty == 10#4 then 2 else if ty == 12#4 || ty == 13#4 then 8 else 4

/-- What a memory word is: what its accesses do at the home, the permission it needs, the ACC of its records, and whether it is a
store for watchpoints, atomic, or bound to the limits of R285. -/
structure MemForm where
  kind : AccKind
  need : Need
  acc : Nat
  bytes : Nat
  fld : MFld
  dst : Nat
  flagged : Bool
  store : Bool
  atomic : Bool
  tent : Bool
  deriving DecidableEq, Repr

/-- The address base + index + offset × bytes (R206, R436). -/
def eaOf (base : W64) (index : W32) (off : BitVec 11) (bytes : Nat) : Nat :=
  (base + index.setWidth 64 + off.signExtend 64 * BitVec.ofNat 64 bytes).toNat

/-- An address of the on-chip physical map (R133). -/
def isWindowVa (va : Nat) : Bool := 0x00FE000000000000 ≤ va && va < 0x00FF000000000000

/-- The offset in the thread's stack that the stack window reaches (R138). -/
def stackOffset (va : Nat) : Option Nat :=
  if 0x00FF800000000000 ≤ va && va < 0x0100000000000000 then some (va - 0x00FF800000000000) else none

/-- The parties of a lane's accesses. -/
def whoOf (w : Warp) (l : Lane) : Who := ⟨w.ctx, w.blk, l.slim, l.flat⟩

/-- The checks of a lane's address, in order (R136, R138, R146, R147, R285) (DEDUCED, log 10). -/
def checkAccess (s : State) (w : Warp) (f : MemForm) (l : Lane) (ea : Nat) : Except (Nat × Nat) Place :=
  if ea % f.bytes != 0 then .error (cMisalign, ea)
  else if f.tent && isAperture ea then .error (cUpage, ea)
  else match placeOf s (whoOf w l) ea f.bytes f.need with
    | .error e => .error e
    | .ok p =>
      if f.tent && (p.kind == .U || (match p.loc with | .mem _ => false | _ => true)) then .error (cUpage, ea)
      else if f.atomic && isWindowVa ea then .error (cRange, ea)
      else .ok p

/-- The end of a word that raised causes per lane: the other lanes have completed it (R89, R325, R326). The word has issued, so that it
matches watchpoints again (R348). -/
def finishLanes (s : State) (c : Cur) (bad : List LaneFault) (good : Lane → W64 × W64) : State :=
  match bad with
  | [] => advance s c
  | f :: _ =>
    let s := s.modWarp c.key fun w => w.mapLanes c.p.mask fun l => if l.noMatch == some c.pc then { l with noMatch := none } else l
    let tl := maskOf (bad.map (·.lane))
    let r := { raiseHere c f.cause tl bad with
      resume := c.lanes.map fun l => (l.id, if tl.getLsbD l.id then resumeAt c else good l) }
    let (s, on) := raiseLanes s r
    let left := c.p.mask &&& ~~~tl
    if on && left != 0 then
      advance s { c with lane0 := lowLane left, p := { c.p with mask := left }, lanes := c.lanes.filter fun l => left.getLsbD l.id }
    else popIssue s

/-- The release code of an access: one more than the scope of its own release, or of a FENCE that makes it one, whichever is wider, or 0
(R169, R171) (DESIGN CHOICE, log 105). -/
def relOf (kind : AccKind) (sem : BitVec 2) (scope : BitVec 3) (fences : List (Nat × Nat)) : Nat :=
  max (if sem.getLsbD 1 && kind != .ld && kind != .mwait then scope.toNat + 1 else 0) (maxN (fences.map (·.1)))

/-- The access may write memory, and so may be the next write after a FENCE (R171). -/
def MemForm.writes (f : MemForm) : Bool := f.kind != .ld && f.kind != .mwait && f.kind != .commit

/-- An access of a lane, as it stands at issue. -/
def newAccess (s : State) (c : Cur) (f : MemForm) (l : Lane) (p : Place) (ea : Nat) : Access where
  id := s.nextId
  grp := s.nextId
  half := false
  kind := f.kind
  ctx := c.w.ctx
  w := c.key
  lane := l.id
  wid := l.wid
  launch := (s.blockAt c.w.blk).launch
  loc := p.loc
  va := BitVec.ofNat 64 ea
  bytes := f.bytes
  page := p.kind
  sem := f.fld.sem
  scope := f.fld.scope
  ty := f.fld.ty
  data := 0
  wide := 0
  cmp := 0
  dst := f.dst
  flag := none
  walk := p.page
  mask := c.p.mask
  pc := c.pc
  base := c.r.base
  agent := s.agentOf c.w
  fcs := l.fcs
  fu := l.fu
  rel := relOf f.kind f.fld.sem f.fld.scope (if f.writes then l.frel else [])
  fences := if f.writes then l.frel else []
  tkey := p.tkey
  ts := s.ts
  st := .pending
  result := 0

/-- The place `n` bytes on. -/
def Loc.plus (n : Nat) : Loc → Loc
  | .mem k => .mem (k + n)
  | .window c o => .window c (o + n)
  | .remote r v => .remote r (v + BitVec.ofNat 64 n)
  | .desc x t => .desc x t

/-- A 16-byte access as its two aligned halves, each single-copy atomic (R163) (DEDUCED, log 11). -/
def splitHalves (a : Access) : List Access :=
  if a.bytes == 16 then
    [{ a with bytes := 8, half := true, data := a.data &&& 0xFFFFFFFFFFFFFFFF#128 },
     { a with bytes := 8, loc := a.loc.plus 8, va := a.va + 8, data := a.data >>> 64, dst := a.dst + 2 }]
  else [a]

/-- Lower lanes of one STT to the same word as a higher lane write false without a store (R288). -/
def dropLowerStt (as : List Access) : List Access :=
  as.map fun a =>
    if a.kind == .stt && as.any fun b => a.lane < b.lane && b.loc == a.loc then { a with st := .performed, result := 0 } else a

/-- Accesses numbered in order from a first number; the word's number is the first. -/
def numberFrom (first : Nat) (as : List Access) : List Access :=
  as.zipIdx.map fun (a, i) => { a with id := first + i, grp := first }

/-- Walks after waiting ones have taken what is free, in order: a die has 256 (R149). -/
def grantWalks (ws : List Walk) : List Walk :=
  ws.foldl (fun a w =>
    if w.active || Config.walks ≤ ((a ++ ws.drop a.length).filter fun v => v.active && v.die == w.die).length then a ++ [w]
    else a ++ [{ w with active := true }]) []

/-- Page walks that accesses of a die's core wait for become outstanding, or wait for one to be free (R149). -/
def startWalks (s : State) (die x : Nat) (as : List Access) : State :=
  { s with walks := grantWalks (as.foldl (fun ws a =>
      match a.walk with
      | some p => if ws.any fun w => w.die == die && w.ctx == x && w.page == p then ws else ws ++ [⟨die, x, p, false⟩]
      | none => ws) s.walks) }

/-- The next write of a lane has been made a release; a CAS, STT or RETRACT may write nothing, and uses it up when it is performed (R171). -/
def clearRel (f : MemForm) (l : Lane) : Lane :=
  match f.kind with
  | .st => { l with frel := [] }
  | .atom => { l with frel := [] }
  | .red => { l with frel := [] }
  | _ => l

/-- A lane of a word that fails a check while another lane's request goes to another device: it is raised with the answers, as a refused
access (R336, R437). -/
def refusedAt (s : State) (c : Cur) (f : MemForm) (l : Lane) (cause va : Nat) : Access :=
  { newAccess s c f l ⟨.remote 1024 0, .S, 0, none, none⟩ va with st := .refused cause, rel := 0, fences := [] }

/-- A memory word: addresses `ea`, stored data and compare value of each lane. Watchpoints come first, then the checks per lane;
the accesses of the lanes that pass enter the memory system in ascending lane order. -/
def memWord (i : Instr) (h : Hdr) (f : MemForm) (ea : State → Lane → Nat) (data : State → Lane → W128)
    (cmp : State → Lane → W64) (s : State) : State :=
  runWord i s fun s c =>
    let act := active s c h
    let x := s.ctxAt c.w.ctx
    let hits := if f.store then
        act.filterMap fun l =>
          if l.noMatch == some c.pc then none
          else (watchHit x 16 (ea s l) f.bytes).map fun m => (l.id, m.1, m.2)
      else []
    if !hits.isEmpty then watchWord s c hits
    else
      let res := act.map fun l => (l, ea s l, checkAccess s c.w f l (ea s l))
      let good := res.filterMap fun (l, a, r) => match r with | .ok p => some (l, a, p) | .error _ => none
      let bad := res.filterMap fun (l, _, r) =>
        match r with
        | .ok _ => none
        | .error (cause, va) => some (⟨l.id, cause, 0, va, f.acc⟩ : LaneFault)
      let fl := if f.flagged then curFlag c else none
      let far := good.any fun (_, _, p) => match p.loc with | .remote _ _ => true | _ => false
      let as := dropLowerStt (numberFrom s.nextId (res.flatMap fun (l, a, r) =>
        match r with
        | .ok p => splitHalves { newAccess s c f l p a with data := data s l, cmp := cmp s l, flag := fl }
        | .error (cause, va) => if far then [{ refusedAt s c f l cause va with flag := fl }] else []))
      let s := startWalks { s with accesses := s.accesses ++ as, nextId := s.nextId + as.length } (dieOf c.key.core) c.w.ctx as
      let bad := if far then [] else bad
      let ls := if far then act else good.map (·.1)
      let s := if f.flagged then bindFlags s c ls else s
      let s := s.modWarp c.key fun w => w.mapLanes (maskOf (good.map (·.1.id))) (clearRel f)
      finishLanes s c bad fun _ => resumeNext c

end Sys2Proof.Machine
end

