-- ==== Sys2Proof/Machine/Control.lean ====
section
/-!
DEFINITION. Control transfers and the thread stack: BRA, BRC, BRX, CALL, CALLX, RET, ENTER, LEAVE, EXIT, JOINH, YIELD, NOP
(R25, R26, R157 to R160, R384 to R386, R400 to R402, R404, R405, R430, R440, R448, R463, R514).
-/

namespace Sys2Proof.Machine

/-! ### The stack of a lane: the thread's, or the handler's in trap mode (R157 to R160, R320) -/

/-- SDEPTH in use (DEDUCED, log 74). -/
def depthOf (hd : Bool) (l : Lane) : Nat := if hd then l.hsdepth else l.sdepth
/-- Limit in use: SLIM, or 128 in trap mode. -/
def limitOf (hd : Bool) (l : Lane) : Nat := if hd then 128 else l.slim
/-- Control entries in use, the oldest first. -/
def entriesOf (hd : Bool) (l : Lane) : List CtlEntry := if hd then l.hstk else l.stk

/-- The stack with a new depth and entries; `push` tells the cache (R160). -/
def setStack (hd push : Bool) (es : List CtlEntry) (d : Nat) (l : Lane) : Lane :=
  if hd then { l with hstk := es, hsdepth := d }
  else { l with stk := es, sdepth := d, cached := if push then min 2 (l.cached + 1) else l.cached - 1 }

/-- The address of byte `off` of the stack in use (R157, R321, R325). -/
def stackByte (s : State) (w : Warp) (hd : Bool) (l : Lane) (off : Nat) : Nat :=
  if hd then trapSlot s w + 0x1000 + 128 * l.id + off else stackVa s (whoOf w l) off

/-- The top entry; an unspecified one when none is known at this depth (R324). -/
def topEntry (hd : Bool) (l : Lane) : CtlEntry :=
  ((entriesOf hd l).getLast?).getD ⟨depthOf hd l - 16, true, 0, true, true⟩

/-- The entry is a return entry (R158); the kind of some entries is unspecified (R324). -/
def entryIsRet (s : State) (l : Lane) (e : CtlEntry) : Bool := if e.anyKind then Config.freeBit s.free (l.id + 1024) else e.ret

/-- The value of an entry, unspecified for some (R160, R324). -/
def entryVal (s : State) (l : Lane) (e : CtlEntry) : W64 :=
  if e.clobbered then Config.freeWord s.free (l.id + 2048) ++ Config.freeWord s.free (l.id + 3072) else e.val

/-- A push needs a stack cache line only; a pop that finds the cache empty waits for its fill (R160). -/
def needsFill (hd : Bool) (l : Lane) : Bool := !hd && l.cached == 0 && !l.stk.isEmpty

/-- The STACK fault of a push, or the lane after it (R159). -/
def pushEntry (s : State) (w : Warp) (hd ret : Bool) (val : W64) (size : Nat) (l : Lane) : Except LaneFault Lane :=
  let d := depthOf hd l
  if limitOf hd l < d + 16 + size then .error ⟨l.id, cStack, 0, stackByte s w hd l d, 5⟩
  else .ok (setStack hd true (entriesOf hd l ++ [⟨d, ret, val, false, false⟩]) (d + 16 + size) l)

/-- The entries below a depth. -/
def entriesBelow (hd : Bool) (l : Lane) (d : Nat) : List CtlEntry := (entriesOf hd l).filter fun e => e.off < d

/-- The STACK fault of a pop at a depth. -/
def popFault (s : State) (w : Warp) (hd : Bool) (l : Lane) : LaneFault :=
  ⟨l.id, cStack, 0, stackByte s w hd l (depthOf hd l - 16), 5⟩

/-- The lane after a frame is popped, or its STACK fault (R159, R402, R440). -/
def popFrame (s : State) (w : Warp) (hd : Bool) (l : Lane) : Except LaneFault Lane :=
  let d := depthOf hd l
  let e := topEntry hd l
  if d == 0 || entryIsRet s l e then .error (popFault s w hd l)
  else
    let d' := d - (16 + (entryVal s l e).toNat)
    let floor := match l.helper with | some h => if h.inBody then h.sd0 else 0 | none => 0
    if d' < floor then .error (popFault s w hd l)
    else .ok (setStack hd false (entriesBelow hd l d') d' l)

/-- The lane after a return entry is popped with the address it gives, or its fault (R463). -/
def popReturn (s : State) (w : Warp) (hd : Bool) (l : Lane) : Except LaneFault (Lane × W64) :=
  let d := depthOf hd l
  let e := topEntry hd l
  if d == 0 || !entryIsRet s l e then .error (popFault s w hd l)
  else
    let t := entryVal s l e
    if t.toNat % 8 != 0 then .error ⟨l.id, cMisalign, 0, t.toNat, 0⟩
    else .ok (setStack hd false (entriesBelow hd l (d - 16)) (d - 16) l, t)

/-! ### Spilling (R158, R160, R331) -/

/-- The 16 bytes of a control entry. -/
def entryNum (s : State) (l : Lane) (e : CtlEntry) : Nat := (entryVal s l e).toNat + (if entryIsRet s l e then 1 else 2) * 2 ^ 64

/-- A control entry is written to its place in the stack's memory; where the page refuses the store, it stays in the part (DEDUCED, log
75). -/
def spillEntry (w : Warp) (hd : Bool) (l : Lane) (s : State) (e : CtlEntry) : State :=
  match partStore s w.ctx (stackByte s w hd l e.off) 16 (entryNum s l e) with
  | .ok t => t
  | .error _ => noteErrors s w.ctx [stackByte s w hd l e.off]

/-- The oldest entries of a lane's stacks are written to memory, all but the newest `keep` of each, as far as they do not stand there. -/
def spillLane (keep : Nat) (w : Warp) (s : State) (l : Lane) : State :=
  let n := l.stk.length - keep
  let m := l.hstk.length - keep
  let s := ((l.stk.take n).drop l.spilled).foldl (spillEntry w false l) s
  let s := ((l.hstk.take m).drop l.hspilled).foldl (spillEntry w true l) s
  s.modLane w.key l.id fun l =>
    { l with
      spilled := max n (min l.spilled l.stk.length)
      hspilled := max m (min l.hspilled l.hstk.length) }

/-- Older entries than the two that the cache holds have still to be written, or written ones have been popped. -/
def spillsNow (l : Lane) : Bool :=
  l.spilled < l.stk.length - 2 || l.stk.length < l.spilled || l.hspilled < l.hstk.length - 2 || l.hstk.length < l.hspilled

/-- The background spill of a warp (R160). -/
def spillWarp (s : State) (w : Warp) : State := (w.lanes.filter spillsNow).foldl (spillLane 2 w) s

/-! ### Words that act on the stack or transfer, per lane -/

/-- What one lane makes of such a word: the lane after it and, for a transfer, its target. -/
abbrev LaneStep := Except LaneFault (Lane × Option W64)

/-- A word whose every executing lane steps or faults; a lane with a target goes there at the run end (R89, R385). -/
def stepWord (i : Instr) (h : Hdr) (f : State → Cur → Lane → LaneStep) (s : State) : State :=
  runWord i s fun s c =>
    let res := (active s c h).map fun l => f s c l
    let good := res.filterMap fun r => match r with | .ok p => some p | .error _ => none
    let bad := res.filterMap fun r => match r with | .ok _ => none | .error e => some e
    let s1 := s.modWarp c.key fun w => w.eachLane fun l =>
      match good.find? fun g => g.1.id == l.id with
      | some g => { l with
          stk := g.1.stk
          sdepth := g.1.sdepth
          cached := g.1.cached
          hstk := g.1.hstk
          hsdepth := g.1.hsdepth }
      | none => l
    let targets := good.filterMap fun g => g.2.map fun t => (g.1.id, t)
    let s2 := if targets.isEmpty then s1 else noteTransfer s1 c (.goto targets)
    finishLanes s2 c bad fun l =>
      match smFind targets l.id with
      | some t => (t, 0)
      | none => resumeNext c

/-- The address of the word after the trailer (R12). -/
def afterRun (c : Cur) : W64 := c.r.addr (c.r.words.length + 1)

/-- The target of a branch with an offset in words (R385). -/
def branchTo (c : Cur) (woff : W32) : W64 := c.pc + woff.signExtend 64 * 8

/-- A target in a register pair: MISALIGN unless it is a multiple of 8 (R386). -/
def checkTarget (l : Lane) (t : W64) : Except LaneFault Unit :=
  if t.toNat % 8 != 0 then .error ⟨l.id, cMisalign, 0, t.toNat, 0⟩ else .ok ()

/-- BRA (R385). -/
def execBra (h : Hdr) (woff : W32) (s : State) : Host.Outcome State Fault Refusal :=
  .next (stepWord (.bra h woff) h (fun _ c l => .ok (l, some (branchTo c woff))) s)

/-- BRC: the condition is read at issue (R385). -/
def execBrc (h : Hdr) (neg : Bool) (idx : BitVec 3) (woff : W32) (s : State) : Host.Outcome State Fault Refusal :=
  .next (stepWord (.brc h neg idx woff) h
    (fun s c l => .ok (l, if rdP s l (0x90#8 + idx.setWidth 8) != neg then some (branchTo c woff) else none)) s)

/-- BRX (R385, R386). -/
def execBrx (h : Hdr) (a : Code) (s : State) : Host.Outcome State Fault Refusal :=
  .next (stepWord (.brx h a) h
    (fun s _ l =>
      match checkTarget l (rd64 s l a) with
      | .error e => .error e
      | .ok _ => .ok (l, some (rd64 s l a))) s)

/-- CALL (R159, R385). -/
def execCall (h : Hdr) (woff : W32) (s : State) : Host.Outcome State Fault Refusal :=
  .next (stepWord (.call h woff) h
    (fun s c l =>
      match pushEntry s c.w c.p.handler true (afterRun c) 0 l with
      | .error e => .error e
      | .ok l' => .ok (l', some (branchTo c woff))) s)

/-- CALLX (R159, R385, R386). -/
def execCallx (h : Hdr) (a : Code) (s : State) : Host.Outcome State Fault Refusal :=
  .next (stepWord (.callx h a) h
    (fun s c l =>
      match pushEntry s c.w c.p.handler true (afterRun c) 0 l with
      | .error e => .error e
      | .ok l' =>
        match checkTarget l (rd64 s l a) with
        | .error e => .error e
        | .ok _ => .ok (l', some (rd64 s l a))) s)

/-- RET (R463). -/
def execRet (h : Hdr) (s : State) : Host.Outcome State Fault Refusal :=
  .next (stepWord (.ret h) h
    (fun s c l =>
      match popReturn s c.w c.p.handler l with
      | .error e => .error e
      | .ok (l', t) => .ok (l', some t)) s)

/-- ENTER: the frame is 16 × the field (R159, R400, R401). -/
def execEnter (h : Hdr) (n : BitVec 11) (s : State) : Host.Outcome State Fault Refusal :=
  .next (stepWord (.enter h n) h
    (fun s c l =>
      match pushEntry s c.w c.p.handler false (BitVec.ofNat 64 (16 * n.toNat)) (16 * n.toNat) l with
      | .error e => .error e
      | .ok l' => .ok (l', none)) s)

/-- LEAVE (R159, R440). -/
def execLeave (h : Hdr) (s : State) : Host.Outcome State Fault Refusal :=
  .next (stepWord (.leave h) h
    (fun s c l =>
      match popFrame s c.w c.p.handler l with
      | .error e => .error e
      | .ok l' => .ok (l', none)) s)

/-! ### Words that act at the run end -/

/-- EXIT (R404): the lanes leave at the run end. -/
def execExit (h : Hdr) (s : State) : Host.Outcome State Fault Refusal :=
  .next (runWord (.exit h) s fun s c => advance (noteTransfer s c (.exit (activeMask s c h))) c)

/-- JOINH (R25, R26, R430): a hold at the run end, never of the handler path or a path in a body. -/
def execJoinh (h : Hdr) (n : BitVec 7) (s : State) : Host.Outcome State Fault Refusal :=
  .next (runWord (.joinh h n) s fun s c =>
    if activeMask s c h == 0 || c.p.handler || !(bodyOf c).isEmpty then advance s c
    else advance (noteEff s c (.joinh n.toNat)) c)

/-- YIELD (R514). -/
def execYield (h : Hdr) (s : State) : Host.Outcome State Fault Refusal :=
  .next (runWord (.yield h) s fun s c =>
    if activeMask s c h == 0 then advance s c else advance (noteEff s c .yield) c)

/-- NOP (R448). -/
def execNop (h : Hdr) (s : State) : Host.Outcome State Fault Refusal :=
  .next (runWord (.nop h) s advance)

end Sys2Proof.Machine
end

