-- ==== Sys2Proof/Machine/Float.lean ====
section
/-!
DEFINITION. Number formats: binary32 and BF16 (R109 to R115), M8 (R116 to R118), E8 and INT4 (R119, R120), the conversions
(R121, R122), and the combining steps of the reductions (R127 to R129).
-/

namespace Sys2Proof.Machine

/-! ### Exact values -/

/-- A float value: a NaN, an infinity of a sign, or a sign and the magnitude `n` × 2^`e`. -/
inductive FVal where
  | nan
  | inf (neg : Bool)
  | num (neg : Bool) (n : Nat) (e : Int)
  deriving DecidableEq, Repr

/-- The default NaN of FP32 (R110). -/
abbrev dNaN : W32 := 0x7FC00000#32

/-- A binary32 value read, a subnormal as a zero of its sign under FTZ (R109, R112). -/
def unpack32 (ftz : Bool) (v : W32) : FVal :=
  let f : Nat := v.toNat % 2 ^ 23
  let x : Nat := v.toNat / 2 ^ 23 % 256
  let neg := v.getLsbD 31
  if x == 255 then (if f == 0 then .inf neg else .nan)
  else if x == 0 then (if ftz then .num neg 0 0 else .num neg f (-149))
  else .num neg (f + 2 ^ 23) ((x : Int) - 150)

/-- The integer that a rounding mode gives for `n` / 2^`sh` (R109, R118). -/
def roundShift (rm : Nat) (neg : Bool) (n sh : Nat) : Nat :=
  let q := n / 2 ^ sh
  let r := n % 2 ^ sh
  if r == 0 then q
  else match rm with
    | 0 => if 2 * r < 2 ^ sh then q else if 2 ^ sh < 2 * r then q + 1 else q + q % 2
    | 1 => q
    | 2 => if neg then q else q + 1
    | _ => if neg then q + 1 else q

/-- Magnitude bits of a format of `p` significant bits with the exponent range of binary32: rounded once, overflow by the
mode (R109). -/
def roundMag (p rm : Nat) (neg : Bool) (n : Nat) (e : Int) : Nat :=
  if n == 0 then 0 else
  let qmin : Int := -125 - p
  let q : Int := max ((n.log2 : Int) + e - (p - 1)) qmin
  let sig := if q ≤ e then n * 2 ^ (e - q).toNat else roundShift rm neg n (q - e).toNat
  let bits := (q - qmin).toNat * 2 ^ (p - 1) + sig
  let inf := 255 * 2 ^ (p - 1)
  if bits < inf then bits
  else match rm with
    | 0 => inf
    | 1 => inf - 1
    | 2 => if neg then inf - 1 else inf
    | _ => if neg then inf else inf - 1

/-- A value written in a format of `p` bits (24 for FP32, 8 for BF16), subnormal results as zeros under FTZ (R109 to R112,
R115). -/
def packBits (p rm : Nat) (ftz : Bool) (v : FVal) : Nat :=
  match v with
  | .nan => 511 * 2 ^ (p - 2)
  | .inf neg => (if neg then 2 ^ (p + 7) else 0) + 255 * 2 ^ (p - 1)
  | .num neg n e =>
    let m := roundMag p rm neg n e
    (if neg then 2 ^ (p + 7) else 0) + (if ftz && m < 2 ^ (p - 1) then 0 else m)

/-- A value written as FP32. -/
def pack32 (rm : Nat) (ftz : Bool) (v : FVal) : W32 := BitVec.ofNat 32 (packBits 24 rm ftz v)

/-- A value written as BF16 in bits [15:0]. -/
def packBf16 (rm : Nat) (ftz : Bool) (v : FVal) : W32 := BitVec.ofNat 32 (packBits 8 rm ftz v)

/-- A BF16 value read. -/
def unpackBf16 (ftz : Bool) (v : W32) : FVal := unpack32 ftz (v <<< 16)

/-! ### Arithmetic (R109, R407) -/

/-- The negative of a value. -/
def FVal.neg : FVal → FVal
  | .nan => .nan
  | .inf s => .inf (!s)
  | .num s n e => .num (!s) n e

/-- The signed integer of a magnitude at a common exponent. -/
def signedAt (neg : Bool) (n : Nat) (e q : Int) : Int :=
  let m : Int := n * 2 ^ (e - q).toNat
  if neg then -m else m

/-- The exact sum; an exact zero has the sign IEEE 754 gives under the mode (R407). -/
def addVal (rm : Nat) : FVal → FVal → FVal
  | .nan, _ => .nan
  | _, .nan => .nan
  | .inf s, .inf t => if s == t then .inf s else .nan
  | .inf s, .num _ _ _ => .inf s
  | .num _ _ _, .inf t => .inf t
  | .num s n e, .num t m f =>
    let q := min e f
    let r := signedAt s n e q + signedAt t m f q
    if r == 0 then .num (if n == 0 && m == 0 && s == t then s else rm == 3) 0 0
    else .num (r < 0) r.natAbs q

/-- The exact product. -/
def mulVal : FVal → FVal → FVal
  | .nan, _ => .nan
  | _, .nan => .nan
  | .inf s, .inf t => .inf (s != t)
  | .inf s, .num t m _ => if m == 0 then .nan else .inf (s != t)
  | .num s n _, .inf t => if n == 0 then .nan else .inf (s != t)
  | .num s n e, .num t m f => .num (s != t) (n * m) (e + f)

/-- RM of an FPCTL word (R98). -/
def rmOf (fp : W32) : Nat := fp.toNat % 4
/-- FTZ of an FPCTL word (R98). -/
def ftzOf (fp : W32) : Bool := fp.getLsbD 2

/-- a + b under an FPCTL word (R407). -/
def fadd32 (fp a b : W32) : W32 :=
  pack32 (rmOf fp) (ftzOf fp) (addVal (rmOf fp) (unpack32 (ftzOf fp) a) (unpack32 (ftzOf fp) b))

/-- a − b. -/
def fsub32 (fp a b : W32) : W32 :=
  pack32 (rmOf fp) (ftzOf fp) (addVal (rmOf fp) (unpack32 (ftzOf fp) a) (unpack32 (ftzOf fp) b).neg)

/-- a × b. -/
def fmul32 (fp a b : W32) : W32 :=
  pack32 (rmOf fp) (ftzOf fp) (mulVal (unpack32 (ftzOf fp) a) (unpack32 (ftzOf fp) b))

/-- a × b + c with one rounding. -/
def ffma32 (fp a b c : W32) : W32 :=
  pack32 (rmOf fp) (ftzOf fp)
    (addVal (rmOf fp) (mulVal (unpack32 (ftzOf fp) a) (unpack32 (ftzOf fp) b)) (unpack32 (ftzOf fp) c))

/-! ### Comparisons (R111, R411, R412) -/

/-- A NaN of FP32. -/
def isNan32 (v : W32) : Bool := 0x7F800000 < v.toNat % 2 ^ 31

/-- An FP32 subnormal as a zero of its sign, under FTZ (R112). -/
def ftzIn (ftz : Bool) (v : W32) : W32 :=
  if ftz && v.toNat % 2 ^ 31 < 2 ^ 23 then v &&& 0x80000000#32 else v

/-- The order of FP32 values that are no NaN, −0 below +0. -/
def floatKey (v : W32) : Int :=
  let m : Int := Int.ofNat (v.toNat % 2 ^ 31)
  if v.getLsbD 31 then -m - 1 else m

/-- The order of values for FCMP: −0 equals +0. -/
def floatVal (v : W32) : Int :=
  let m : Int := Int.ofNat (v.toNat % 2 ^ 31)
  if v.getLsbD 31 then -m else m

/-- FMIN under an FPCTL word. -/
def fmin32 (fp a b : W32) : W32 :=
  if isNan32 a || isNan32 b then dNaN
  else
    let a := ftzIn (ftzOf fp) a
    let b := ftzIn (ftzOf fp) b
    if floatKey b < floatKey a then b else a

/-- FMAX under an FPCTL word. -/
def fmax32 (fp a b : W32) : W32 :=
  if isNan32 a || isNan32 b then dNaN
  else
    let a := ftzIn (ftzOf fp) a
    let b := ftzIn (ftzOf fp) b
    if floatKey a < floatKey b then b else a

/-- The truth of "a cc b" (R111, R412). -/
def fcmpTrue (fp : W32) (cc : BitVec 4) (a b : W32) : Bool :=
  if isNan32 a || isNan32 b then cc == 1#4
  else
    let x := floatVal (ftzIn (ftzOf fp) a)
    let y := floatVal (ftzIn (ftzOf fp) b)
    match cc.toNat with
    | 0 => x == y
    | 1 => x != y
    | 2 => x < y
    | 3 => x ≤ y
    | 4 => y < x
    | 5 => y ≤ x
    | _ => false

/-- The magnitude of a number rounded to an integer (R109, R121). -/
def roundInt (rm : Nat) (neg : Bool) (n : Nat) (e : Int) : Nat :=
  if 0 ≤ e then n * 2 ^ e.toNat else roundShift rm neg n (-e).toNat

/-- FRND under an FPCTL word (R415). -/
def frnd32 (fp a : W32) : W32 :=
  match unpack32 (ftzOf fp) a with
  | .nan => dNaN
  | .inf s => pack32 0 false (.inf s)
  | .num s n e => pack32 0 false (.num s (roundInt (rmOf fp) s n e) 0)

/-! ### M8 (R116 to R118) -/

/-- The magnitude of an M8 code below 128 in units of 2^−10 (R116). -/
def m8Mag (c : Nat) : Nat :=
  if 64 ≤ c then (64 + c % 64) * 16
  else if 32 ≤ c then (16 + c % 16) * (if c / 16 % 2 == 1 then 128 else 32)
  else if 16 ≤ c then
    (4 + c % 4) * (match c / 4 % 4 with | 0 => 32 | 1 => 64 | 2 => 1024 | _ => 2048)
  else if 8 ≤ c then (if c % 8 < 4 then 2 ^ (3 + c % 8) else 2 ^ (10 + c % 8))
  else c

/-- An M8 code read (R116, R117). -/
def unpackM8 (c : Nat) : FVal :=
  if c % 256 == 128 then .nan else .num (128 ≤ c % 256) (m8Mag (c % 128)) (-10)

/-- The code of the largest M8 magnitude that is at most `n` / 2^`k` in units of 2^−10. -/
def m8Lo (n k : Nat) : Nat :=
  (List.range 128).foldl (fun b c => if m8Mag c * 2 ^ k ≤ n && m8Mag b < m8Mag c then c else b) 0

/-- The code of the next M8 magnitude above a code's. -/
def m8Up (lo : Nat) : Nat :=
  (List.range 128).foldl (fun b c => if m8Mag lo < m8Mag c && m8Mag c < m8Mag b then c else b) 15

/-- A magnitude as `n` / 2^`k` in units of 2^−10. -/
def m8Scaled (n : Nat) (e : Int) : Nat × Nat := (n * 2 ^ (e + 10).toNat, (-(e + 10)).toNat)

/-- An M8 code with its sign; a zero has none (R118 step 4). -/
def m8Sign (neg : Bool) (c : Nat) : Nat := if neg && c != 0 then c + 128 else c

/-- A value as an M8 code (R118). -/
def packM8 (rm : Nat) (v : FVal) : Nat :=
  match v with
  | .nan => 0x80
  | .inf s => m8Sign s 15
  | .num s n e =>
    let (x, k) := m8Scaled n e
    if m8Mag 15 * 2 ^ k < x then m8Sign s 15
    else
      let lo := m8Lo x k
      if m8Mag lo * 2 ^ k == x then m8Sign s lo
      else
        let hi := m8Up lo
        let mid := (m8Mag lo + m8Mag hi) * 2 ^ k
        m8Sign s (match rm with
          | 0 => if 2 * x < mid then lo else if mid < 2 * x then hi else if lo % 2 == 0 then lo else hi
          | 1 => lo
          | 2 => if s then lo else hi
          | _ => if s then hi else lo)

/-! ### Conversions (R121, R397 to R399) -/

/-- Bytes and signedness of an integer format code of CVT. -/
def cvtInt (f : BitVec 4) : Option (Nat × Bool) :=
  match f.toNat with
  | 3 => some (1, true)
  | 4 => some (2, true)
  | 5 => some (4, true)
  | 6 => some (8, true)
  | 7 => some (1, false)
  | 8 => some (2, false)
  | 9 => some (4, false)
  | 10 => some (8, false)
  | _ => none

/-- A 64-bit format of CVT. -/
def cvtWide (f : BitVec 4) : Bool := f == 6#4 || f == 10#4

/-- An integer saturated to a type (R121). -/
def saturate (bytes : Nat) (sg : Bool) (r : Int) : Int :=
  if sg then clampInt (-(2 ^ (8 * bytes - 1) : Nat)) ((2 ^ (8 * bytes - 1) : Nat) - 1) r
  else clampInt 0 ((2 ^ (8 * bytes) : Nat) - 1) r

/-- An integer of a type read from a source. -/
def readInt (bytes : Nat) (sg : Bool) (v : W64) : Int :=
  if sg then signedN (8 * bytes) v.toNat else (v.toNat % 2 ^ (8 * bytes) : Nat)

/-- A float as an integer of a type: rounded, then saturated; a NaN gives 0 (R121). -/
def floatToInt (rm bytes : Nat) (sg : Bool) : FVal → Int
  | .nan => 0
  | .inf s => saturate bytes sg (if s then -(2 ^ 64 : Nat) else (2 ^ 64 : Nat))
  | .num s n e => saturate bytes sg (if s then -(roundInt rm s n e : Int) else (roundInt rm s n e : Int))

/-- CVT without .sr of a source to a result of 64 bits, of which a narrow format has the low ones (R399). -/
def convert (fp : W32) (dst src : BitVec 4) (x : W64) : W64 :=
  let rm := rmOf fp
  let ftz := ftzOf fp
  let v : FVal :=
    match src.toNat with
    | 0 => unpack32 ftz (x.setWidth 32)
    | 1 => unpackBf16 ftz (x.setWidth 32)
    | 2 => unpackM8 (x.toNat % 256)
    | _ => (match cvtInt src with
      | some (b, sg) => .num (readInt b sg x < 0) (readInt b sg x).natAbs 0
      | none => .nan)
  match dst.toNat with
  | 0 => (pack32 rm ftz v).setWidth 64
  | 1 => (packBf16 rm ftz v).setWidth 64
  | 2 => BitVec.ofNat 64 (packM8 rm v)
  | _ =>
    (match cvtInt dst, cvtInt src with
    | some (b, sg), some (b', sg') => BitVec.ofInt 64 (saturate b sg (readInt b' sg' x))
    | some (b, sg), none => BitVec.ofInt 64 (floatToInt rm b sg v)
    | none, _ => 0#64)

/-- The 16 bits d of R122 for an FP32 value that converts to BF16 or M8. -/
def srBits (ftz m8 : Bool) (x : W32) : Nat :=
  match unpack32 ftz x with
  | .nan => 0
  | .inf _ => 0
  | .num _ n e =>
    if n == 0 then 0
    else if !m8 then x.toNat % 2 ^ 16
    else
      let (y, k) := m8Scaled n e
      if m8Mag 15 * 2 ^ k < y then 0
      else
        let lo := m8Lo y k
        (y - m8Mag lo * 2 ^ k) * 2 ^ 16 / ((m8Mag (m8Up lo) - m8Mag lo) * 2 ^ k)

/-- The threshold h of R122 in lane `i` of its quad, from its neighbours. -/
def srHash (i a b : Nat) : Nat :=
  let x := BitVec.ofNat 16 (a * 0x2B5D)
  let y := (BitVec.ofNat 16 b).rotateLeft 5
  (x ^^^ y ^^^ BitVec.ofNat 16 (i * 0x1F2E)).toNat

/-- The result of CVT.sr in a lane, stepped up in magnitude or not (R122). -/
def srResult (ftz m8 up : Bool) (x : W32) : W32 :=
  match unpack32 ftz x with
  | .nan => if m8 then 0x80#32 else 0x7FC0#32
  | v =>
    if m8 then
      let t := packM8 1 v
      let lo := t % 128
      if up then BitVec.ofNat 32 (m8Sign (x.getLsbD 31) (m8Up lo)) else BitVec.ofNat 32 t
    else packBf16 1 ftz v + (if up then 1#32 else 0#32)

/-! ### Combining steps (R127 to R129, R299) -/

/-- The operation code is a float one (R299). -/
def isFloatOp (op : BitVec 4) : Bool := op == 1#4 || op == 6#4 || op == 7#4

/-- The identity of an operation (R128). -/
def opIdentity (fp : W32) (op : BitVec 4) : W32 :=
  match op.toNat with
  | 0 => 0#32
  | 1 => if rmOf fp == 3 then 0#32 else 0x80000000#32
  | 2 => 0x7FFFFFFF#32
  | 3 => 0xFFFFFFFF#32
  | 4 => 0x80000000#32
  | 5 => 0#32
  | 6 => 0x7F800000#32
  | 7 => 0xFF800000#32
  | 8 => 0xFFFFFFFF#32
  | _ => 0#32

/-- A value as it enters a reduction or a scan: for the float operations flushed under FTZ (R128), and a NaN as the default NaN, since no
payload survives (R110), also where R129 delivers one value uncombined (DEDUCED, log 16). -/
def opSource (fp : W32) (op : BitVec 4) (v : W32) : W32 :=
  if isFloatOp op then (if isNan32 v then dNaN else ftzIn (ftzOf fp) v) else v

/-- One combining step (R128, R111, R112) (DEDUCED, log 16). -/
def combine (fp : W32) (op : BitVec 4) (a b : W32) : W32 :=
  match op.toNat with
  | 0 => a + b
  | 1 => fadd32 fp a b
  | 2 => if b.toInt < a.toInt then b else a
  | 3 => if b.toNat < a.toNat then b else a
  | 4 => if a.toInt < b.toInt then b else a
  | 5 => if a.toNat < b.toNat then b else a
  | 6 => fmin32 fp a b
  | 7 => fmax32 fp a b
  | 8 => a &&& b
  | 9 => a ||| b
  | _ => a ^^^ b

/-- One level of the tree: element l is combined with element l + h (R128). -/
def treeLevel (fp : W32) (op : BitVec 4) (h : Nat) (v : List W32) : List W32 :=
  (List.zip (v.take h) (v.drop h)).map fun p => combine fp op p.1 p.2

/-- The log-step tree over 2^`k` values (R128). -/
def treeReduce (fp : W32) (op : BitVec 4) : Nat → List W32 → W32
  | 0, v => v.headD 0#32
  | k + 1, v => treeReduce fp op k (treeLevel fp op (2 ^ k) v)

end Sys2Proof.Machine
end

