-- ==== Sys2Proof/Machine/Memory.lean ====
section
/-!
DEFINITION. Memory instructions at issue: LD, ST, PREF, ATOM, CAS, RED, STT, RETRACT, COMMIT, FENCE, MWAIT (R168, R179 to R181,
R205, R206, R215, R284 to R290, R375 to R378, R389, R435 to R438, R446, R447, R454, R455, R460 to R462, R464, R465, R492 to R496).
-/

namespace Sys2Proof.Machine

/-- A form of a memory word with nothing special. -/
def plainForm (kind : AccKind) (need : Need) (acc bytes : Nat) (m : MFld) : MemForm where
  kind := kind
  need := need
  acc := acc
  bytes := bytes
  fld := m
  dst := 0
  flagged := false
  store := false
  atomic := false
  tent := false

/-- The address with an index register (R436). -/
def indexed (a b : Code) (m : MFld) (bytes : Nat) (s : State) (l : Lane) : Nat := eaOf (rd64 s l a) (rd s l b) m.off bytes

/-- The address without an index (R206). -/
def based (a : Code) (m : MFld) (bytes : Nat) (s : State) (l : Lane) : Nat := eaOf (rd64 s l a) 0 m.off bytes

/-- No data. -/
def noData (_ : State) (_ : Lane) : W128 := 0
/-- No compare value. -/
def noCmp (_ : State) (_ : Lane) : W64 := 0

/-- A source of 4 or 8 bytes as stored data. -/
def dataOf (wide : Bool) (b : Code) (s : State) (l : Lane) : W128 :=
  if wide then (rd64 s l b).setWidth 128 else (rd s l b).setWidth 128

/-- LD (R436). -/
def execLd (h : Hdr) (d a b : Code) (m : MFld) (s : State) : Host.Outcome State Fault Refusal :=
  .next (memWord (.ld h d a b m) h
    { plainForm .ld .rd 1 (tyBytes m.ty) m with dst := d.toNat, flagged := true }
    (indexed a b m (tyBytes m.ty)) noData noCmp s)

/-- The data of ST by its TYPE (R493). -/
def storeData (ty : BitVec 4) (d : Code) (s : State) (l : Lane) : W128 :=
  match ty.toNat with
  | 6 => if d == 0x88#8 then 0#128 else rdAt s l d 3 ++ rdAt s l d 2 ++ rdAt s l d 1 ++ rd s l d
  | 5 => (rd64 s l d).setWidth 128
  | _ => (rd s l d).setWidth 128

/-- ST (R493). -/
def execSt (h : Hdr) (d a b : Code) (m : MFld) (s : State) : Host.Outcome State Fault Refusal :=
  .next (memWord (.st h d a b m) h
    { plainForm .st .wr 2 (tyBytes m.ty) m with store := true }
    (indexed a b m (tyBytes m.ty)) (storeData m.ty d) noCmp s)

/-- ATOM (R376). -/
def execAtom (h : Hdr) (d a b : Code) (m : MFld) (s : State) : Host.Outcome State Fault Refusal :=
  .next (memWord (.atom h d a b m) h
    { plainForm .atom .rdwr 3 (atomBytes m.ty) m with dst := d.toNat, flagged := true, store := true, atomic := true }
    (based a m (atomBytes m.ty)) (dataOf (atomBytes m.ty == 8) b) noCmp s)

/-- CAS: the compare value is D as it stands at issue (R206, R376). -/
def execCas (h : Hdr) (d a b : Code) (m : MFld) (s : State) : Host.Outcome State Fault Refusal :=
  .next (memWord (.cas h d a b m) h
    { plainForm .cas .rdwr 3 (tyBytes m.ty) m with dst := d.toNat, flagged := true, store := true, atomic := true }
    (based a m (tyBytes m.ty)) (dataOf (m.ty == 5#4) b)
    (fun s l => if m.ty == 5#4 then rd64 s l d else (rd s l d).setWidth 64) s)

/-- RED: the operand is D (R461). -/
def execRed (h : Hdr) (d a : Code) (m : MFld) (s : State) : Host.Outcome State Fault Refusal :=
  .next (memWord (.red h d a m) h
    { plainForm .red .wr 3 (atomBytes m.ty) m with store := true, atomic := true }
    (based a m (atomBytes m.ty)) (dataOf (atomBytes m.ty == 8) d) noCmp s)

/-- STT (R496). -/
def execStt (h : Hdr) (d a b : Code) (m : MFld) (s : State) : Host.Outcome State Fault Refusal :=
  .next (memWord (.stt h d a b m) h
    { plainForm .stt .wr 4 (tyBytes m.ty) m with dst := d.toNat, flagged := true, store := true, tent := true }
    (based a m (tyBytes m.ty)) (dataOf (m.ty == 5#4) b) noCmp s)

/-- RETRACT (R465). -/
def execRetract (h : Hdr) (d a : Code) (m : MFld) (s : State) : Host.Outcome State Fault Refusal :=
  .next (memWord (.retract h d a m) h
    { plainForm .retract .wr 4 (tyBytes m.ty) m with dst := d.toNat, flagged := true, store := true, tent := true }
    (based a m (tyBytes m.ty)) noData noCmp s)

/-- COMMIT (R389). -/
def execCommit (h : Hdr) (a : Code) (m : MFld) (s : State) : Host.Outcome State Fault Refusal :=
  .next (memWord (.commit h a m) h
    { plainForm .commit .wr 4 (tyBytes m.ty) m with store := true, tent := true }
    (based a m (tyBytes m.ty)) noData noCmp s)

/-- MWAIT: the compare value is D as it stands at issue (R215, R446). -/
def execMwait (h : Hdr) (d a b : Code) (m : MFld) (s : State) : Host.Outcome State Fault Refusal :=
  .next (memWord (.mwait h d a b m) h
    { plainForm .mwait .rd 1 (tyBytes m.ty) m with dst := d.toNat, flagged := true, atomic := true }
    (indexed a b m (tyBytes m.ty)) noData
    (fun s l => if m.ty == 5#4 then rd64 s l d else (rd s l d).setWidth 64) s)

/-! ### PREF (R454, R455) -/

/-- A line holds a tentative word (R286). -/
def tentLine (s : State) (line : Nat) : Bool := s.tentWords.any fun t => lineOf t.key == line

/-- A key range meets a range-scoreboard entry of its core's scratchpad (R151); `wr` admits write entries only. -/
def underEntry (s : State) (key n : Nat) (wr : Bool) : Bool :=
  isScratchKey key && (s.coreAt (keyCore key)).ranges.any fun e =>
    (e.write || !wr) && overlap key n (scratchKey (keyCore key) e.lo) (e.hi - e.lo)

/-- An L1 makes room for a line: once it holds 512, one of them goes; which one is not given (R4) (DESIGN CHOICE, log 14). -/
def dropFull (free line : Nat) (l : List L1Line) : List L1Line :=
  if l.length < Config.l1Lines then l else l.eraseIdx (Config.freeNat free line % l.length)

/-- A line enters a core's L1 from its home (R162, R165, R286). -/
def fillL1 (s : State) (core line : Nat) (kind : PageKind) : State :=
  if tentLine s line then s
  else s.modCore core fun c =>
    { c with l1 := dropFull s.free line (c.l1.filter fun e => e.line != line) ++ [⟨line, lineCells s.mem line, lineTags s.keyTags line, kind, s.clk⟩] }

/-- PREF in one lane: the line of a translated local address is brought into the L1; in every other case nothing happens (DEDUCED, log
13). -/
def prefetch (core : Nat) (x : Nat) (s : State) (va : Nat) : State :=
  if isAperture va then s
  else match translate s (s.ctxAt x) va .rd with
    | .error _ => s
    | .ok t => if t.remote.isSome || portDown s t then s else fillL1 s core (lineOf t.key) t.kind

/-- PREF (R455): the address needs no alignment, and nothing faults. -/
def execPref (h : Hdr) (a b : Code) (m : MFld) (s : State) : Host.Outcome State Fault Refusal :=
  .next (runWord (.pref h a b m) s fun s c =>
    let vas := (active s c h).map fun l => indexed a b m 4 s l
    advance (vas.foldl (prefetch c.key.core c.w.ctx) s) c)

/-! ### FENCE (R179 to R181) -/

/-- The path stalls at a FENCE, and the fence numbers of its lanes move up (R166, R171, R180). -/
def startFence (s : State) (c : Cur) (h : Hdr) (scope : BitVec 3) (ranges : List (Nat × Nat × Nat)) : State :=
  let m := activeMask s c h
  if m == 0 then advance s c
  else
    let s := s.modWarp c.key fun w => w.mapLanes m fun l =>
      { l with
        fcs := s.nextId
        fu := if 4 ≤ scope.toNat then s.nextId else l.fu
        frel := l.frel ++ [(scope.toNat + 1, s.nextId)] }
    advance (modRun s c fun r => { r with fence := some ⟨m, s.nextId, scope, ranges, none⟩ }) c

/-- FENCE.full (R180). -/
def execFenceFull (h : Hdr) (scope : BitVec 3) (cache : BitVec 4) (s : State) : Host.Outcome State Fault Refusal :=
  .next (runWord (.fenceFull h scope cache) s fun s c => startFence s c h scope [])

/-- FENCE.wb: its range is base to base + length − 1, modulo 2^64 (R181). -/
def execFenceWb (h : Hdr) (a b : Code) (scope : BitVec 3) (cache : BitVec 4) (s : State) : Host.Outcome State Fault Refusal :=
  .next (runWord (.fenceWb h a b scope cache) s fun s c =>
    startFence s c h scope ((active s c h).map fun l => (l.id, (rd64 s l a).toNat, (rd s l b).toNat)))

/-- The earlier stores for which a FENCE waits are performed (R180). -/
def fenceDrained (s : State) (k : WarpKey) (f : FenceWait) : Bool :=
  s.accesses.all fun a =>
    !(a.w == k && f.mask.getLsbD a.lane && a.id < f.before && a.kind != .ld && a.kind != .mwait && a.st != .performed)

/-- The physical keys, by 64 KiB of the range, that a FENCE.wb range covers: key and length; addresses that are not mapped, lie in an
aperture or on another device are skipped (R181). -/
def wbPieces (s : State) (x base len : Nat) : List (Nat × Nat) :=
  if len == 0 then []
  else (List.range ((base % 65536 + len - 1) / 65536 + 1)).filterMap fun i =>
    let lo := max base ((base / 65536 + i) * 65536)
    let hi := min (base + len) ((base / 65536 + i + 1) * 65536)
    let va := lo % 2 ^ 64
    if 2 ^ 57 ≤ va || isAperture va then none
    else match walkTable s (s.ctxAt x).root va with
      | none => none
      | some (e, size) =>
        if bitsN e 51 48 == 15 then none
        else some ((if bitsN e 11 10 == 1 then keyTier2 else 0) + pteAddr e + va % size, hi - lo)

/-- The dirty lines that pieces overlap. -/
def dirtyIn (s : State) (ps : List (Nat × Nat)) : List Nat :=
  (s.dram.map (·.1)).filter fun line => ps.any fun p => overlap (line * 128) 128 p.1 p.2

/-- A write-back of lines by a thread is a foreign access to the tentative words of others (R287). -/
def observeLines (s : State) (x : Nat) (wid : W64) (lines : List Nat) : State :=
  { s with
    tentWords := mapIf (fun t => lines.contains (lineOf t.key) && !(t.ctx == x && t.wid == wid))
      (fun t => { t with observed := true }) s.tentWords }

/-- A FENCE whose earlier stores are performed: the core's L1 lines go for a scope of .cl or wider, and FENCE.wb sends every dirty
line of its ranges to DRAM (R180, R181). -/
def fenceStage (s : State) (k : WarpKey) (f : FenceWait) : State × FenceWait :=
  let w := s.warpAt k
  let s := if 2 ≤ f.scope.toNat then dropL1 s k.core else s
  let (s, ls) := f.ranges.foldl (fun (t : State × List Nat) r =>
    let ls := dirtyIn t.1 (wbPieces t.1 w.ctx r.2.1 r.2.2)
    (observeLines t.1 w.ctx (w.laneAt r.1).wid ls, t.2 ++ ls)) (s, [])
  let ls := distinct ls
  ({ s with writeBacks := s.writeBacks ++ ls.filter fun l => !s.writeBacks.contains l }, { f with lines := some ls })

/-- The FENCE no longer stalls: every line that it writes back has reached DRAM. -/
def fenceDone (s : State) (f : FenceWait) : Bool :=
  match f.lines with
  | none => false
  | some ls => ls.all fun l => !s.writeBacks.contains l

end Sys2Proof.Machine
end

