-- ==== Sys2Proof/Machine/Home.lean ====
section
/-!
DEFINITION. What happens at the home: program order between accesses, loads through the L1, stores, atomics, tentative words,
release records and scope checks, window accesses, and the effects of one access (R142 to R178, R205 to R209, R286 to R291,
R338 to R340).
-/

namespace Sys2Proof.Machine

/-! ### Tentative words (R286 to R290) -/

/-- A line leaves every L1 (R286). -/
def dropEverywhere (s : State) (line : Nat) : State :=
  { s with cores := s.cores.map fun c => { c with l1 := c.l1.filter fun e => e.line != line } }

/-- A line leaves one core's L1. -/
def dropHere (s : State) (core line : Nat) : State :=
  s.modCore core fun c => { c with l1 := c.l1.filter fun e => e.line != line }

/-- Entries of a line are freed where no owner of a tentative word of the line is left (R290). -/
def freeTentEntries (s : State) (line : Nat) : State :=
  modTent s fun place es => es.filter fun e => e.line != line || entryStands s place e

/-- A tentative word becomes plain with the value that stands (R288). -/
def endTentative (s : State) (p : TentWord → Bool) (line : Nat) : State :=
  freeTentEntries { s with tentWords := s.tentWords.filter fun t => !p t } line

/-- Two lists of threads as one. -/
def joinMarks (a b : List (Nat × W64)) : List (Nat × W64) := a ++ b.filter fun m => !a.contains m

/-- A line is forcibly evicted: its words become plain, and its entries are marked with the owners at their place (R290). -/
def evictLine (s : State) (line : Nat) : State :=
  let owners (place : Nat) : List (Nat × W64) :=
    distinct ((s.tentWords.filter fun t => lineOf t.key == line && t.core == some place).map fun t => (t.ctx, t.wid))
  modTent { s with tentWords := s.tentWords.filter fun t => lineOf t.key != line } fun place es =>
    mapIf (fun e => e.line == line) (fun e => { e with marks := joinMarks e.marks (owners place) }) es

/-- An access to another line of a home slice may make it free a way and evict a tentative line of its own (R290); the geometry of the slice's
cache is not given, so whether it does and which line it takes are free. -/
def mayEvict (s : State) (key : Nat) : State :=
  let ls := distinct ((s.tentWords.map fun t => lineOf t.key).filter fun l =>
    l != lineOf key && Config.slice l % Config.slices == Config.slice (lineOf key) % Config.slices)
  if isScratchKey key || ls.isEmpty || !Config.freeBit s.free (key + 5) then s
  else evictLine s (ls.getD (Config.freeNat s.free (key + 6) % ls.length) 0)

/-- The entry of a thread's core for a line is marked evicted, and the thread owned words of it (R290). -/
def evictedEntry (s : State) (core line : Nat) (who : Nat × W64) : Bool :=
  (s.coreAt core).tent.any fun e => e.line == line && e.marks.contains who

/-- The evicted mark of a core's entry for a line ends. -/
def endEvicted (s : State) (core line : Nat) : State :=
  freeTentEntries
    (s.modCore core fun c => { c with tent := mapIf (fun e => e.line == line) (fun e => { e with marks := [] }) c.tent }) line

/-! ### Writes at the home -/

/-- A write of bytes by an agent that a thread, or none, owns: observation, value, release record, and the core's own L1 line (R164,
R165, R287). -/
def writeAt (s : State) (key n v tkey rel : Nat) (atomic : Bool) (who : Option (Nat × W64)) (ag : Agent) (core : Option Nat) : State :=
  let s := observe s key n who
  let s := noteRelease s key n rel atomic ag
  let s := { homeWrite s key n v tkey with lineOwners := s.lineOwners.filter fun e => e.1 != lineOf key || core == some e.2 }
  match core with
  | some c => dropHere s c (lineOf key)
  | none => s

/-! ### Reads through the L1 (R162, R165) -/

/-- The L1 line of a core that a load may return: not older than 8,192 clk, and for an S page one that the home keeps fresh (R165, R167). -/
def l1Find (s : State) (core line : Nat) (kind : PageKind) : Option L1Line :=
  (s.coreAt core).l1.find? fun e => e.line == line && s.clk < e.filled + Config.l1Life && (kind != .S || e.kind == .S)

/-- The bytes of an L1 line, by the keys under which they were written when it was filled (R367). -/
def lineRead (s : State) (e : L1Line) (key n tkey : Nat) : Nat :=
  sumN ((List.range n).map fun i =>
    (if foreignIn s e.tags (key + i) tkey then (Config.freeWord s.free (key + i)).toNat % 256
     else (memGet e.bytes (key + i)).toNat) * 256 ^ i)

/-- A plain load of bytes by a core: from its L1 when the line stands there, else from the home, which fills the L1 (DESIGN CHOICE,
log 14). -/
def readThrough (s : State) (core key n tkey : Nat) (kind : PageKind) : State × Nat :=
  if isScratchKey key then (s, homeRead s key n tkey)
  else match l1Find s core (lineOf key) kind with
    | some e => if tentLine s (lineOf key) then (s, homeRead s key n tkey) else (s, lineRead s e key n tkey)
    | none => (fillL1 s core (lineOf key) kind, homeRead s key n tkey)

/-! ### Atomic operations (R205) -/

/-- The result of ATOM and RED on a value of a TYPE. -/
def atomOp (ty : BitVec 4) (m v : Nat) : Nat :=
  let a := BitVec.ofNat 32 m
  let b := BitVec.ofNat 32 v
  match ty.toNat with
  | 0 => (m + v) % 2 ^ 32
  | 1 => (if b.toInt < a.toInt then b else a).toNat
  | 2 => (if b.toNat < a.toNat then b else a).toNat
  | 3 => (if a.toInt < b.toInt then b else a).toNat
  | 4 => (if a.toNat < b.toNat then b else a).toNat
  | 5 => (a &&& b).toNat
  | 6 => (a ||| b).toNat
  | 7 => (a ^^^ b).toNat
  | 8 => b.toNat
  | 9 => (fadd32 0#32 a b).toNat
  | 10 => packBits 8 0 false (addVal 0 (unpackBf16 false (a &&& 0xFFFF#32)) (unpackBf16 false (b &&& 0xFFFF#32)))
  | 11 => (fmax32 0#32 a b).toNat
  | 12 => (m + v) % 2 ^ 64
  | _ => v % 2 ^ 64

/-- The contention predictor's counter after an atomic on a line: an atomic at the core moves it up when the line was another core's, and
down when no other agent requests the line; one at the home moves it up when another request is queued (R207). -/
def predictCount (n : Nat) (owned queued : Bool) : Nat :=
  if 2 ≤ n then (if queued then min 3 (n + 1) else n)
  else
    let n := if owned then n + 1 else n
    if queued then n else n - 1

/-- An atomic on a line of HBM: the core's predictor, and the core that owns the line, for an atomic that runs there (R207). It decides
timing only (R208) (DESIGN CHOICE, log 15). -/
def predict (s : State) (core key : Nat) (queued : Bool) : State :=
  if isScratchKey key || keyTier2 ≤ key then s
  else
    let i := (bitsN key 14 7) ^^^ (bitsN key 22 15)
    let n := smGet 0 (s.coreAt core).predictor i
    let owned := match smFind s.lineOwners (lineOf key) with | some c => c != core | none => false
    { s.modCore core fun c => { c with predictor := smSet c.predictor i (predictCount n owned queued) } with
      lineOwners := if n < 2 then smSet s.lineOwners (lineOf key) core else smErase s.lineOwners (lineOf key) }

/-! ### Program order and stalls (R148, R151, R152, R166, R169) -/

/-- The places meet. -/
def Loc.meets (n : Nat) (a : Loc) (m : Nat) (b : Loc) : Bool :=
  match a, b with
  | .mem k, .mem j => overlap k n j m
  | .window c o, .window d p => c == d && overlap o n p m
  | .remote r v, .remote q u => r == q && overlap v.toNat n u.toNat m
  | .desc x t, .desc y u => x == y && t == u
  | _, _ => false

/-- An earlier access of the same thread comes before a later one (R166, R169). -/
def ordered (e a : Access) : Bool :=
  e.loc.meets e.bytes a.bytes a.loc ||
  (e.page == .S && a.page == .S) ||
  (e.page != .U && a.page != .U && (e.sem.getLsbD 0 || a.rel != 0 || e.id < a.fcs)) ||
  e.id < a.fu

/-- An access that is neither performed nor refused. -/
def Access.open (a : Access) : Bool :=
  match a.st with
  | .performed => false
  | .refused _ => false
  | _ => true

/-- An access that is not performed holds another one back: an earlier one of its thread, a lower lane of its word on the same bytes unless
both only read (R148), and one that an edge of its lane puts before it. One that has been refused has no effect and holds nothing back. -/
def blocks (s : State) (e a : Access) : Bool :=
  e.open && e.id < a.id &&
  ((e.w == a.w && e.lane == a.lane && e.wid == a.wid && ordered e a) ||
   (e.grp == a.grp && e.kind != .ld && e.kind != .mwait && e.loc.meets e.bytes a.bytes a.loc) ||
   (a.page != .U && (s.laneAt a.w a.lane).wid == a.wid && edgeBefore (s.laneAt a.w a.lane) a.id e))

/-- A range-scoreboard entry stalls an access (R151, R152): write entries every access, read entries stores. -/
def entryStalls (s : State) (a : Access) : Bool :=
  match a.loc with
  | .mem key =>
    isScratchKey key && ((s.coreAt (keyCore key)).ranges.any fun e =>
      (e.write || (a.kind != .ld && a.kind != .mwait)) &&
      overlap key a.bytes (scratchKey (keyCore key) e.lo) (e.hi - e.lo) &&
      (match s.opOf? e.op with
       | some o => o.born < a.id || o.state == .running
       | none => false))
  | _ => false

/-- A page walk that an access waits for is outstanding, or waits for one to be free (R149). -/
def walking (s : State) (a : Access) : Bool :=
  match a.walk with
  | some p => s.walks.any fun w => w.die == dieOf a.w.core && w.ctx == a.ctx && w.page == p
  | none => false

/-- An access may be performed now, `with_` being performed before it in the same event. -/
def readyAfter (s : State) (with_ : List Nat) (a : Access) : Bool :=
  a.st == .pending && !walking s a && !entryStalls s a && s.accesses.all fun e => with_.contains e.id || !blocks s e a

/-- An access may be performed now. -/
def ready1 (s : State) (a : Access) : Bool := readyAfter s [] a

/-- The loads of one word that read the same bytes as a load; they return one value (R148). -/
def sameLoads (s : State) (a : Access) : List Access :=
  if a.kind == .ld then s.accesses.filter fun b => b.grp == a.grp && b.loc == a.loc && b.bytes == a.bytes && b.st == a.st
  else [a]

/-- The access reaches a scratchpad. -/
def Access.inScratch (a : Access) : Bool := match a.loc with | .mem k => isScratchKey k | _ => false

/-- The other half of a 16-byte access to scratch: both are performed together, so that no copy comes between them (R195). -/
def otherHalf? (s : State) (a : Access) : Option Access :=
  if a.inScratch then
    s.accesses.find? fun b => b.grp == a.grp && b.lane == a.lane && b.wid == a.wid && b.id != a.id && b.st == .pending && b.half != a.half
  else none

/-- An access, the loads that share its value and, of a 16-byte access to scratch, the high half with the low one may be performed now. -/
def canPerform (s : State) (a : Access) : Bool :=
  (sameLoads s a).all (fun b => ready1 s b) &&
  (match otherHalf? s a with
   | none => true
   | some b => a.half && (sameLoads s b).all (readyAfter s ((sameLoads s a).map (·.id))))

/-! ### Windows (R142 to R144, R338 to R340) -/

/-- A 32-bit value with some of its bytes replaced. -/
def patch (old off n v : Nat) : Nat :=
  let lo := 256 ^ off
  old % lo + v % 256 ^ n * lo + old / (lo * 256 ^ n) * (lo * 256 ^ n)

/-- One 32-bit half of a 64-bit value replaced. -/
def setHalf (v : W64) (hi : Bool) (x : Nat) : W64 :=
  if hi then BitVec.ofNat 64 (v.toNat % 2 ^ 32 + x % 2 ^ 32 * 2 ^ 32) else BitVec.ofNat 64 (v.toNat / 2 ^ 32 * 2 ^ 32 + x % 2 ^ 32)

/-- A word of a warp page past the control word written, while its fields are reachable (R339) (DEDUCED, log 69). -/
def writeWarpPage (o v : Nat) (w : Warp) : Warp :=
  if 0x100 ≤ o && o < 0x200 then
    w.modLane ((o - 0x100) / 8) fun l => { l with pc := setHalf l.pc (o % 8 != 0) v, run := 0 }
  else if 0x200 ≤ o && o < 0x600 then
    w.modLane ((o - 0x200) / 4 % 32) fun l => l.write (0x80 + (o - 0x200) / 128) (BitVec.ofNat 32 v)
  else if 0x600 ≤ o && o < 0xA00 then
    w.modLane ((o - 0x600) / 4 % 32) fun l => l.write (0x98 + (o - 0x600) / 128) (BitVec.ofNat 32 v)
  else if 0xA00 ≤ o && o < 0xA80 then
    w.modLane ((o - 0xA00) / 4) fun l => { l with p := BitVec.ofNat 8 (v % 128 + l.p.toNat / 128 * 128) }
  else if 0xD80 ≤ o && o < 0xF80 then
    w.modLane ((o - 0xD80) / 16) fun l =>
      { l with faults := l.faults.filter fun f => !(f.1 / 32 == (o - 0xD80) % 16 / 4 && v / 2 ^ (f.1 % 32) % 2 == 1) }
  else w

/-- A word of the matrix state written (R144); a step counter is at most 16, and a larger byte stores 16 (DESIGN CHOICE, log 97). -/
def writeMatrix (off v : Nat) (m : Matrix) : Matrix :=
  if off < 0x1C0000 then
    let o := (off - 0x1A0000) % 0x10000 / 2
    m.modSeat ((off - 0x1A0000) / 0x10000) fun st =>
      { st with b := smSet (smSet st.b o (signedN 16 v)) (o + 1) (signedN 16 (v / 2 ^ 16)) }
  else if off < 0x1E0000 then
    let i := (off - 0x1C0000) / 8
    let (a, x) := smGet (0, 0) m.narrow i
    let a' := wrapN 48 a
    if off % 8 == 0 then { m with narrow := smSet m.narrow i (signedN 48 (a' / 2 ^ 32 * 2 ^ 32 + v % 2 ^ 32), x) }
    else { m with narrow := smSet m.narrow i (signedN 48 (a' % 2 ^ 32 + v % 2 ^ 16 * 2 ^ 32), signedN 8 (v / 2 ^ 16)) }
  else if off < 0x1E0040 then
    { m with steps := (List.range 4).foldl (fun t i => smSet t (off - 0x1E0000 + i) (min 16 (v / 256 ^ i % 256))) m.steps }
  else if 0x1E1000 ≤ off && off < 0x1E2000 then
    let o := off - 0x1E1000
    m.modSeat (o / 0x800) fun st =>
      if o % 0x800 < 0x400 then
        { st with xb := smSet st.xb (o % 0x800 / 4) (signedN 8 v), mark := smSet st.mark (o % 0x800 / 4) (v / 256 % 2 == 1) }
      else { st with sparse := v % 2 == 1, int8 := v / 2 % 2 == 1 }
  else
    let o := off - 0x1F0000
    m.modSeat (o / 0x4000) fun st =>
      { st with mdata := (List.range 4).foldl (fun t i => smSet t (o % 0x4000 + i) (v / 256 ^ i % 256)) st.mdata }

/-- A 32-bit word of a core's window written (R141 to R144, R338, R339). -/
def writeWinWord (s : State) (core off v : Nat) : State :=
  if off < 0x100000 then
    (match s.warpInSlot? core (off / 0x4000) with
    | none => s
    | some w => s.modLane w.key (off / 4 % 32) fun l => l.write (off / 128 % 128) (BitVec.ofNat 32 v))
  else if off < 0x180000 then { s with mem := memWrite s.mem (scratchKey core (off - 0x100000)) 4 v }
  else if off < 0x190000 then
    s.modCore core fun c => { c with mat := { c.mat with acc := smSet c.mat.acc ((off - 0x180000) / 4) (BitVec.ofNat 32 v) } }
  else if off < 0x200000 then s.modCore core fun c => { c with mat := writeMatrix off v c.mat }
  else if off < 0x300000 then
    (match s.warpInSlot? core ((off - 0x200000) / 0x4000) with
    | none => s
    | some w =>
      let o := (off - 0x200000) % 0x4000
      if o == 0 then writeControl s w.key v
      else if o < 8 then s
      else s.modWarp w.key (writeWarpPage o v))
  else writeCtxCsr s ((off - 0x300000) / 0x400) (0x100 + (off - 0x300000) % 0x400 / 4) (BitVec.ofNat 32 v) true

/-- Words whose bits act when written as 1: bytes that a narrow store does not cover are 0, not the old ones. -/
def actsOnOnes (off : Nat) : Bool :=
  0x200000 ≤ off && off < 0x300000 && ((off - 0x200000) % 0x4000 < 8 || 0xD80 ≤ (off - 0x200000) % 0x4000)

/-- The field of such a word that is no such bit: PATH of a control word (R340). -/
def keptField (s : State) (core off : Nat) : Nat :=
  if (off - 0x200000) % 0x4000 == 0 then
    match s.warpInSlot? core ((off - 0x200000) / 0x4000) with
    | some w => w.ctlPath % 8 * 16
    | none => 0
  else 0

/-- A matrix command of a core that is executing (R143, R144). -/
def State.matrixRuns (s : State) (core : Nat) (p : EngOp → Bool) : Bool :=
  s.ops.any fun o => (s.blockAt o.blk).core == core && o.state == .running && [.mseat, .mmul, .mprom, .mread, .mclr].contains o.kind && p o

/-- The rows that a matrix command names: the first and how many (R250). -/
def rowsNamed (o : EngOp) : Nat × Nat := (bitsN o.gc.toNat 5 0, bitsN o.gc.toNat 12 6 + 1)

/-- A map in which the keys that satisfy `p` have the values that `f` gives: those below `n` that do, and the rest as it was. -/
def refill {α : Type} (m : SMap α) (n : Nat) (p : Nat → Bool) (f : Nat → α) : SMap α :=
  (m.filter fun e => !p e.1) ++ ((List.range n).filter p).map fun i => (i, f i)

/-- Rows whose accumulators are unspecified (R214). -/
def spoilRows (free r0 n : Nat) (m : Matrix) : Matrix :=
  let hit (r : Nat) : Bool := r0 ≤ r && r < r0 + n
  { m with
    narrow := refill m.narrow 16384 (fun i => hit (i / 256)) fun i =>
      (signedN 48 (Config.freeNat free i), signedN 8 (Config.freeNat free (i + 16384)))
    steps := refill m.steps 64 hit fun r => Config.freeNat free (r + 65536) % 17
    acc := refill m.acc 16384 (fun i => hit (i / 256)) fun i => Config.freeWord free i }

/-- A seat whose contents are unspecified (R264). -/
def spoilSeat (free : Nat) : Seat where
  b := (List.range 32768).map fun i => (i, signedN 16 (Config.freeNat free i))
  xb := (List.range 256).map fun i => (i, signedN 8 (Config.freeNat free (i + 32768)))
  mark := (List.range 256).map fun i => (i, Config.freeBit free i)
  sparse := Config.freeBit free 256
  int8 := Config.freeBit free 257
  mdata := (List.range 16384).map fun i => (i, Config.freeNat free (i + 40000) % 256)

/-- A write into the matrix state while a command executes: every later result of the engine is unspecified (R144) (DEDUCED, log 61). -/
def spoilEngine (s : State) (core : Nat) : State :=
  let s := s.modCore core fun c =>
    { c with mat := { spoilRows s.free 0 64 c.mat with seat0 := spoilSeat s.free, seat1 := spoilSeat (s.free + 1) } }
  let hit (o : EngOp) : Bool := (s.blockAt o.blk).core == core && o.state == .running && o.kind == .mmul
  { s with ops := mapIf hit (fun o => { o with acc := Config.freeWord s.free o.born }) s.ops, free := s.free + 1 }

/-- A store of `n` bytes into a core's window (DEDUCED, log 61). -/
def winWrite (s : State) (core off n v : Nat) : State :=
  let s :=
    if n < 4 then
      let w := off / 4 * 4
      writeWinWord s core w (patch (if actsOnOnes w then keptField s core w else (winWord s core w).getD 0) (off % 4) n v)
    else (List.range (n / 4)).foldl (fun s i => writeWinWord s core (off + 4 * i) (v / 2 ^ (32 * i) % 2 ^ 32)) s
  if 0x1C0000 ≤ off && off < 0x200000 && s.matrixRuns core (fun _ => true) then spoilEngine s core else s

/-- What a load of a core's window returns: unspecified for a seat while an MSEAT writes it, and for the rest of the matrix state while a
command executes (R143, R144). -/
def winLoad (s : State) (core off n : Nat) : Nat :=
  if 0x1A0000 ≤ off && off < 0x1C0000 &&
      s.matrixRuns core (fun o => o.kind == .mseat && bitsN o.ga.toNat 8 8 == (off - 0x1A0000) / 0x10000) then freeBytes s.free off n
  else if 0x1C0000 ≤ off && off < 0x200000 && s.matrixRuns core (fun _ => true) then freeBytes s.free off n
  else winRead s core off n

/-! ### One access at its home -/

/-- A result that is to be written to registers stays with its access; any other access is over. -/
def finishAccess (s : State) (a : Access) (r : Nat) : State :=
  if a.flag.isSome then s.modAccess a.id fun b => { b with st := .performed, result := BitVec.ofNat 128 r }
  else { s with accesses := s.accesses.filter fun b => b.id != a.id }

/-- The owner that an access names. -/
def Access.who (a : Access) : Option (Nat × W64) := some (a.ctx, a.wid)

/-- What an acquire does: the core's L1 lines of C and U pages go for a scope of .cl or wider, and the scopes are checked (R162, R169,
R173); nothing on a U page. -/
def acquire (s : State) (a : Access) (key : Nat) : State :=
  if !a.sem.getLsbD 0 || a.page == .U then s
  else
    let s := if 2 ≤ a.scope.toNat then dropL1 s a.w.core else s
    scopeCheck s key a.bytes a.scope.toNat a.agent

/-- The release code of an access: nothing on a U page (R166). -/
def Access.relCode (a : Access) : Nat := if a.page == .U then 0 else a.rel

/-- Bytes of a thread's stack that control entries hold read as unspecified values through the stack window (R160) (DEDUCED, log 75). -/
def hideControl (s : State) (a : Access) (v : Nat) : Nat :=
  match stackOffset a.va.toNat with
  | none => v
  | some o =>
    let es := (s.laneAt a.w a.lane).stk
    sumN ((List.range a.bytes).map fun i =>
      (if es.any fun e => e.off ≤ o + i && o + i < e.off + 16 then (Config.freeWord s.free (o + i)).toNat % 256
       else v / 256 ^ i % 256) * 256 ^ i)

/-- A store through the stack window leaves the control entries that it touches unspecified (R160). -/
def clobberControl (s : State) (a : Access) : State :=
  match stackOffset a.va.toNat with
  | none => s
  | some o => s.modLane a.w a.lane fun l =>
      { l with stk := mapIf (fun e => overlap e.off 16 o a.bytes) (fun e => { e with clobbered := true, anyKind := true }) l.stk }

/-- A read that is performed behind a later FENCE or barrier of its thread drops what the L1 holds, so that no later load of the thread
returns a value older than what this read makes it see (R166, R171). -/
def fencedRead (s : State) (a : Access) : State :=
  let l := s.laneAt a.w a.lane
  if l.wid == a.wid && a.id < max l.fcs l.fu then dropL1 s a.w.core else s

/-- LD at the home, or from the core's L1. An acquire reads at the home, whose release record it checks (R173). -/
def performLd (s : State) (a : Access) (key : Nat) : State :=
  let s := observe s key a.bytes a.who
  let s := acquire s a key
  let s := if a.sem.getLsbD 0 then dropHere s a.w.core (lineOf key) else s
  let (s, v) := readThrough s a.w.core key a.bytes a.tkey a.page
  let s := fencedRead s a
  (sameLoads s a).foldl (fun s b =>
    finishAccess (if b.id == a.id then s else fencedRead (acquire (observe s key b.bytes b.who) b key) b) b (hideControl s b v)) s

/-- A conditional write has been made: it was the next write after the FENCEs before it, which make no later one a release (R171). -/
def spendRel (s : State) (a : Access) : State :=
  let left (fs : List (Nat × Nat)) : List (Nat × Nat) := fs.filter fun f => a.id < f.2
  let hit (b : Access) : Bool := b.w == a.w && b.lane == a.lane && b.wid == a.wid && a.id < b.id
  let s := { s with
    accesses := mapIf hit (fun b => { b with fences := left b.fences, rel := relOf b.kind b.sem b.scope (left b.fences) }) s.accesses }
  s.modLane a.w a.lane fun l => if l.wid == a.wid then { l with frel := left l.frel } else l

/-- ST at the home. -/
def performSt (s : State) (a : Access) (key : Nat) : State :=
  let s := notePhys s key a.bytes
  finishAccess (clobberControl (writeAt s key a.bytes a.data.toNat a.tkey a.relCode false a.who a.agent (some a.w.core)) a) a 0

/-- Another request is queued for the line of an access (R207): of any thread, or of an engine, the host or another device, whose requests
stand in no queue here, so that whether one does is free (DESIGN CHOICE, log 15). -/
def contended (s : State) (a : Access) (key : Nat) : Bool :=
  Config.freeBit s.free (key + 11) || s.accesses.any fun b => b.id != a.id && b.st == .pending &&
    (match b.loc with | .mem k => lineOf k == lineOf key | _ => false)

/-- ATOM, RED and CAS at the home: `f` gives the new value, or none when nothing is written (R205, R206) (DEDUCED, log 73). -/
def performAtom (s : State) (a : Access) (key : Nat) (f : Nat → Option Nat) : State :=
  let s := predict s a.w.core key (contended s a key)
  let s := observe s key a.bytes a.who
  let s := acquire s a key
  let m := hideControl s a (homeRead s key a.bytes a.tkey)
  let s := fencedRead (dropHere s a.w.core (lineOf key)) a
  let s := match f m with
    | some v =>
      let s := notePhys s key a.bytes
      let s := clobberControl (writeAt s key a.bytes v a.tkey a.relCode true a.who a.agent (some a.w.core)) a
      if a.kind == .cas then spendRel s a else s
    | none => s
  finishAccess s a m

/-- STT at the home (R288, R290, R496). -/
def performStt (s : State) (a : Access) (key : Nat) : State :=
  let line := lineOf key
  let ws := wordsIn key a.bytes
  let mine (k : Nat) : Bool := s.tentWords.any fun t => t.key == k && t.ownedBy a.who
  let foreign := s.tentWords.any fun t => ws.contains t.key && !t.ownedBy a.who
  let tent := (s.coreAt a.w.core).tent
  let has := tent.any fun e => e.line == line
  if foreign then finishAccess s a 0
  else if !ws.any mine && !has && Config.tentLines ≤ tent.length then finishAccess s a 0
  else
    let fresh := (ws.filter fun k => !mine k).map fun k =>
      (⟨k, BitVec.ofNat 32 (homeRead s k 4 a.tkey), false, a.ctx, a.wid, some a.w.core⟩ : TentWord)
    let s := { notePhys s key a.bytes with
      tentWords := mapIf (fun t => ws.contains t.key) (fun t => { t with core := some a.w.core }) s.tentWords }
    let s := if has then s else s.modCore a.w.core fun c => { c with tent := c.tent ++ [⟨line, []⟩] }
    let s := spendRel (writeAt s key a.bytes a.data.toNat a.tkey a.relCode false a.who a.agent (some a.w.core)) a
    finishAccess (dropEverywhere { s with tentWords := s.tentWords ++ fresh } line) a 1

/-- RETRACT at the home (R288, R290, R465). -/
def performRetract (s : State) (a : Access) (key : Nat) : State :=
  let line := lineOf key
  let ws := wordsIn key a.bytes
  let s := acquire s a key
  let own := s.tentWords.filter fun t => ws.contains t.key && t.ownedBy a.who
  let gone (t : TentWord) : Bool := ws.contains t.key && t.ownedBy a.who
  if evictedEntry s a.w.core line (a.ctx, a.wid) then
    finishAccess (endTentative (endEvicted (s.setSticky a.ctx stEvicted) a.w.core line) gone line) a 0
  else if own.isEmpty then finishAccess s a 0
  else if own.length != ws.length || own.any (·.observed) then finishAccess (endTentative s gone line) a 0
  else
    let s := own.foldl (fun s t =>
      writeAt s t.key 4 t.old.toNat a.tkey a.relCode false a.who a.agent (some a.w.core)) (notePhys s key a.bytes)
    finishAccess (spendRel (endTentative s gone line) a) a 1

/-- COMMIT at the home (R288, R290, R389). -/
def performCommit (s : State) (a : Access) (key : Nat) : State :=
  let line := lineOf key
  let ws := wordsIn key a.bytes
  let s := if evictedEntry s a.w.core line (a.ctx, a.wid) then endEvicted s a.w.core line else s
  finishAccess (endTentative s (fun t => ws.contains t.key && t.ownedBy a.who) line) a 0

/-- MWAIT reads its word: it ends when the word differs from the value that D held, and parks otherwise (R215, R216). -/
def performMwait (s : State) (a : Access) (key : Nat) : State :=
  let s := observe s key a.bytes a.who
  let m := hideControl s a (homeRead s key a.bytes a.tkey)
  let s := dropHere s a.w.core (lineOf key)
  if m == a.cmp.toNat % 256 ^ a.bytes then s.modAccess a.id fun b => { b with st := .parked }
  else finishAccess (fencedRead (acquire s a key) a) a m

/-- An access to byte storage. -/
def performMem (s : State) (a : Access) (key : Nat) : State :=
  let s := chargeOrdinary (mayEvict s key) key a.bytes
  match a.kind with
  | .ld => performLd s a key
  | .st => performSt s a key
  | .atom => performAtom s a key fun m => some (atomOp a.ty m a.data.toNat)
  | .red => performAtom s a key fun m => some (atomOp a.ty m a.data.toNat)
  | .cas => performAtom s a key fun m => if m == a.cmp.toNat % 256 ^ a.bytes then some a.data.toNat else none
  | .stt => performStt s a key
  | .retract => performRetract s a key
  | .commit => performCommit s a key
  | .mwait => performMwait s a key
  | .tdset => s

/-- What an acquire that reads no release does here: the core's L1 lines of C and U pages go for a scope of .cl or wider (R162, R166). -/
def acquireHere (s : State) (a : Access) : State :=
  if a.sem.getLsbD 0 && a.page != .U && 2 ≤ a.scope.toNat then dropL1 s a.w.core else s

/-- An access to a core's window: a load or a store (R142 to R146). -/
def performWindow (s : State) (a : Access) (core off : Nat) : State :=
  match a.kind with
  | .ld =>
    let v := winLoad s core off a.bytes
    (sameLoads s a).foldl (fun s b => finishAccess (fencedRead (acquireHere s b) b) b v) s
  | _ => finishAccess (winWrite s core off a.bytes a.data.toNat) a 0

/-- ACC of an access's record (R325). -/
def accCode : AccKind → Nat
  | .ld => 1
  | .mwait => 1
  | .st => 2
  | .tdset => 2
  | .atom => 3
  | .cas => 3
  | .red => 3
  | .stt => 4
  | .retract => 4
  | .commit => 4

/-- The rank of the device that an access goes to. -/
def Access.rank (a : Access) : Nat := match a.loc with | .remote r _ => r | _ => 0

/-- The loads of one word that read the same bytes of another device share one request, that of the lowest lane (R148). -/
def sendAccess (s : State) (a : Access) : State :=
  let g := sameLoads s a
  let s := g.foldl (fun s b => s.modAccess b.id fun b => { b with st := .remoteWait }) s
  let b := g.headD a
  sendRemote s a.ctx ⟨b.id, a.bytes, b.rank, b.va, accCode b.kind, b.sem, b.scope⟩

/-- A result that TRAPRET will write: an MWAIT of the interrupted code in a lane of the handler path (R319). -/
def heldForHandler (s : State) (a : Access) : Bool :=
  let w := s.warpAt a.w
  a.kind == .mwait && w.trapMode && a.id < w.trapId && (smGet (3, 0) w.entryState a.lane).1 != 4

/-! ### Refused accesses (R146, R329, R368, R437) -/

/-- An access that another unit may refuse: one to another device, or to a port of the second tier. -/
def Access.mayFail (a : Access) : Bool := match a.loc with | .remote _ _ => true | .mem k => keyTier2 ≤ k && !isScratchKey k | _ => false

/-- The reason with which a request was refused. -/
def Access.refusal (a : Access) : Option Nat :=
  match a.st with
  | .refused c => some c
  | _ => none

/-- Where the lanes of a path stand in the run of a word at an address: where they resume at the word, and after it (R317, R323). -/
structure WordPoint where
  at_ : W64 × W64
  next : W64 × W64
  effs : List RunEff
  deriving DecidableEq, Repr

/-- The point of the word of an access in the run of its path, which waits there or at its end. A lane whose MWAIT is refused when it is asked
again has left the run: the other lanes of its path stay where they are (R447). -/
def wordPoint (p : Path) (a : Access) : WordPoint :=
  let at_ := (a.pc, if a.pc == a.base then 0 else a.base)
  match p.inRun, p.ending with
  | some r, _ =>
    ⟨at_, if (a.pc - r.base).toNat / 8 + 1 < r.words.length then (a.pc + 8, r.base) else (r.addr (r.words.length + 1), 0), r.effs⟩
  | none, some e => ⟨at_, (e.next, 0), e.effs⟩
  | none, none => ⟨at_, (p.pc, p.run), []⟩

/-- The accesses of the refused lanes of a word are over, and their flags count down; the FENCEs before a write that has not been made
still make the next one a release (R171, R173). -/
def dropRefused (s : State) (grp : Nat) (bad : List Access) : State :=
  let lanes := distinct (bad.map (·.lane))
  let left (l : Lane) : List (Nat × Nat) :=
    (bad.filter fun a => a.lane == l.id && a.wid == l.wid).flatMap fun a => a.fences.filter fun f => !l.frel.contains f
  let s := { s with accesses := s.accesses.filter fun a => !(a.grp == grp && lanes.contains a.lane) }
  match bad with
  | [] => s
  | a :: _ => s.modWarp a.w fun w => w.mapLanes (maskOf lanes) fun l =>
      let l := { l with frel := distinct (left l) ++ l.frel }
      match a.flag with
      | some f => l.decFlag f
      | none => l

/-- Every request of a word has its answer: the causes of the refused ones are raised at the word, per lane (R437) (DEDUCED, log 25), those
of the waits of interrupted code once its lanes run again. -/
def settleWord (s : State) (grp : Nat) : State :=
  let mine := s.accesses.filter fun a => a.grp == grp
  let bad := mine.filter fun a => a.refusal.isSome
  if mine.any (fun a => a.st == .remoteWait || (a.st == .pending && a.mayFail)) || bad.any (heldForHandler s) then s
  else match bad with
    | [] => s
    | a :: _ =>
      let s := dropRefused s grp bad
      let w := s.warpAt a.w
      match w.pathOf? a.lane with
      | none => s
      | some p =>
        let pt := wordPoint p a
        let lanes := sortBy id (distinct (bad.map (·.lane)))
        let tl := maskOf lanes
        let fs := lanes.map fun l =>
          let b := (bad.find? fun b => b.lane == l).getD a
          (⟨l, (b.refusal).getD cRange, 0, b.va.toNat, accCode b.kind⟩ : LaneFault)
        let r : Raise :=
          { key := a.w
            ts := a.ts
            cause := (a.refusal).getD cRange
            sub := 0
            tpc := a.pc
            epc := 0
            eseq := 0
            ecls := 0
            ereg := 0
            mask := p.mask
            tl := tl
            faults := fs
            resume := (lanesOf p.mask).map fun l => (l, if tl.getLsbD l then pt.at_ else pt.next)
            effs := pt.effs
            handler := p.handler }
        (raiseLanes s r).1

/-- The refused waits of a warp whose interrupted code runs again are raised. -/
def settleRefused (s : State) (k : WarpKey) : State :=
  (distinct ((s.accesses.filter fun a => a.w == k && a.refusal.isSome).map (·.grp))).foldl settleWord s

/-- The port of the second tier that answers an access with an error (R368). -/
def failedPort? (s : State) (a : Access) : Option Nat :=
  match a.loc with
  | .mem k =>
    let port := (k - keyTier2) / 4096 % 8
    if a.mayFail && (s.cxlDown ++ s.cxlPoison).contains port then some port else none
  | _ => none

/-- An access whose port answers with an error returns no data: RANGE is raised at its word (R146, R368). -/
def failAccess (s : State) (a : Access) (port : Nat) : State :=
  let s := { s with cxlPoison := s.cxlPoison.filter (· != port) }
  settleWord ((sameLoads s a).foldl (fun s b => s.modAccess b.id fun b => { b with st := .refused cRange }) s) a.grp

/-- One access where it goes. -/
def performOne (s : State) (a : Access) : State :=
  match a.loc with
  | .mem key => (match failedPort? s a with | some p => failAccess s a p | none => performMem s a key)
  | .window core off => performWindow s a core off
  | .desc x tid => finishAccess (s.modCtx x fun c => { c with desc := smSet c.desc tid a.wide }) a 0
  | .remote _ _ => sendAccess s a

/-- One access of a thread is performed (R164), with the other half of a 16-byte access to scratch. -/
def performAccess (s : State) (a : Access) : State :=
  let t := performOne s a
  (match otherHalf? s a with | none => t | some b => performOne t b).useFree

end Sys2Proof.Machine
end

