-- ==== Sys2Proof/Machine/Life.lean ====
section
/-!
DEFINITION. The end of warps, blocks and launches (R33, R140, R202, R247, R307, R309).
-/

namespace Sys2Proof.Machine

/-- Blocks of a launch that this device places: those of the clusters of its rank (R306). -/
def launchBlocks (s : State) (l : Launch) : Nat :=
  let c := s.ctxAt l.ctx
  ((List.range l.clusters).filter fun i => i % max 1 c.span == c.rank % max 1 c.span).length * l.ext 1

/-- A launch all of whose blocks on this device have retired answers for this rank (R307). -/
def settleLaunch (s : State) (id : Nat) : State :=
  let l := s.launchAt id
  if l.started && l.liveBlks == 0 && l.placed == launchBlocks s l then
    launchAnswer s id ((s.ctxAt l.ctx).rank % max 1 (s.ctxAt l.ctx).span) true
  else s

/-- A block whose warps have all retired retires: it lets its matrix engine go once no command of it is left (R247), and its launch
counts it (R309) (DEDUCED, log 71). -/
def settleBlock (s : State) (id : Nat) : State :=
  let b := s.blockAt id
  if b.retired || b.saved || s.warps.any fun w => w.blk == id then s
  else
    let s := s.modBlock id fun b => { b with retired := true }
    let s := s.modCore b.core fun c =>
      if c.mat.holder == some id && c.mat.queue.isEmpty then { c with mat := { c.mat with holder := none } } else c
    settleLaunch (s.modLaunch b.launch fun l => { l with liveBlks := l.liveBlks - 1 }) b.launch

/-- The tentative words of some threads have no owner in a core any more, and the entries that these alone held are free (R290). -/
def leaveTent (s : State) (ts : List (Nat × W64)) : State :=
  let s := { s with
    tentWords := mapIf (fun t => ts.contains (t.ctx, t.wid)) (fun t => { t with core := none }) s.tentWords }
  modTent s fun place es => es.filter (entryStands s place)

/-- A warp retires when all its lanes have exited, none is lent, and no lane is parked by a fault; the results of its engine operations in
flight will be discarded (R33). -/
def settleRetire (s : State) (k : WarpKey) : State :=
  match s.warpAt? k with
  | none => s
  | some w =>
    if w.lanes.all (fun l => l.exited && l.helper.isNone) && w.trapReq.isNone then
      let s := leaveTent s (w.lanes.map fun l => (w.ctx, l.wid))
      settleBlock
        ({ s with
          warps := s.warps.filter fun v => v.key != k
          ops := mapIf (fun o => o.w == k && o.blk == w.blk) (fun o => { o with gone := true }) s.ops }.modCtx w.ctx fun c =>
            { c with wdSeen := true }) w.blk
    else s

end Sys2Proof.Machine
end

