-- ==== Sys2Proof/Machine/Engine.lean ====
section
/-!
DEFINITION. Engine commands: future slots, handles and pending registers, range-scoreboard entries, completion and cancellation (R34 to
R37, R151 to R153, R174, R175, R327), descriptors (R101 to R104), FTEST, FWAIT, FCANCEL, TDSET and TDGET (R210 to R214, R408 to R410,
R498 to R501).
-/

namespace Sys2Proof.Machine

/-! ### Slots and handles (R34, R37) -/

/-- CLASS of a command (R34); the handle of an FWAIT has a class that the spec does not give (DEDUCED, log 52). -/
def classOf (free : Nat) : EngKind → Nat
  | .cpy => 0
  | .cpyg => 0
  | .cpyt => 0
  | .mseat => 1
  | .mmul => 1
  | .mprom => 1
  | .mread => 1
  | .mclr => 1
  | .mstat => 1
  | .tqload => 3
  | .tqry => 3
  | .tqfree => 3
  | .ired => 4
  | .launch => 5
  | .fwait => Config.freeNat free 7 % 6
  | _ => 2

/-- The lowest future slot of a core that no command holds. -/
def freeSlot (s : State) (core : Nat) : Nat :=
  ((List.range Config.futures).find? fun i => (s.opAt? core i).isNone).getD 0

/-- A handle (R34). -/
def handleOf (cls slot seq : Nat) : W32 := BitVec.ofNat 32 (cls % 16 * 2 ^ 28 + slot % 4096 * 2 ^ 16 + seq % 2 ^ 16)

/-- A 64-bit raw handle (R212). -/
def rawHandle (core : Nat) (h : W32) : W64 := BitVec.ofNat 64 (2 ^ 63 + core % 256 * 2 ^ 32 + h.toNat)

/-- The done form of a raw handle (R212); its CORE, which the rule does not give, is 0 (DESIGN CHOICE, log 92). -/
def rawDone : W64 := BitVec.ofNat 64 (2 ^ 63 + 0xF0000000)

/-- A reference to a command. -/
def EngOp.ref (o : EngOp) : FutRef := ⟨o.core, o.slot, o.seq⟩

/-- The warp that issued a command, when it is still resident (R33). -/
def opWarp? (s : State) (o : EngOp) : Option Warp :=
  (s.warpAt? o.w).bind fun w => if w.blk == o.blk && !o.gone then some w else none

/-- The warp that issued a command, resident or saved. -/
def opWarpAny? (s : State) (o : EngOp) : Option Warp :=
  match opWarp? s o with
  | some w => some w
  | none =>
    if o.gone then none
    else (s.saved.find? fun x => x.blk == o.blk).bind fun x => x.warps.find? fun w => w.key == o.w

/-- The warp that issued a command changed, resident or saved. -/
def modOpWarp (s : State) (o : EngOp) (f : Warp → Warp) : State :=
  if (opWarp? s o).isSome then s.modWarp o.w f
  else if o.gone then s
  else { s with
    saved := mapIf (fun x => x.blk == o.blk) (fun x => { x with warps := mapIf (fun w => w.key == o.w) f x.warps }) s.saved }

/-- The command has come to its result. -/
def EngOp.over (o : EngOp) : Bool :=
  match o.state with
  | .done _ => true
  | .fault _ => true
  | .stopped => true
  | _ => false

/-- A command as its word issues it. -/
structure Cmd where
  kind : EngKind
  lanes : List Lane
  dst : Nat
  ga : W64
  gb : W64
  gc : W64
  ectl : Nat
  laneArgs : List (Nat × W32 × W32)
  descs : List (BitVec 512)
  fpctl : W32
  deriving DecidableEq, Repr

/-- The command of one lane with nothing but three operands. -/
def laneCmd (kind : EngKind) (l : Lane) (d : Code) (ga gb gc : W64) (ectl : Nat) (descs : List (BitVec 512)) (fp : W32) : Cmd :=
  ⟨kind, [l], d.toNat, ga, gb, gc, ectl, [], descs, fp⟩

/-- The descriptors of a context as a thread sees them at a place of its program order: its own TDSETs that issued before count, performed or
not, and so do those of other threads that an edge puts before it, in their order (R103, R500) (DEDUCED, log 23). -/
def descFile (s : State) (x : Nat) (k : WarpKey) (l before : Nat) : SMap (BitVec 512) :=
  s.accesses.foldl (fun m a =>
    match a.loc with
    | .desc y tid =>
      if a.kind == .tdset && y == x && ((a.w == k && a.lane == l && a.id < before) || edgeBefore (s.laneAt k l) before a) then
        smSet m tid a.wide
      else m
    | _ => m) (s.ctxAt x).desc

/-- The record of a command at its issue. An IRED, whose tid stands in its command, keeps every descriptor as its thread sees it (R103). -/
def newOp (s : State) (c : Cur) (m : Cmd) (slot seq : Nat) : EngOp where
  core := c.key.core
  slot := slot
  seq := seq
  born := s.nextId
  issued := s.clk
  kind := m.kind
  ctx := c.w.ctx
  launch := (s.blockAt c.w.blk).launch
  blk := c.w.blk
  w := c.key
  lanes := maskOf (m.lanes.map (·.id))
  dst := m.dst
  epc := c.pc
  ga := m.ga
  gb := m.gb
  gc := m.gc
  ectl := m.ectl
  laneArgs := m.laneArgs
  descs := m.descs
  fpctl := m.fpctl
  heap := BitVec.ofNat 64 ((s.ctxFor c.key.core c.w.ctx).csr64 0x1A)
  slim := (m.lanes.head?.map (·.slim)).getD 0
  flat := (m.lanes.head?.map (·.flat)).getD 0
  vals := []
  state := .held
  snaps := []
  prog := 0
  acc := 0
  status := 0
  laneSub := []
  sectorsDone := []
  reports := 0
  target := none
  resolved := false
  retained := false
  cancelReq := false
  gone := false
  file :=
    match m.kind, m.lanes with
    | .ired, l :: _ => descFile s c.w.ctx c.key l.id s.nextId
    | _, _ => []
  asked := []
  far := []
  waits := []

/-- A lane receives a handle and its register becomes pending (R34, R36) (DEDUCED, log 53). -/
def takeHandle (d : Nat) (h : W32) (r : FutRef) (l : Lane) : Lane := { l with g := smSet l.g d h, pend := l.pend ++ [(d, r)] }

/-- A command enters a future slot: its handle stands in Gd of its lanes, which are pending (R34). -/
def issueOp (s : State) (c : Cur) (m : Cmd) : State :=
  let core := c.key.core
  let slot := freeSlot s core
  let seq := (smGet 0 (s.coreAt core).seqs slot + 1) % 2 ^ 16
  let o := newOp s c m slot seq
  let s := (s.modCore core fun x => { x with seqs := smSet x.seqs slot seq }).modWarp c.key fun w =>
    w.mapLanes o.lanes (takeHandle m.dst (handleOf (classOf s.free m.kind) slot seq) o.ref)
  let s := modRun s c fun r => { r with slots := r.slots - 1 }
  { s with ops := s.ops ++ [o], nextId := s.nextId + 1 }

/-! ### What a command reads and writes (R138, R146, R151) -/

/-- The parties of a command's accesses: the thread, block and cluster that issued it (R138). -/
def EngOp.who (o : EngOp) : Who := ⟨o.ctx, o.blk, o.slim, o.flat⟩

/-- A 64-bit address `n` bytes on. -/
def vaPlus (va n : Nat) : Nat := (va + n) % 2 ^ 64

/-- The bytes of a range of addresses. -/
def vaRange (va n : Nat) : List Nat := (List.range n).map fun i => vaPlus va i

/-- The scratchpad bytes, as keys, that some addresses reach. -/
def scratchKeys (s : State) (o : EngOp) (vas : List Nat) : List Nat :=
  vas.filterMap fun va =>
    if isAperture va then
      (match placeOf s o.who va 1 .rd with
       | .ok p => (match p.loc with | .mem k => if isScratchKey k then some k else none | _ => none)
       | .error _ => none)
    else none

/-- One entry for each core whose scratch some addresses reach: the bounding range in 32-byte sectors (R151). -/
def entriesFor (s : State) (o : EngOp) (write : Bool) (vas : List Nat) : List (Nat × RangeEntry) :=
  let ks := scratchKeys s o vas
  (distinct (ks.map keyCore)).map fun core =>
    let offs := (ks.filter fun k => keyCore k == core).map fun k => k - scratchKey core 0
    (core, ⟨0, write, minN 0 offs / 32 * 32, (maxN offs / 32 + 1) * 32, o.ref, false⟩)

/-- Entries of a core that are held. -/
def heldEntries (s : State) (core : Nat) : Nat := ((s.coreAt core).ranges.filter (·.granted)).length

/-- The entries that a command still waits for, by core. -/
def wantedOn (s : State) (core : Nat) (r : FutRef) : Nat :=
  ((s.coreAt core).ranges.filter fun e => e.op == r && !e.granted).length

/-- A command that waits for entries takes them when its cores have room for all of them and no earlier command waits there (R151). -/
def grantTo (s : State) (o : EngOp) : State :=
  let cores := (s.cores.filter fun c => c.ranges.any fun e => e.op == o.ref && !e.granted).map (·.id)
  let free := cores.all fun c =>
    heldEntries s c + wantedOn s c o.ref ≤ Config.rangeEntries &&
    s.ops.all fun q => !(q.born < o.born && 0 < wantedOn s c q.ref)
  if free then
    let mine (e : RangeEntry) : Bool := e.op == o.ref
    let give (e : RangeEntry) : RangeEntry := { e with granted := true }
    let on (c : Core) : Core := { c with ranges := mapIf mine give c.ranges }
    let go (q : EngOp) : EngOp := if q.state == OpState.entries then { q with state := .running } else q
    { s with cores := s.cores.map on }.modOp o.core o.slot go
  else s

/-- Every command that waits for entries tries to take them, in issue order. -/
def grantAll (s : State) : State := (sortBy (fun o : EngOp => o.born) s.ops).foldl grantTo s

/-- A command asks for its entries, one for each group of addresses that it reads, or writes, in a core's scratch: it counts from here as
holding them (R151). -/
def askGroups (s : State) (o : EngOp) (gs : List (Bool × List Nat)) : State :=
  let es := gs.flatMap fun g => entriesFor s o g.1 g.2
  if es.isEmpty then s
  else
    let s := es.foldl (fun s e =>
      { s.modCore e.1 fun c => { c with ranges := c.ranges ++ [{ e.2 with id := s.nextId }] } with nextId := s.nextId + 1 }) s
    grantTo s o

/-- What a command reads and what it writes, as two groups. -/
def twoGroups (r : List Nat × List Nat) : List (Bool × List Nat) := [(false, r.1), (true, r.2)]

/-- A command asks for one entry for what it reads and one for what it writes (R151). -/
def askEntries (s : State) (o : EngOp) (reads writes : List Nat) : State := askGroups s o (twoGroups (reads, writes))

/-- Every entry of a command is held. -/
def entriesHeld (s : State) (o : EngOp) : Bool :=
  s.cores.all fun c => c.ranges.all fun e => e.op != o.ref || e.granted

/-- A command's entries retire, and others take their place (R153). -/
def dropEntries (s : State) (r : FutRef) : State :=
  if s.cores.any fun c => c.ranges.any fun e => e.op == r then
    grantAll { s with cores := s.cores.map fun c => { c with ranges := c.ranges.filter fun e => e.op != r } }
  else s

/-- A command has read every byte that it reads: its read entries retire (R153). -/
def dropReads (s : State) (r : FutRef) : State :=
  if s.cores.any fun c => c.ranges.any fun e => e.op == r && !e.write then
    grantAll { s with cores := s.cores.map fun c => { c with ranges := c.ranges.filter fun e => e.op != r || e.write } }
  else s

/-- A command has read every byte of one of the ranges that it reads: the entry of that range retires (R153). -/
def dropRead (s : State) (o : EngOp) (vas : List Nat) : State :=
  (entriesFor s o false vas).foldl (fun s e =>
    let mine (x : RangeEntry) : Bool := x.op == o.ref && !x.write && x.lo == e.2.lo && x.hi == e.2.hi
    match (s.coreAt e.1).ranges.find? mine with
    | none => s
    | some x => grantAll (s.modCore e.1 fun c => { c with ranges := c.ranges.filter fun y => y.id != x.id })) s

/-- The last command that was issued. -/
def lastOp? (s : State) : Option EngOp := s.ops.getLast?

/-- An engine word that sends one command per executing lane, in ascending lane order (R469): `mk` makes a lane's command and
`ranges` the groups of addresses that it reads and writes. -/
def laneEngine (i : Instr) (h : Hdr) (mk : State → Cur → Lane → Cmd) (ranges : State → EngOp → List (Bool × List Nat)) (s : State) : State :=
  runWord i s fun s c =>
    advance ((active s c h).foldl (fun t l =>
      let t := issueOp t c (mk s c l)
      match lastOp? t with
      | none => t
      | some o => askGroups t o (ranges t o)) s) c

/-- No scratch is read or written. -/
def noRanges (_ : State) (_ : EngOp) : List (Bool × List Nat) := []

/-! ### Descriptors (R101 to R104) -/

/-- A descriptor as a lane of the issuing word sees it. -/
def descFor (s : State) (c : Cur) (l : Lane) (tid : Nat) : BitVec 512 :=
  smGet 0 (descFile s c.w.ctx c.key l.id s.nextId) (tid % 256)

/-- BASE. -/
def dBase (d : BitVec 512) : Nat := recF d 63 0
/-- FMT. -/
def dFmt (d : BitVec 512) : Nat := recF d 71 64
/-- Extent of dimension i. -/
def dExt (d : BitVec 512) (i : Nat) : Nat := recF d (127 + 32 * i) (96 + 32 * i)
/-- Stride of dimension i; that of dimension 0 is 1. -/
def dStr (d : BitVec 512) (i : Nat) : Nat := if i == 0 then 1 else recF d (255 + 32 * (i - 1)) (224 + 32 * (i - 1))
/-- SCALE. -/
def dScale (d : BitVec 512) : Nat := recF d 383 320
/-- ZPT. -/
def dZpt (d : BitVec 512) : Nat := recF d 447 384
/-- The scale block: SBLK, or GSZ for INT4; 0 means 32. -/
def dBlock (d : BitVec 512) : Nat :=
  let v := if dFmt d == 4 then recF d 87 80 else recF d 79 72
  if v == 0 then 32 else v

/-- Bytes of an element; INT4 counts as one for alignment (R104). -/
def fmtBytes (f : Nat) : Nat :=
  match f with
  | 0 => 4
  | 1 => 2
  | 5 => 4
  | _ => 1

/-- A listed value of SBLK and GSZ. -/
def blockOk (v : Nat) : Bool := [0, 8, 16, 32, 64, 128].contains v

/-- A descriptor that an engine accepts (R104). -/
def descOk (d : BitVec 512) : Bool :=
  dFmt d < 8 && [0, 1, 2, 3].all (fun i => 1 ≤ dExt d i) && dBase d < 2 ^ 57 && dBase d % fmtBytes (dFmt d) == 0 &&
    blockOk (recF d 79 72) && blockOk (recF d 87 80) && recF d 95 88 == 0 && recF d 511 448 == 0 &&
    (dFmt d != 4 || (dScale d != 0 && dZpt d != 0))

/-- Elements of a tensor. -/
def dCount (d : BitVec 512) : Nat := dExt d 0 * dExt d 1 * dExt d 2 * dExt d 3

/-- Indices of the element at a flat position (R269). -/
def flatIdx (d : BitVec 512) (j : Nat) : Nat × Nat × Nat × Nat :=
  (j % dExt d 0, j / dExt d 0 % dExt d 1, j / (dExt d 0 * dExt d 1) % dExt d 2, j / (dExt d 0 * dExt d 1 * dExt d 2))

/-- Index of an element (R102). -/
def elemIdx (d : BitVec 512) (i : Nat × Nat × Nat × Nat) : Nat :=
  i.1 + i.2.1 * dStr d 1 + i.2.2.1 * dStr d 2 + i.2.2.2 * dStr d 3

/-- Address of an element's first byte (R102). -/
def elemVa (d : BitVec 512) (i : Nat × Nat × Nat × Nat) : Nat :=
  if dFmt d == 4 then vaPlus (dBase d) (elemIdx d i / 2) else vaPlus (dBase d) (elemIdx d i * fmtBytes (dFmt d))

/-- Index of an element's scale (R102). -/
def scaleIdx (d : BitVec 512) (i : Nat × Nat × Nat × Nat) : Nat :=
  i.1 / dBlock d + ceilDiv (dExt d 0) (dBlock d) * (i.2.1 + dExt d 1 * (i.2.2.1 + dExt d 2 * i.2.2.2))

/-- An element lies within the extents. -/
def inExt (d : BitVec 512) (i : Nat × Nat × Nat × Nat) : Bool :=
  i.1 < dExt d 0 && i.2.1 < dExt d 1 && i.2.2.1 < dExt d 2 && i.2.2.2 < dExt d 3

/-! ### The fork (R175, R411) -/

/-- An access that a command's fork waits for: of its lanes, issued before it and not performed. Every store counts, a load or an MWAIT on a
C or S page, one on a U page only behind a FENCE, and what an edge of a lane puts before it (DEDUCED, log 21). -/
def forkWaits (s : State) (o : EngOp) (a : Access) : Bool :=
  let pages (l : Lane) : Bool := a.page != .U || a.id < l.fu
  let lane (l : Nat) : Lane := match opWarpAny? s o with | some w => w.laneAt l | none => s.laneAt o.w l
  a.id < o.born && a.open &&
  ((a.w == o.w && o.lanes.getLsbD a.lane && ((a.kind != .ld && a.kind != .mwait) || pages (lane a.lane))) ||
   (lanesOf o.lanes).any fun l => edgeBefore (lane l) o.born a)

/-- Memory as a command will find it when its fork lets it go, with the plain stores that the fork waits for (R175). -/
def forkedMem (s : State) (o : EngOp) : State :=
  { s with
    mem := (s.accesses.filter fun a => a.kind == .st && forkWaits s o a).foldl (fun m a =>
      match a.loc with
      | .mem k => memWrite m k a.bytes a.data.toNat
      | _ => m) s.mem }

/-! ### Bytes that an engine reads and writes (R164, R175, R287, R329, R354) -/

/-- The stack of the issuing thread holds a control entry at an offset (R160). -/
def ctlAt (s : State) (o : EngOp) (off : Nat) : Bool :=
  match opWarpAny? s o with
  | none => false
  | some w => (w.laneAt (lowLane o.lanes)).stk.any fun e => e.off ≤ off && off < e.off + 16

/-- A byte as an engine reads it at its place: unspecified where a control entry stands in the stack window (R160), and in the memory of
another device, which is not known here (DEDUCED, log 55). -/
def engByte (s : State) (o : EngOp) (va : Nat) (p : Place) : Nat :=
  let any := (Config.freeWord s.free va).toNat % 256
  match p.stk with
  | some off => if ctlAt s o off then any else (match p.loc with | .mem k => homeRead s k 1 p.tkey | _ => any)
  | none =>
    match p.loc with
    | .mem k => homeRead s k 1 p.tkey
    | .window c off => winLoad s c off 1
    | _ => any

/-- The number in `n` bytes that an engine reads at an address. -/
def engRead (s : State) (o : EngOp) (va n : Nat) : Except Nat Nat :=
  (vaRange va n).zipIdx.foldlM (fun v b =>
    match placeOf s o.who b.1 1 .rd with
    | .error e => .error e.1
    | .ok p => .ok (v + engByte s o b.1 p * 256 ^ b.2)) 0

/-- The keys of byte storage that some addresses reach for an engine. -/
def engKeys (s : State) (o : EngOp) (need : Need) (vas : List Nat) : List Nat :=
  vas.filterMap fun va =>
    match placeOf s o.who va 1 need with
    | .ok p => (match p.loc with | .mem k => some k | _ => none)
    | .error _ => none

/-- Ordinary traffic of an engine: each block of 64 bytes that some keys touch is charged once (R278). -/
def chargeBlocks (s : State) (keys : List Nat) : State :=
  (distinct (keys.map (· / 64))).foldl (fun s b => chargeOrdinary s (64 * b) 1) s

/-- Bytes that an engine reads set the observed bits of tentative words and are charged to their stacks (R278, R287). -/
def engObserve (s : State) (o : EngOp) (vas : List Nat) : State :=
  let ks := engKeys s o .rd vas
  chargeBlocks (ks.foldl (fun s k => observe s k 1 none) s) ks

/-- The rank of the device in whose memory a byte lies that a command reads or writes. -/
def farRank? (s : State) (o : EngOp) (need : Need) (va : Nat) : Option Nat :=
  match placeOf s o.who va 1 need with
  | .ok p => (match p.loc with | .remote r _ => some r | _ => none)
  | .error _ => none

/-- The requests to other devices for some addresses, each of `n` bytes: one for each 32-byte sector of a device, with its key among those
that the command has asked for (R364) (DEDUCED, log 55). -/
def farReqs (s : State) (o : EngOp) (write : Bool) (n : Nat) (vas : List Nat) : List (Nat × OutReq) :=
  let far := vas.filterMap fun va => (farRank? s o (if write then .wr else .rd) va).map fun r => (r, va)
  (distinct (far.map fun f => (f.1, f.2 / 32))).map fun k =>
    let mine := (far.filter fun f => f.1 == k.1 && f.2 / 32 == k.2).map (·.2)
    (2 * k.2 + (if write then 1 else 0), ⟨0, n * mine.length, k.1, BitVec.ofNat 64 (minN 0 mine), if write then 2 else 1, 0, 4⟩)

/-- What a step of a command leaves where a port of the second tier has answered a request of it with an error (R368). -/
def metPorts (o : EngOp) (vas : List Nat) (t : State) : State :=
  match t.opOf? o.ref with
  | none => t
  | some q =>
    if (q.state == .fault cRange && o.state != .fault cRange) || q.laneSub.any fun e => e.2 == cRange && !o.laneSub.contains e then
      noteErrors t o.ctx vas
    else t

/-- A step of a command that touches bytes, as groups: whether it writes them, in pieces of how many bytes, and their addresses. One that
touches bytes of other devices goes on once these have taken its requests (R329). -/
def farGate (s : State) (o : EngOp) (touch : List (Bool × Nat × List Nat)) (go : State) : State :=
  if !o.far.isEmpty then s
  else
    let rs := (touch.flatMap fun t => farReqs s o t.1 t.2.1 t.2.2).filter fun r => !o.asked.contains r.1
    if rs.isEmpty then metPorts o (touch.flatMap fun t => t.2.2) go
    else
      let t := rs.zipIdx.foldl (fun t r => sendRemote t o.ctx { r.1.2 with id := s.nextId + r.2 }) s
      ({ t with nextId := s.nextId + rs.length } : State).modOp o.core o.slot fun q =>
        { q with asked := q.asked ++ rs.map (fun r => r.1), far := (List.range rs.length).map fun i => s.nextId + i }

/-- The requests of a command on some addresses have been sent and answered. -/
def farDone (s : State) (o : EngOp) (write : Bool) (n : Nat) (vas : List Nat) : Bool :=
  o.far.isEmpty && (farReqs s o write n vas).all fun r => o.asked.contains r.1

/-- Where a byte that an engine writes goes. -/
def engPlace (s : State) (o : EngOp) (va : Nat) : Except Nat Place :=
  match placeOf s o.who va 1 .wr with
  | .error e => .error e.1
  | .ok p => .ok p

/-- A write through the stack window leaves a control entry of the issuing thread unspecified (R160). -/
def engClobber (s : State) (o : EngOp) (p : Place) : State :=
  match p.stk with
  | none => s
  | some off =>
    modOpWarp s o fun w => w.modLane (lowLane o.lanes) fun l =>
      { l with stk := mapIf (fun e => e.off ≤ off && off < e.off + 16) (fun e => { e with clobbered := true, anyKind := true }) l.stk }

/-- One byte that an engine writes; an engine operation acts at .dv (R161). -/
def engWriteByte (s : State) (o : EngOp) (p : Place) (b : Nat) : State :=
  match p.loc with
  | .mem k => writeAt (engClobber s o p) k 1 b p.tkey 0 false none ⟨o.ctx, none, none, none, none, true, true⟩ none
  | .window c off => winWrite s c off 1 b
  | _ => s

/-! ### Completion (R35, R36, R153, R156, R212, R213, R327, R349, R354) -/

/-- A watch report as its record (R349). -/
def reportRec (r : DueReport) (skid : Nat) : Nat :=
  r.addr.toNat % 2 ^ 57 * 2 ^ 199 + r.seq.toNat * 2 ^ 113 + r.bytes.toNat * 2 ^ 97 + skid % 2 ^ 16 * 2 ^ 81 + r.ts % 2 ^ 40 * 2 ^ 41 +
    r.src.toNat % 2 ^ 8 * 2 ^ 33 + r.core % 256 * 2 ^ 25 + r.wslot % 64 * 2 ^ 19 + r.lane % 32 * 2 ^ 14 + r.kind % 4 * 2 ^ 8 +
    14 * 2 ^ 3 + r.acc % 8

/-- The source number of a watch report: the copy engine of its core, or its link port (R351). -/
def DueReport.source (r : DueReport) : Nat := if r.kind == 2 then 2064 + r.src.toNat % 8 else r.core * 8 + 4

/-- The due reports of an owner are written. -/
def flushReports (s : State) (owner skid : Nat) : State :=
  let due := s.reports.filter fun r => r.owner == owner
  due.foldl (fun s r => writeRecord s r.ctx r.ts r.source (reportRec r skid)) { s with reports := s.reports.filter fun r => r.owner != owner }

/-- The result in a lane of a resolved command. -/
def laneResult (o : EngOp) (l : Nat) : Option W32 :=
  match o.state with
  | .done vs => if (smFind o.laneSub l).isSome then none else some (match smFind vs l with | some v => v | none => (vs.head?.map (·.2)).getD 0)
  | .stopped => some 0xFFFFFFFF#32
  | _ => none

/-- The sub-cause in a lane of a faulted command. -/
def laneFault (o : EngOp) (l : Nat) : Nat :=
  match o.state with
  | .fault c => c
  | _ => (smFind o.laneSub l).getD 0

/-- A command's result, or its fault, reaches a lane's register, which is no longer pending (R35, R327) (DEDUCED, log 51). -/
def landResult (free : Nat) (o : EngOp) (l : Lane) : Lane :=
  let pend := l.pend.filter fun e => !(e.1 == o.dst && e.2 == o.ref)
  match laneResult o l.id with
  | some v => { l with g := smSet l.g o.dst v, pend := pend }
  | none =>
    { l with
      g := smSet l.g o.dst (Config.freeWord free (o.dst + 256 * l.id))
      pend := pend
      faults := smSet l.faults o.dst ⟨laneFault o l.id, o.epc, o.seq, classOf free o.kind⟩ }

/-- What an FWAIT on a command resolves to (R213). -/
def waitState (o : EngOp) (q : EngOp) : OpState :=
  match laneResult o (lowLane q.lanes) with
  | some v => .done ((lanesOf q.lanes).map fun l => (l, v))
  | none => .fault (laneFault o (lowLane q.lanes))

/-- FWAITs on a command resolve with it. -/
def wakeWaiters (s : State) (o : EngOp) : State :=
  { s with
    ops := mapIf (fun q => q.kind == .fwait && q.target == some o.ref && !q.over) (fun q => { q with state := waitState o q }) s.ops }

/-- The completion of a command waits in its slot while its block is saved (R37). -/
def opHeld (s : State) (o : EngOp) : Bool := (s.blockAt o.blk).saved

/-- Every access of the threads of a LAUNCH is performed: its completion is the join over them (R309). -/
def launchDrained (s : State) (o : EngOp) : Bool :=
  o.kind != .launch || s.launches.all fun l => l.fut != some o.ref || s.accesses.all fun a => a.launch != l.id || a.st == .performed

/-- A command has its result and may hand it on. -/
def EngOp.ended (s : State) (o : EngOp) : Bool := o.over && launchDrained s o

/-- The core whose matrix engine serves a command: that of its block (R247, R263). -/
def engCore (s : State) (o : EngOp) : Nat := (s.blockAt o.blk).core

/-- The matrix state of the block of a command changed, in its core's engine or where it is saved. -/
def modEngine (s : State) (o : EngOp) (f : Matrix → Matrix) : State :=
  if (s.blockAt o.blk).saved then
    { s with saved := mapIf (fun x => x.blk == o.blk) (fun x => { x with mat := x.mat.map f }) s.saved }
  else if (s.coreAt (engCore s o)).mat.holder == some o.blk then s.modCore (engCore s o) fun c => { c with mat := f c.mat }
  else s

/-- What a stopped matrix command leaves: the accumulator rows that it names are unspecified (R214). Of a seat the rule says nothing: one
that the command was writing is unspecified, any other stays (DESIGN CHOICE, log 106). -/
def spoilStopped (s : State) (o : EngOp) : State :=
  if [EngKind.mmul, .mprom, .mclr, .mread].contains o.kind then modEngine s o (spoilRows s.free (rowsNamed o).1 (rowsNamed o).2)
  else if o.kind == .mseat && o.state == .running then
    modEngine s o fun m => m.modSeat (bitsN o.ga.toNat 8 8) fun _ => spoilSeat s.free
  else s

/-- A matrix slot of the warp of a command is emptied; the MMUL that it held ends as given (R156, R214). -/
def disarm (s : State) (o : EngOp) (slot : Nat) (how : OpState) : State :=
  match (opWarpAny? s o).bind fun w => smFind w.mq slot with
  | none => s
  | some r =>
    let s := modOpWarp s o fun w => { w with mq := smErase w.mq slot }
    let s := match s.ops.find? fun q => q.ref == r && q.state == .armed && how == .stopped with
      | some q => spoilStopped s q
      | none => s
    { s with ops := mapIf (fun q => q.ref == r && q.state == .armed) (fun q => { q with state := how }) s.ops }

/-- The command with a number. -/
def State.opBorn? (s : State) (b : Nat) : Option EngOp := s.ops.find? fun o => o.born == b

/-- A matrix command leaves the engine; a block that has retired lets the engine go with its last command (R247). -/
def leaveMatrix (s : State) (o : EngOp) : State :=
  s.modCore (engCore s o) fun c =>
    let q := c.mat.queue.filter (· != o.born)
    let gone := q.isEmpty && (match c.mat.holder with | some b => (s.blockAt b).retired | none => false)
    { c with
      mat :=
        { c.mat with
          queue := q
          waiting := c.mat.waiting.filter (· != o.born)
          holder := if gone then none else c.mat.holder } }

/-- A command that is over leaves: entries, stacks, engine, reports, waiters, registers and L1 lines of the join, then its slot unless it is
retained (R35, R153, R175, R212, R354) (DEDUCED, log 54). -/
def landOp (s : State) (o : EngOp) : State :=
  let s := flushReports (dropEntries s o.ref) o.born 0
  let s := (s.hbm.filter fun k => k.fifo.any fun i => i.op == o.ref).foldl (fun s k => settleStack s k.id) s
  let s := wakeWaiters (leaveMatrix s o) o
  let s := match opWarp? s o with
    | none => s
    | some w => dropL1 (s.modWarp w.key fun w => w.mapLanes o.lanes (landResult s.free o)) w.key.core
  { s with
    ops := (s.ops.filter fun q => q.ref != o.ref || q.retained).map fun q =>
      if q.ref == o.ref then { q with resolved := true } else q }

/-- A command is stopped (R214); a copy that would fire a slot disarms it (R156), but one of those that several lanes gave leaves the slot
untouched (R394). -/
def stopOp (s : State) (o : EngOp) : State :=
  let s := s.modOp o.core o.slot fun q => { q with state := .stopped }
  let s := if (o.kind == .cpyt || o.kind == .cpyg) && o.ectl % 2 == 1 && o.ectl / 8 % 2 == 0 then disarm s o (o.ectl / 2 % 4) (.fault sAborted) else s
  (spoilStopped s o).useFree

/-! ### FTEST, FWAIT, FCANCEL (R210 to R214, R408 to R410) -/

/-- A register of a lane, or of its recruiter, is pending. -/
def isPending (s : State) (l : Lane) (a : Code) : Bool := (gLane s l).pend.any fun e => e.1 == a.toNat

/-- The command for which a register is pending. -/
def pendRef? (s : State) (l : Lane) (a : Code) : Option FutRef :=
  (((gLane s l).pend.filter fun e => e.1 == a.toNat).getLast?).map (·.2)

/-- FTEST: true when Ga is not pending (R211). -/
def execFtest (h : Hdr) (d a : Code) (s : State) : Host.Outcome State Fault Refusal :=
  .next (fixWord (.ftest h d a) h 2 (fun s l => oneP d (!isPending s l a)) s)

/-- The raw handle that FTEST.raw writes (R212). -/
def rawOf (s : State) (l : Lane) (a : Code) : W64 :=
  match pendRef? s l a with
  | none => rawDone
  | some r =>
    match s.opOf? r with
    | none => rawDone
    | some o => rawHandle o.core (handleOf (classOf s.free o.kind) o.slot o.seq)

/-- Slots are retained (R212). -/
def retain (s : State) (rs : List FutRef) : State :=
  { s with ops := mapIf (fun o => rs.contains o.ref) (fun o => { o with retained := true }) s.ops }

/-- FTEST.raw (R212). -/
def execFtestRaw (h : Hdr) (d a : Code) (s : State) : Host.Outcome State Fault Refusal :=
  .next (runWord (.ftestRaw h d a) s fun s c =>
    let act := active s c h
    let vals := act.flatMap fun l => (pair d (rawOf s l a)).map fun v => (l.id, v)
    advance (putFix (retain s (act.filterMap fun l => pendRef? s l a)) c 2 vals) c)

/-- The retained slot that a raw handle names in a context (R213, R409). -/
def rawTarget? (s : State) (x : Nat) (v : W64) : Option EngOp :=
  let h := v.toNat % 2 ^ 32
  if !v.getLsbD 63 || h == 0xF0000000 || (6 ≤ h / 2 ^ 28 && h / 2 ^ 28 < 15) || bitsN v.toNat 62 40 != 0 then none
  else s.ops.find? fun o =>
    o.core == bitsN v.toNat 39 32 && o.slot == bitsN h 27 16 && o.seq == h % 2 ^ 16 && o.retained && o.ctx == x

/-- FWAIT: it takes a slot and a pending register as other engine words do (R213). -/
def execFwait (h : Hdr) (d a : Code) (s : State) : Host.Outcome State Fault Refusal :=
  .next (laneEngine (.fwait h d a) h (fun s c l => laneCmd .fwait l d (rd64 s l a) 0 0 0 [] (pathFpctl s c h)) noRanges s)

/-- An FWAIT reads its handle: the done form resolves to 0, a retained slot to that command's outcome, anything else to BADHANDLE (R213). -/
def beginWait (s : State) (o : EngOp) : State :=
  if o.ga.getLsbD 63 && bitsN o.ga.toNat 62 40 == 0 && o.ga.toNat % 2 ^ 32 == 0xF0000000 then
    s.modOp o.core o.slot fun q => { q with state := .done ((lanesOf q.lanes).map fun l => (l, 0#32)) }
  else match rawTarget? s o.ctx o.ga with
    | none => s.modOp o.core o.slot fun q => { q with state := .fault sBadhandle }
    | some t =>
      if t.ended s then s.modOp o.core o.slot fun q => { q with state := waitState t q, target := some t.ref }
      else s.modOp o.core o.slot fun q => { q with state := .running, target := some t.ref }

/-- A matrix command waits behind another block that holds the engine of its core (R247). -/
def behindOther (s : State) (o : EngOp) : Bool :=
  [EngKind.mseat, .mmul, .mprom, .mread, .mclr].contains o.kind && o.state == .queued && !opHeld s o &&
  (match (s.coreAt (engCore s o)).mat.holder with | some b => b != o.blk | none => false)

/-- A command is asked to stop (R214): an armed one stops at once (R156), and so does one of the matrix engine that waits behind another
block, which then touches no state (R409). -/
def askStop (s : State) (r : FutRef) : State :=
  match s.opOf? r with
  | none => s
  | some o =>
    if o.over then s
    else if o.state == .armed then
      match (opWarpAny? s o).bind fun w => w.mq.find? fun e => e.2 == r with
      | some e => (disarm s o e.1 .stopped).useFree
      | none => s.modOp o.core o.slot fun q => { q with state := .stopped }
    else if behindOther s o then s.modOp o.core o.slot fun q => { q with state := .stopped }
    else s.modOp o.core o.slot fun q => { q with cancelReq := true }

/-- FCANCEL (R214). -/
def execFcancel (h : Hdr) (a : Code) (s : State) : Host.Outcome State Fault Refusal :=
  .next (runWord (.fcancel h a) s fun s c =>
    advance (((active s c h).filterMap fun l => pendRef? s l a).foldl askStop s) c)

/-- A retained slot is let go: at once when its command has resolved, else with its completion (R214). -/
def letGo (s : State) (r : FutRef) : State :=
  { s with
    ops := (s.ops.filter fun o => !(o.ref == r && o.resolved)).map fun o =>
      if o.ref == r then { o with retained := false } else o }

/-- FCANCEL.raw (R214). -/
def execFcancelRaw (h : Hdr) (a : Code) (s : State) : Host.Outcome State Fault Refusal :=
  .next (runWord (.fcancelRaw h a) s fun s c =>
    let rs := ((active s c h).filterMap fun l => rawTarget? s c.w.ctx (rd64 s l a)).map EngOp.ref
    advance (rs.foldl (fun s r => letGo (askStop s r) r) s) c)

/-! ### TDSET, TDGET (R498 to R501) -/

/-- The descriptor in 16 registers of a lane. -/
def groupDesc (s : State) (l : Lane) (b : Code) : BitVec 512 :=
  BitVec.ofNat 512 (sumN ((List.range 16).map fun i => (rdAt s l b i).toNat * 2 ^ (32 * i)))

/-- What a TDSET is in the memory system: a store to an S page at .dv (R499). -/
def tdsetForm : MemForm where
  kind := .tdset
  need := .wr
  acc := 2
  bytes := 64
  fld := ⟨0, 4, 0, 0, 0⟩
  dst := 0
  flagged := false
  store := false
  atomic := false
  tent := false

/-- TDSET: a store of each executing lane to its descriptor, in ascending lane order; it checks nothing (R499). -/
def execTdset (h : Hdr) (a b : Code) (s : State) : Host.Outcome State Fault Refusal :=
  .next (runWord (.tdset h a b) s fun s c =>
    let as := numberFrom s.nextId ((active s c h).map fun l =>
      { newAccess s c tdsetForm l ⟨.desc c.w.ctx ((rd s l a).toNat % 256), .S, 0, none, none⟩ 0 with
        rel := 0
        wide := groupDesc s l b })
    advance { s with accesses := s.accesses ++ as, nextId := s.nextId + as.length } c)

/-- An earlier acquire of a lane is not yet performed; what happens-before it comes before a TDGET behind it (R166, R500). -/
def acquireOpen (s : State) (c : Cur) (l : Lane) : Bool :=
  s.accesses.any fun a => a.w == c.key && a.lane == l.id && a.wid == l.wid && a.sem.getLsbD 0 && a.page != .U && a.open

/-- TDGET (R500); it waits for the acquires before it. -/
def execTdget (h : Hdr) (d a : Code) (s : State) : Host.Outcome State Fault Refusal :=
  .next (runWord (.tdget h d a) s fun s c =>
    if (active s c h).any (acquireOpen s c) then popIssue s else
    let vals := (active s c h).flatMap fun l =>
      let t := descFor s c l (rd s l a).toNat
      (List.range 16).map fun i => (l.id, d.toNat + i, BitVec.ofNat 32 (recF t (32 * i + 31) (32 * i)))
    advance (putFix s c 4 vals) c)

end Sys2Proof.Machine
end

