-- ==== Sys2Proof/Machine/Copy.lean ====
section
/-!
DEFINITION. The copy engine: CPY, CPYT and CPYG, their argument checks, the bytes that they move, their sector writes with watch reports,
and their status words (R153 to R156, R174, R349, R354, R392 to R395).
-/

namespace Sys2Proof.Machine

/-! ### Issue (R392) -/

/-- ECTL of a copy with a matrix slot; bit 3 is the model's: .mq stands in more than one lane (R394). -/
def mqCtl (mq : Bool) (slot : BitVec 2) (many : Bool) : Nat :=
  (if mq then 1 else 0) + 2 * slot.toNat + (if mq && many then 8 else 0)

/-- The command of one lane of a copy: three 32-bit registers and the two descriptors, read at issue (R103). -/
def copyCmd (kind : EngKind) (d : Code) (ga gb gc : W32) (src dst ectl : Nat) (s : State) (c : Cur) (l : Lane) : Cmd where
  kind := kind
  lanes := [l]
  dst := d.toNat
  ga := ga.setWidth 64
  gb := gb.setWidth 64
  gc := gc.setWidth 64
  ectl := ectl
  laneArgs := []
  descs := [descFor s c l src, descFor s c l dst]
  fpctl := 8

/-- Source descriptor. -/
def EngOp.src (o : EngOp) : BitVec 512 := o.descs.getD 0 0
/-- Destination descriptor. -/
def EngOp.dstDesc (o : EngOp) : BitVec 512 := o.descs.getD 1 0

/-- Fields of CPYT: origin and size. -/
def tileOf (o : EngOp) : Nat × Nat × Nat × Nat :=
  (bitsN o.gb.toNat 15 0, bitsN o.gb.toNat 31 16, bitsN o.gc.toNat 15 0, bitsN o.gc.toNat 31 16)

/-- Row count of CPYG. -/
def gatherCount (o : EngOp) : Nat := bitsN o.ga.toNat 31 16

/-- Bytes of a row of CPYG (R155). -/
def rowBytes (d : BitVec 512) : Nat := if dFmt d == 4 then ceilDiv (dExt d 0) 2 else dExt d 0 * fmtBytes (dFmt d)

/-- The condition under which a copy accesses no memory, by its sub-cause (R394). Of several, the order in which they are reported is not
given (DESIGN CHOICE, log 107); nor is the cause of an offset of CPYG that is not aligned (DESIGN CHOICE, log 108). -/
def copyErr (s : State) (o : EngOp) : Option Nat :=
  let a := o.ga.toNat
  let int4 := dFmt o.src == 4
  if !(descOk o.src && descOk o.dstDesc) then some sBaddesc
  else if o.ectl / 8 % 2 == 1 then some sBadarg
  else match o.kind with
    | .cpy =>
      if a / 256 != 0 || o.gb.toNat / 256 != 0 || dFmt o.src != dFmt o.dstDesc || dCount o.src != dCount o.dstDesc then some sBadarg
      else none
    | .cpyt =>
      let (x0, _, cols, rows) := tileOf o
      if a / 65536 != 0 || dFmt o.src != dFmt o.dstDesc || cols == 0 || rows == 0 || (int4 && (x0 % 2 == 1 || cols % 2 == 1)) then
        some sBadarg
      else none
    | _ =>
      let n := gatherCount o
      let len := (s.blockAt o.blk).scrLen
      if bitsN a 15 8 != 0 || n == 0 || 32767 < n || o.gb.toNat % 4 != 0 || o.gc.toNat % 16 != 0 then some sBadarg
      else if len < o.gb.toNat + 4 * n || len < o.gc.toNat + n * rowBytes o.src then some cRange
      else none

/-! ### Bytes moved (R102, R155, R393) -/

/-- A byte or nibble that a copy moves: destination address and part (0 byte, 1 low nibble, 2 high nibble), source likewise, none for a
zero, and the number of its element. -/
structure Move where
  dst : Nat
  dpart : Nat
  src : Option (Nat × Nat)
  elem : Nat
  deriving DecidableEq, Repr

/-- Address and part of each byte of an element. -/
def elemParts (d : BitVec 512) (i : Nat × Nat × Nat × Nat) : List (Nat × Nat) :=
  if dFmt d == 4 then [(elemVa d i, 1 + elemIdx d i % 2)] else (vaRange (elemVa d i) (fmtBytes (dFmt d))).map fun v => (v, 0)

/-- The moves of one element, from a source element or a zero. -/
def moveElem (elem : Nat) (dst : List (Nat × Nat)) (src : Option (List (Nat × Nat))) : List Move :=
  dst.zipIdx.map fun v => ⟨v.1.1, v.1.2, src.bind fun l => l[v.2]?, elem⟩

/-- First address of block scratch. -/
def blockScr : Nat := 0x00FF000000000000

/-- The moves of CPY. -/
def cpyMoves (o : EngOp) : List Move :=
  (List.range (dCount o.src)).flatMap fun j =>
    moveElem j (elemParts o.dstDesc (flatIdx o.dstDesc j)) (some (elemParts o.src (flatIdx o.src j)))

/-- The moves of CPYT. -/
def cpytMoves (o : EngOp) : List Move :=
  let (x0, x1, cols, rows) := tileOf o
  (List.range (min rows (dExt o.dstDesc 1))).flatMap fun j =>
    (List.range (min cols (dExt o.dstDesc 0))).flatMap fun i =>
      let inside := x0 + i < dExt o.src 0 && x1 + j < dExt o.src 1
      moveElem (j * cols + i) (elemParts o.dstDesc (i, j, 0, 0))
        (if inside then some (elemParts o.src (x0 + i, x1 + j, 0, 0)) else none)

/-- Rows of a tid, and the indices of one (R155). -/
def rowsOf (d : BitVec 512) : Nat := dExt d 1 * dExt d 2 * dExt d 3

/-- Indices of element i of row x. -/
def rowIdx (d : BitVec 512) (x i : Nat) : Nat × Nat × Nat × Nat :=
  (i, x % dExt d 1, x / dExt d 1 % dExt d 2, x / (dExt d 1 * dExt d 2))

/-- Where element i of a destination row that starts at an address goes. -/
def packedParts (d : BitVec 512) (base i : Nat) : List (Nat × Nat) :=
  if dFmt d == 4 then [(base + i / 2, 1 + i % 2)]
  else (List.range (fmtBytes (dFmt d))).map fun k => (base + i * fmtBytes (dFmt d) + k, 0)

/-- The moves of CPYG with its row numbers. A row of zeros fills its last byte too; the high nibble of that byte stays when a row of an
odd number of INT4 elements is copied into it (DEDUCED, log 57). -/
def cpygMoves (o : EngOp) (rows : List Nat) : List Move :=
  let n := dExt o.src 0
  rows.zipIdx.flatMap fun x =>
    let found := x.1 < rowsOf o.src
    (List.range (if dFmt o.src == 4 && !found then 2 * ceilDiv n 2 else n)).flatMap fun i =>
      moveElem (x.2 * n + i) (packedParts o.src (blockScr + o.gc.toNat + x.2 * rowBytes o.src) i)
        (if found then some (elemParts o.src (rowIdx o.src x.1 i)) else none)

/-- The row numbers that a CPYG has read. -/
def rowList (o : EngOp) : List Nat := if o.kind == .cpyg then o.vals.take (gatherCount o) else []

/-- The bytes that a copy moves, once a CPYG has its row numbers. -/
def movesOf (o : EngOp) : List Move :=
  match o.kind with
  | .cpy => cpyMoves o
  | .cpyt => cpytMoves o
  | _ => cpygMoves o (rowList o)

/-- The first and the last byte of the rows that a CPYG may read. -/
def sourceEnds (o : EngOp) : List Nat :=
  (elemParts o.src (0, 0, 0, 0) ++ elemParts o.src (dExt o.src 0 - 1, dExt o.src 1 - 1, dExt o.src 2 - 1, dExt o.src 3 - 1)).map (·.1)

/-- The addresses that a copy reads and writes, for its entries (R151): none when it accesses no memory. -/
def copyRanges (s : State) (o : EngOp) : List Nat × List Nat :=
  if (copyErr s o).isSome then ([], [])
  else match o.kind with
    | .cpyg =>
      let n := gatherCount o
      (vaRange (blockScr + o.gb.toNat) (4 * n) ++ sourceEnds o, vaRange (blockScr + o.gc.toNat) (n * rowBytes o.src))
    | _ =>
      let ms := movesOf o
      (ms.filterMap fun m => m.src.map (·.1), ms.map (·.dst))

/-! ### Sectors (R354) -/

/-- The destination sectors of a copy, by address divided by 32 (DEDUCED, log 57). -/
def copySectors (o : EngOp) : List Nat := distinct ((movesOf o).map fun m => m.dst / 32)

/-- The value of a part of a byte. -/
def partOf (part b : Nat) : Nat :=
  match part with
  | 0 => b
  | 1 => b % 16
  | _ => b / 16

/-- What one move carries: the source as it stands, or as it was read when the copy began; one more than the latter stands in `vals` (R394)
(DEDUCED, log 81). -/
def moveVal (s : State) (o : EngOp) (i : Nat) (m : Move) : Except Nat Nat :=
  match m.src, o.vals.getD ((rowList o).length + i) 0 with
  | none, _ => .ok 0
  | some (va, part), 0 => (engRead s o va 1).map (partOf part)
  | some _, v + 1 => .ok v

/-- The source addresses that the moves into a sector read when it is written. -/
def lateReads (o : EngOp) (sec : Nat) : List Nat :=
  (movesOf o).zipIdx.filterMap fun m =>
    if m.1.dst / 32 == sec && o.vals.getD ((rowList o).length + m.2) 0 == 0 then m.1.src.map (·.1) else none

/-- The source of a move that is read when the copy begins: for any elements (DEDUCED, log 81). -/
def earlyRead (free : Nat) (m : Move) : Option (Nat × Nat) := if Config.freeBit free (2 * m.elem) then m.src else none

/-- The value of one of the elements that land in one place: the same one wherever the same elements share bytes, and not given which
(R394). -/
def pickVal (o : EngOp) (vs : List (Nat × Nat)) : Nat :=
  (vs[Config.freeNat o.born (2 * vs.foldl (fun k v => 65537 * k + v.1 + 1) 0 + 1) % vs.length]?.map (·.2)).getD 0

/-- The byte at an address after the moves that reach it: nibbles that none reaches stay. -/
def mergeByte (o : EngOp) (va old : Nat) (ms : List (Move × Nat)) : Nat :=
  let mine := ms.filter fun m => m.1.dst == va
  let at_ (p : Nat) : List (Nat × Nat) := (mine.filter fun m => m.1.dpart == p).map fun m => (m.1.elem, m.2)
  if !(at_ 0).isEmpty then pickVal o (at_ 0)
  else (if (at_ 1).isEmpty then old % 16 else pickVal o (at_ 1)) + 16 * (if (at_ 2).isEmpty then old / 16 else pickVal o (at_ 2))

/-- The bytes of a sector that a copy writes, or the cause of a failed check. -/
def sectorBytes (s : State) (o : EngOp) (sec : Nat) : Except Nat (List (Nat × Place × Nat)) := do
  let ms := (movesOf o).zipIdx.filter fun m => m.1.dst / 32 == sec
  let vals ← ms.mapM fun m => (moveVal s o m.2 m.1).map fun v => (m.1, v)
  (sortBy id (distinct (ms.map fun m => m.1.dst))).mapM fun va => do
    let p ← engPlace s o va
    let old := match p.loc with | .mem k => homeRead s k 1 p.tkey | .window c off => winRead s c off 1 | _ => 0
    pure (va, p, mergeByte o va old vals)

/-- The watchpoints of a context, enabled for a kind of write, that some bytes match: the first matching byte and the matched bytes of the
range (R347, R349). -/
def watchMatches (c : Ctx) (kind : Nat) (vas : List Nat) : List (Nat × Nat) :=
  (List.range 4).filterMap fun wp =>
    if (c.csrOf (0x102 + 4 * wp)).getLsbD kind then
      let hit := (List.range 16).filter fun b => (c.csrOf (0x102 + 4 * wp)).getLsbD b && vas.contains (watchBase c wp + b)
      hit.head?.map fun b => (watchBase c wp + b, sumN (hit.map fun b => 2 ^ b))
    else none

/-- The watch reports that a sector write causes: one per watchpoint that it matches (R347, R349, R354). -/
def watchReports (s : State) (o : EngOp) (vas : List Nat) : List DueReport :=
  (watchMatches (s.ctxAt o.ctx) 17 vas).map fun m =>
    { ctx := o.ctx
      addr := BitVec.ofNat 64 m.1
      seq := BitVec.ofNat 32 o.seq
      bytes := BitVec.ofNat 16 m.2
      ts := s.ts
      src := 0
      core := o.core
      wslot := winOf o.w
      lane := lowLane o.lanes
      kind := 1
      acc := 6
      owner := o.born }

/-- A write of bytes by an engine, charged to their stacks but for an IRED, whose writes have a charge of their own (R278). -/
def writeBytes (s : State) (o : EngOp) (bs : List (Nat × Place × Nat)) : State :=
  let ks := bs.filterMap fun b => match b.2.1.loc with | .mem k => some k | _ => none
  let s := ks.foldl (fun s k => notePhys s k 1) (if o.kind == .ired then s else chargeBlocks s ks)
  bs.foldl (fun s b => engWriteByte s o b.2.1 b.2.2) s

/-- A command has its result in every lane. -/
def finishOp (s : State) (o : EngOp) (v : W32) : State :=
  s.modOp o.core o.slot fun q => { q with state := .done ((lanesOf q.lanes).map fun l => (l, v)) }

/-- A command ends with an ENGINE fault in every lane (R327). -/
def faultOp (s : State) (o : EngOp) (sub : Nat) : State := s.modOp o.core o.slot fun q => { q with state := .fault sub }

/-- A copy that faults has its reports written first (R354), and disarms its matrix slot (R156). -/
def faultCopy (s : State) (o : EngOp) (sub : Nat) : State :=
  let s := faultOp (flushReports s o.born 0) o sub
  if o.kind != .cpy && o.ectl % 2 == 1 && o.ectl / 8 % 2 == 0 then disarm s o (o.ectl / 2 % 4) (.fault sAborted) else s

/-- One destination sector of a copy is written. Reports that were due are written with what they let pass, at most 32 bytes; a new
report is written at once or is due with the next sector (R349, R354). -/
def copySector (s : State) (o : EngOp) (sec : Nat) : State :=
  if o.prog != 2 || o.sectorsDone.contains sec || !(copySectors o).contains sec then s
  else match sectorBytes s o sec with
    | .error e => faultCopy s o e
    | .ok bs =>
      let reps := watchReports s o (bs.map (·.1))
      let s := writeBytes (engObserve s o (lateReads o sec)) o bs
      let s := flushReports s o.born bs.length
      let s := { s with reports := s.reports ++ reps }
      let s := if Config.freeBit s.free sec then s else flushReports s o.born 0
      (s.modOp o.core o.slot fun q => { q with sectorsDone := q.sectorsDone ++ [sec] }).useFree

/-! ### Results (R156, R395) -/

/-- Bytes that a copy has written. -/
def copyBytes (o : EngOp) : Nat :=
  let w := dFmt o.src == 4
  match o.kind with
  | .cpy => if w then ceilDiv (dCount o.src) 2 else dCount o.src * fmtBytes (dFmt o.src)
  | _ =>
    let (_, _, cols, rows) := tileOf o
    let n := min cols (dExt o.dstDesc 0)
    min rows (dExt o.dstDesc 1) * (if w then ceilDiv n 2 else n * fmtBytes (dFmt o.src))

/-- The status word of a finished copy without NOARM. -/
def copyStatus (o : EngOp) : Nat :=
  match o.kind with
  | .cpy => min 0xFFFFFFFE (copyBytes o)
  | .cpyt => min 0x7FFFFFFF (copyBytes o)
  | _ =>
    let blank := ((rowList o).filter fun x => rowsOf o.src ≤ x).length
    blank * 2 ^ 16 + ((rowList o).length - blank)

/-- The last byte of a copy has landed: its reports are written, its entries retire, and its matrix slot starts (R156, R354). -/
def finishCopy (s : State) (o : EngOp) : State :=
  let s := dropEntries (flushReports s o.born 0) o.ref
  let v := copyStatus o
  if o.kind == .cpy || o.ectl % 2 == 0 then finishOp s o (BitVec.ofNat 32 v)
  else
    let slot := o.ectl / 2 % 4
    match (opWarpAny? s o).bind fun w => smFind w.mq slot with
    | none => finishOp s o (BitVec.ofNat 32 (2 ^ 31 + v))
    | some r =>
      let s := modOpWarp s o fun w => { w with mq := smErase w.mq slot }
      let start (q : EngOp) : EngOp := if q.ref == r && q.state == OpState.armed then { q with state := .held, issued := s.clk } else q
      finishOp { s with ops := s.ops.map start } o (BitVec.ofNat 32 v)

/-- What a copy reads when it begins: the row numbers of a CPYG, then the source bytes. -/
def gatherList (s : State) (o : EngOp) : Except Nat (List Nat) :=
  (List.range (gatherCount o)).mapM fun i => engRead s o (blockScr + o.gb.toNat + 4 * i) 4

/-- A step of a running copy: its row numbers, whose entry then retires where it covers nothing else (R153), its source as it stands at the
beginning, and its end once every sector is written. -/
def stepCopy (s : State) (o : EngOp) : State :=
  if o.prog == 0 then
    match copyErr s o with
    | some e => faultCopy s o e
    | none =>
      if o.kind == .cpyg then
        match gatherList s o with
        | .error e => faultCopy s o e
        | .ok l =>
          let s := if (scratchKeys s o (sourceEnds o)).isEmpty then dropReads s o.ref else s
          ((engObserve s o (vaRange (blockScr + o.gb.toNat) (4 * gatherCount o))).modOp o.core o.slot fun q =>
            { q with vals := l, prog := 1 }).useFree
      else s.modOp o.core o.slot fun q => { q with prog := 1 }
  else if o.prog == 1 then
    let ms := movesOf o
    farGate s o [(false, 1, ms.filterMap fun m => m.src.map (·.1)), (true, 1, ms.map (·.dst))] <|
      match ms.mapM fun m =>
          match earlyRead s.free m with
          | none => Except.ok 0
          | some (va, part) => (engRead s o va 1).map fun b => partOf part b + 1 with
      | .error e => faultCopy s o e
      | .ok l =>
        ((engObserve s o (ms.filterMap fun m => (earlyRead s.free m).map (·.1))).modOp o.core o.slot fun q =>
          { q with vals := q.vals ++ l, prog := 2 }).useFree
  else if (copySectors o).all fun sec => o.sectorsDone.contains sec then finishCopy s o
  else s

/-! ### The words (R392) -/

/-- CPY (R393). -/
def execCpy (h : Hdr) (d a b : Code) (s : State) : Host.Outcome State Fault Refusal :=
  .next (laneEngine (.cpy h d a b) h
    (fun s c l => copyCmd .cpy d (rd s l a) (rd s l b) 0 (rd s l a).toNat (rd s l b).toNat 0 s c l) (fun s o => twoGroups (copyRanges s o)) s)

/-- CPYT (R393). -/
def execCpyt (h : Hdr) (d a b c : Code) (mq : Bool) (slot : BitVec 2) (s : State) : Host.Outcome State Fault Refusal :=
  .next (laneEngine (.cpyt h d a b c mq slot) h
    (fun s u l => copyCmd .cpyt d (rd s l a) (rd s l b) (rd s l c) (rd s l a).toNat ((rd s l a).toNat / 256)
      (mqCtl mq slot (1 < (active s u h).length)) s u l) (fun s o => twoGroups (copyRanges s o)) s)

/-- CPYG (R393). -/
def execCpyg (h : Hdr) (d a b c : Code) (mq : Bool) (slot : BitVec 2) (s : State) : Host.Outcome State Fault Refusal :=
  .next (laneEngine (.cpyg h d a b c mq slot) h
    (fun s u l => copyCmd .cpyg d (rd s l a) (rd s l b) (rd s l c) (rd s l a).toNat (rd s l a).toNat
      (mqCtl mq slot (1 < (active s u h).length)) s u l) (fun s o => twoGroups (copyRanges s o)) s)

end Sys2Proof.Machine
end

