-- ==== Sys2Proof/Machine/Helper.lean ====
section
/-!
DEFINITION. Recruiting helper lanes: RECRUIT, HLDR, HRELEASE, HJOIN at issue, and what the first, third and fourth do at the run end
(R292 to R300, R416 to R419, R457 to R459).
-/

namespace Sys2Proof.Machine

/-! ### The words at issue -/

/-- RECRUIT: N is read at issue; every lane of the path becomes a recruiter at the run end (R457, R458). -/
def execRecruit (h : Hdr) (d a : Code) (imm : W32) (s : State) : Host.Outcome State Fault Refusal :=
  .next (runWord (.recruit h d a imm) s fun s c =>
    let ns := (active s c h).map fun l => (l.id, rd s l a)
    advance (noteTransfer s c (.recruit c.p.mask d.toNat ns (branchTo c imm))) c)

/-- HLDR: a copy of the recruiter's register, or outside helper mode of the thread's own (R299, R416). -/
def execHldr (h : Hdr) (d a : Code) (s : State) : Host.Outcome State Fault Refusal :=
  .next (fixWord (.hldr h d a) h 6 (fun s l => one d (rd s l a)) s)

/-- HRELEASE (R296). -/
def execHrelease (h : Hdr) (s : State) : Host.Outcome State Fault Refusal :=
  .next (runWord (.hrelease h) s fun s c => advance (noteTransfer s c (.hrelease (activeMask s c h))) c)

/-- HJOIN (R300). -/
def execHjoin (h : Hdr) (d a : Code) (op : BitVec 4) (s : State) : Host.Outcome State Fault Refusal :=
  .next (runWord (.hjoin h d a op) s fun s c =>
    advance (noteTransfer s c (.hjoin (activeMask s c h) d.toNat a.toNat op.toNat)) c)

/-! ### Granting (R292 to R294) -/

/-- Lanes lent in a partition. -/
def lentIn (s : State) (core part : Nat) : Nat :=
  sumN ((s.warps.filter fun w => w.key.core == core && w.key.part == part).map fun w => (w.lanes.filter Lane.isLent).length)

/-- A lane that another may recruit (R292). One that a barrier phase has sent home waits for a later phase (R298). -/
def idleLane (w : Warp) (l : Lane) : Bool :=
  (l.exited || l.waits.any fun b => b.at_.isNone) && (List.range 12).all (fun i => l.flag i == 0) && l.pend.isEmpty &&
    l.helper.isNone && !l.homed && w.helpctl.getLsbD 0

/-- The idle lanes of a warp, exited ones and parked ones apart. -/
def idleOf (w : Warp) (exited : Bool) : List (WarpKey × Nat) :=
  (w.lanes.filter fun l => idleLane w l && l.exited == exited).map fun l => (w.key, l.id)

/-- The candidates of a recruiter in the order of grant (R292); the lanes of its path, which all recruit, are none (R458). -/
def candidateLanes (s : State) (w : Warp) (path : Mask) : List (WarpKey × Nat) :=
  let others := (List.range 16).flatMap fun slot =>
    s.warps.filter fun v => v.key == ⟨w.key.core, w.key.part, slot⟩ && v.key != w.key && v.blk == w.blk && v.ctx == w.ctx
  (idleOf w true ++ idleOf w false).filter (fun m => !path.getLsbD m.2) ++
    others.flatMap fun v => (v.lanes.filter (idleLane v)).map fun l => (v.key, l.id)

/-- The lanes granted to a recruiter with N iterations (R292, R293). -/
def granted (s : State) (w : Warp) (path : Mask) (n : Nat) : List (WarpKey × Nat) :=
  if w.serial then [] else (candidateLanes s w path).take (min (n - 1) (min 127 (128 - lentIn s w.key.core w.key.part)))

/-- A lane is lent: its own state is set aside and it goes to the body as a path of its home warp (R294, R295, R297). Of its waits those
stay whose phases have yet to release. Its last word is that of its home path, or for a lane that has exited RECRUIT's, issued at `last` (R81)
(DEDUCED, log 67). The paths of its warp merge once every group of the RECRUIT is formed. -/
def lend (s : State) (gid idx : Nat) (body : W64) (from_ : WarpKey × Nat) (last : Nat) (m : WarpKey × Nat) : State :=
  s.modWarp m.1 fun w =>
    let x := joinEdges s [from_] (w.laneAt m.2).commitAll
    let home := w.pathOf? m.2
    let pc := (home.map (·.pc)).getD x.pc
    let v := w.dropLanes (maskOf [m.2])
    { v.modLane m.2 fun _ =>
        { x with
          y := []
          p := 0
          f := []
          waitF := 0
          pc := body
          run := 0
          waits := x.waits.filter fun b => b.at_.isNone
          helper := some ⟨gid, idx, BitVec.ofNat 32 idx, none, true, x.sdepth, some ⟨x.y, x.p, x.f, !x.exited, pc⟩⟩ } with
      paths := v.paths ++ [{ newPath body (maskOf [m.2]) with endedAt := s.clk, lastIssue := (home.map (·.lastIssue)).getD last }] }

/-- One lane of the path becomes a recruiter: its group, its helpers, Gd, and where it goes (R294, R458). -/
def formGroup (k : WarpKey) (path : Mask) (d : Nat) (counts : List (Nat × W32)) (body cont : W64) (t : State × List (Nat × W64))
    (l : Nat) : State × List (Nat × W64) :=
  let s := t.1
  let n := ((smFind counts l).map BitVec.toNat).getD 0
  let ms := granted s (s.warpAt k) path n
  let gid := s.nextId
  let parts := if n == 0 then [] else (0, k, l) :: ms.zipIdx.map fun m => (m.2 + 1, m.1.1, m.1.2)
  let g : HelperGroup :=
    { id := gid
      w := k
      lane := l
      n := n
      counter := min n (ms.length + 1)
      body := body
      cont := cont
      members := parts
      every := parts.map fun p => (p.2.1, p.2.2)
      captured := if n == 0 then [(0, [])] else []
      charges := [] }
  let s := { s with
    groups := (s.groups.filter fun x => !(x.w == k && x.lane == l)) ++ [g]
    nextId := s.nextId + 1 }
  let last := (((s.warpAt k).pathOf? l).map (·.lastIssue)).getD s.clk
  let s := ms.zipIdx.foldl (fun s m => lend s gid (m.2 + 1) body (k, l) last m.1) s
  let s := s.modLane k l fun x =>
    { x with
      g := if (smFind counts l).isSome then smSet x.g d (BitVec.ofNat 32 ms.length) else x.g
      joinp := false
      helper := some ⟨gid, 0, 0, none, n != 0, x.sdepth, none⟩ }
  (s, t.2 ++ [(l, if n == 0 then cont else body)])

/-! ### Releasing (R296 to R298) -/

/-- A participant leaves the body: its SDEPTH and stack are those of RECRUIT's run end (R402). -/
def unwind (l : Lane) : Lane :=
  match l.helper with
  | none => l
  | some h =>
    { l with
      sdepth := h.sd0
      stk := l.stk.filter fun e => e.off < h.sd0
      helper := some { h with inBody := false } }

/-- A helper is released after its iteration: the phase at which it was parked has released, or its block is to be saved (R298). -/
def forcedHome (s : State) (k : WarpKey) (x : Lane) : Bool :=
  x.isLent && ((x.waits.any fun b => b.at_.isSome) || s.savesWarp (s.warpAt k))

/-- The participants whose HRELEASE has its run end at hand in this clk: those of the paths whose run ends may act, by group, warp and
lane. -/
def claimants (s : State) (ready : Warp → Path → Ending → Bool) : List (Nat × WarpKey × Nat × Nat) :=
  s.warps.flatMap fun w => w.paths.flatMap fun p =>
    match p.ending with
    | some e =>
      (match e.transfer with
      | .hrelease m =>
        if ready w p e then
          (w.lanesIn m).filterMap fun l => match l.helper with | some h => some (h.grp, w.key, l.id, h.idx) | none => none
        else []
      | _ => [])
    | none => []

/-- One participant claims the counter's value, or nothing when none is left or it is released by force; a recruiter whose block stops for
save does not claim yet (R296, R298). -/
def claimOne (s : State) (m : Nat × WarpKey × Nat × Nat) : State :=
  let x := s.laneAt m.2.1 m.2.2.1
  match x.helper, s.groupAt? m.1 with
  | some h, some g =>
    if h.claim.isSome || claimWaits s (s.warpAt m.2.1) x then s
    else
      let c := if g.counter < g.n && !forcedHome s m.2.1 x then g.counter else g.n
      let s := if c == g.n then s else s.modGroup g.id fun g => { g with counter := g.counter + 1 }
      s.modLane m.2.1 m.2.2.1 fun x => { x with helper := x.helper.map fun h => { h with claim := some c } }
  | _, _ => s

/-- The claims of one clk in ascending helper index (R296): those of every group that a run end's lanes belong to. -/
def claimAll (s : State) (ready : Warp → Path → Ending → Bool) (k : WarpKey) (m : Mask) : State :=
  let gs := ((s.warpAt k).lanesIn m).filterMap fun l => l.helper.map (·.grp)
  (sortBy (fun c : Nat × WarpKey × Nat × Nat => c.2.2.2) ((claimants s ready).filter fun c => gs.contains c.1)).foldl claimOne s

/-- HRELEASE in one participant at its run end: the next iteration, or the continuation, or home. Answers targets and the lanes that go
home (R296) (DEDUCED, log 67). -/
def releaseLane (k : WarpKey) (t : State × List (Nat × W64) × List Nat) (l : Nat) : State × List (Nat × W64) × List Nat :=
  let s := t.1
  let x := s.laneAt k l
  match x.helper with
  | none => t
  | some h =>
    match s.groupAt? h.grp with
    | none => t
    | some g =>
      let c := h.claim.getD g.n
      if c < g.n then
        (s.modLane k l fun x => { x with helper := some { h with hidx := BitVec.ofNat 32 c, claim := none } }, t.2.1 ++ [(l, g.body)], t.2.2)
      else
        let s := leaveGroup s k l true
        if h.lent.isSome then (s, t.2.1, t.2.2 ++ [l])
        else (s.modLane k l unwind, t.2.1 ++ [(l, g.cont)], t.2.2)

/-! ### Joining (R300, R419, R459) -/

/-- The group of a recruiter, also after it has left helper mode with JOINP set. -/
def groupFor? (s : State) (k : WarpKey) (l : Nat) : Option HelperGroup := s.groups.find? fun g => g.w == k && g.lane == l

/-- The 128 values that HJOIN combines: captured Y registers by helper index, the recruiter's own, the identity for a participant that did
not leave by HRELEASE. -/
def joinValues (fp : W32) (g : HelperGroup) (own : W32) (op : BitVec 4) (yi : Nat) : List W32 :=
  (List.range 128).map fun i =>
    match smFind g.captured i with
    | none => opIdentity fp op
    | some ys => opSource fp op (if i == 0 then own else smGet 0#32 ys yi)

/-- What HJOIN writes. -/
def joinResult (s : State) (k : WarpKey) (l : Nat) (y op : Nat) : W32 :=
  let x := s.laneAt k l
  let own := rd s x (BitVec.ofNat 8 y)
  match groupFor? s k l with
  | none => own
  | some g => treeReduce x.fpctl (BitVec.ofNat 4 op) 7 (joinValues x.fpctl g own (BitVec.ofNat 4 op) (y - 0x98))

/-- A lane completes HJOIN: Gd, JOINP, helper mode, and the edge from its participants. -/
def completeJoin (s : State) (k : WarpKey) (d y op l : Nat) : State :=
  let every := ((groupFor? s k l).map (·.every)).getD []
  let v := joinResult s k l y op
  { s with groups := s.groups.filter fun g => !(g.w == k && g.lane == l) }.modLane k l fun x =>
    { joinEdges s every x with
      g := smSet x.g d v
      joinp := false
      helper := none }

/-- A charged lane leaves the group and helper mode with its HJOIN pending; its charges are raised (R300). -/
def leaveCharged (s : State) (k : WarpKey) (l : Nat) : State :=
  let every := ((groupFor? s k l).map (·.every)).getD []
  { s with groups := mapIf (fun g => g.w == k && g.lane == l) (fun g => { g with charges := [] }) s.groups }.modLane k l fun x =>
    { joinEdges s every x with
      joinp := true
      helper := none }

/-- Earlier of two charges: by timestamp, then recruiter lane, then helper index. -/
def earlier (a b : Nat × Charge) : Bool :=
  if a.2.ts != b.2.ts then a.2.ts < b.2.ts
  else if a.1 != b.1 then a.1 < b.1
  else a.2.helper < b.2.helper

/-- The earliest of some charges. -/
def earliest : List (Nat × Charge) → Option (Nat × Charge)
  | [] => none
  | c :: r =>
    match earliest r with
    | none => some c
    | some d => if earlier d c then some d else some c

/-- HJOIN of a path at its run end, every participant having left: the lanes without a charge complete it, and the charged ones trap at its
word (R300). Answers the targets of the others; none when the paths stand at their resume points. -/
def joinLanes (s : State) (k : WarpKey) (p : Path) (e : Ending) (m : Mask) (d y op : Nat) : State × Option (List (Nat × W64)) :=
  let charges := (lanesOf m).flatMap fun l =>
    (((groupFor? s k l).map (·.charges)).getD []).map fun c => (l, c)
  let charged := distinct (charges.map (·.1))
  let s := ((lanesOf m).filter fun l => !charged.contains l).foldl (fun s l => completeJoin s k d y op l) s
  match earliest charges with
  | none => (s, some ((lanesOf p.mask).map fun l => (l, e.next)))
  | some (_, c) =>
    let s := charged.foldl (fun s l => leaveCharged s k l) s
    let r : Raise :=
      { key := k
        ts := s.ts
        cause := c.cause
        sub := c.sub
        tpc := e.next - 16
        epc := c.epc
        eseq := c.eseq
        ecls := c.ecls
        ereg := c.ereg
        mask := p.mask
        tl := maskOf charged
        faults := []
        resume := (lanesOf p.mask).map fun l => (l, if charged.contains l then (e.next - 16, 0#64) else (e.next, 0#64))
        effs := []
        handler := p.handler }
    (takeTrap s r c.nrec c.fbfirst, none)

/-- A recruiter that starts a run other than HJOIN leaves helper mode; its group and its charges are dropped (R418). -/
def dropJoin (s : State) (k : WarpKey) (l : Nat) : State :=
  { s with groups := s.groups.filter fun g => !(g.w == k && g.lane == l) }.modLane k l fun x => { x with helper := none }

end Sys2Proof.Machine
end

