-- ==== Sys2Proof/Machine/RunEnd.lean ====
section
/-!
DEFINITION. The end of a run: its effects, its control transfer and the paths it forms (R15, R16, R19, R75, R76, R79, R94, R107, R199,
R324, R404, R437, R506), and the expiry of holds (R26, R514).
-/

namespace Sys2Proof.Machine

/-- Every effect of a run that ends: those kept with its lanes, unless a handler runs in them, then its own. -/
def endEffs (w : Warp) (p : Path) (e : Ending) : List RunEff :=
  (if p.handler then [] else (w.lanesIn p.mask).flatMap fun l => l.kept.map (clipEff (maskOf [l.id]))) ++ e.effs

/-- Every remote access of the lanes has been accepted or refused (R437). -/
def remoteSettled (s : State) (k : WarpKey) (m : Mask) : Bool :=
  s.accesses.all fun a =>
    !(a.w == k && m.getLsbD a.lane && a.st != .performed && a.st != .parked &&
      (match a.loc with | .remote _ _ => true | _ => false))

/-- An access for which later words of its run wait: its walk, its acceptance, the answer of a second-tier port, or a range-scoreboard entry
(R18, R146, R152, R437) (DEDUCED, log 116). -/
def holdsRun (s : State) (a : Access) : Bool :=
  a.st == .remoteWait || (match a.st with | .refused _ => true | _ => false) ||
  (a.st == .pending &&
    (a.mayFail || walking s a || entryStalls s a))

/-- An access of a run whose first access number is `first` stalls the run (R18). -/
def runStalled (s : State) (k : WarpKey) (m : Mask) (first : Nat) : Bool :=
  s.accesses.any fun a => a.w == k && m.getLsbD a.lane && first ≤ a.id && holdsRun s a

/-- The last word of a run stalls: the run has not ended (R18). -/
def endStalled (s : State) (w : Warp) (p : Path) (e : Ending) : Bool := runStalled s w.key p.mask e.first

/-- The run end may act: what it waits for has come (R18, R107, R300, R324, R437, R506). -/
def runEndReady (s : State) (w : Warp) (p : Path) (e : Ending) : Bool :=
  !awaitsRestore s w p && !endStalled s w p e && remoteSettled s w.key p.mask && icinvReady s w.key (endEffs w p e) &&
  (match e.transfer with
   | .trapret _ =>
     let m := maskOf ((w.lanes.filter fun l => onHandler (smGet (3, 0) w.entryState l.id).1).map (·.id))
     (w.lanesIn m).all (fun l => l.flag 11 == 0) && storesDone s w.key m
   | .hjoin m _ _ _ => (w.lanesIn m).all fun l => match groupFor? s w.key l.id with | some g => g.members.isEmpty | none => true
   | _ => true)

/-- The last JOINH of some effects (R26). -/
def lastJoinh (es : List RunEff) : Option Nat :=
  es.foldl (fun r e => match e with | .joinh n => some n | _ => r) none

/-- The path whose copies are formed at the run end: age 0, held, yielded (R15, R26, R514). -/
def endBase (s : State) (w : Warp) (p : Path) (es : List RunEff) : Path :=
  { p with
    age := 0
    endedAt := s.clk
    hold := if w.serial then none else (lastJoinh es).map (s.clk + ·)
    yieldAt := if es.contains .yield then some s.clk else none
    stepping := false
    inRun := none
    ending := none
    run := 0 }

/-- A lane exits (R404, R405). -/
def exitLane (l : Lane) : Lane :=
  { l.commitAll with
    exited := true
    f := []
    waitF := 0
    waits := []
    rearrive := []
    kept := []
    stk := []
    sdepth := 0
    cached := 0
    spilled := 0 }

/-- The path's lanes go to their targets, and the paths merge (R15, R16). -/
def toTargets (s : State) (k : WarpKey) (p base : Path) (ts : List (Nat × W64)) : State :=
  s.modWarp k fun w =>
    let w := w.eachLane fun l =>
      match smFind ts l.id with
      | some t => { l with pc := t, run := 0 }
      | none => l
    let v := w.dropLanes p.mask
    settlePaths { v with paths := v.paths ++ formPaths base ts }

/-- The path at the last word of the run that it ends, where a double trap of TRAPRET leaves it (R328). -/
def atLastWord (base : Path) (e : Ending) : Path :=
  { base with
    pc := e.next - 16
    run := if e.next - 16 == e.base then 0 else e.base }

/-- The control transfer of a run (R75). -/
def doTransfer (s : State) (k : WarpKey) (p base : Path) (e : Ending) : State :=
  let all := (lanesOf p.mask).map fun l => (l, e.next)
  match e.transfer with
  | .fall => toTargets s k p base all
  | .goto ts => toTargets s k p base (all.map fun a => (a.1, (smFind ts a.1).getD a.2))
  | .exit m =>
    let s := (lanesOf m).foldl (fun s l => discardResults s k l) (s.modWarp k fun w => w.mapLanes m exitLane)
    let s := toTargets s k p base (all.filter fun a => !m.getLsbD a.1)
    settleSync s k
  | .trapret _ => settleRefused (returnFromTrap (s.modPath k (lowLane p.mask) fun _ => atLastWord base e) k) k
  | .recruit _ d ns body =>
    let r := (lanesOf p.mask).foldl (formGroup k p.mask d ns body e.next) (s, [])
    let t := toTargets r.1 k p base r.2
    { t with warps := mapIf (fun w => w.key.core == k.core && w.key.part == k.part && w.lanes.any Lane.isLent) settlePaths t.warps }
  | .hrelease m =>
    let w := s.warpAt k
    let stay := maskOf (((w.lanesIn m).filter (claimWaits s w)).map (·.id))
    let s := claimAll s (fun w q e => (w.key == k && q.mask == p.mask) || runEndReady s w q e) k m
    let r := ((s.warpAt k).lanesIn (m &&& ~~~stay)).foldl (fun t l => releaseLane k t l.id) (s, [], [])
    let s := toTargets r.1 k p base (r.2.1 ++ all.filter fun a => !m.getLsbD a.1)
    let s := if stay == 0 then s
      else s.modWarp k fun w =>
        { w with paths := w.paths ++ [{ p with mask := stay, ending := some { e with effs := [], transfer := .hrelease stay } }] }
    r.2.2.foldl (fun s l => goHome s k l p.lastIssue) s
  | .hjoin m d y op =>
    match joinLanes s k p e m d y op with
    | (s, none) => s
    | (s, some ts) => toTargets s k p base ts

/-- What follows the end of any run: a halt that was waiting, and the warp's retirement. -/
def afterEnd (s : State) (k : WarpKey) : State := settleRetire (s.modWarp k (settleHalt s)) k

/-- An UPDATE applies on a core at a run boundary of its context there; once it has on every core, CTL.UPDATE reads 0 (R360). -/
def endUpdate (s : State) (core x : Nat) : State :=
  if (smFind (s.ctxAt x).old core).isNone then s
  else s.modCtx x fun c =>
    let old := smErase c.old core
    { c with
      old := old
      ctl := if old.isEmpty then c.ctl &&& ~~~2#32 else c.ctl }

/-- The end of a run of a path (R19). -/
def endOfRun (s : State) (k : WarpKey) (p : Path) (e : Ending) : State :=
  let w := s.warpAt k
  let es := endEffs w p e
  let s := s.modWarp k fun w => w.mapLanes p.mask fun l =>
    { l with
      kept := if p.handler then l.kept else []
      waitF := e.waitF }
  let s := applyEffs s k p.mask es
  afterEnd (doTransfer (endUpdate s k.core w.ctx) k p (endBase s w p es) e) k

/-- RUN_END: the run end of the path of a lane, when what it waits for has come (R19). -/
def execRunEnd (k : WarpKey) (l : Nat) (s : State) : Host.Outcome State Fault Refusal :=
  .next (match s.warpAt? k with
    | none => s
    | some w =>
      match w.pathOf? l with
      | none => s
      | some p =>
        match p.ending with
        | none => s
        | some e => if runEndReady s w p e then (endOfRun s k p e).useFree else s)

/-- JOINH_HOLD_EXPIRY: a hold whose deadline has come, or that binds no longer, ends (R26). -/
def execJoinhHoldExpiry (k : WarpKey) (l : Nat) (s : State) : Host.Outcome State Fault Refusal :=
  .next (match s.warpAt? k with
    | none => s
    | some w =>
      match w.pathOf? l with
      | none => s
      | some p => if held s w p then s else s.modPath k l fun p => { p with hold := none })

/-- YIELD_EXPIRY: 16 clk after a YIELD its path may start again (R514). -/
def execYieldExpiry (k : WarpKey) (l : Nat) (s : State) : Host.Outcome State Fault Refusal :=
  .next (s.modPath k l fun p =>
    match p.yieldAt with
    | none => p
    | some t => if t + 16 ≤ s.clk then { p with yieldAt := none } else p)

end Sys2Proof.Machine
end

