-- ==== Sys2Proof/Machine/Matrix.lean ====
section
/-!
DEFINITION. The matrix engine: its commands, the block that holds it and their order, seating, row times, exact partials and promotion, MREAD and
MSTAT (R245 to R265, R442, R443).
-/

namespace Sys2Proof.Machine

/-! ### Issue (R250, R442) -/

/-- The command of a path: the operands of the lowest lane in which the word executes, and the descriptors that they name. -/
def pathCmd (kind : EngKind) (s : State) (c : Cur) (h : Hdr) (d : Code) (ga gb gc : Lane → W32) (ectl : Nat) : Cmd :=
  let ls := active s c h
  let l := ls.headD (blankLane 0)
  { kind := kind
    lanes := ls
    dst := d.toNat
    ga := (ga l).setWidth 64
    gb := (gb l).setWidth 64
    gc := (gc l).setWidth 64
    ectl := ectl
    laneArgs := []
    descs := [descFor s c l (ga l).toNat, descFor s c l (bitsN (ga l).toNat 23 16)]
    fpctl := l.fpctl }

/-- A matrix word: with the guard false in every lane no command is sent. `after` acts on the state with the command in its slot. -/
def matrixWordOf (i : Instr) (h : Hdr) (mk : State → Cur → Cmd) (after : State → EngOp → State) (s : State) : State :=
  runWord i s fun s c =>
    if (active s c h).isEmpty then advance s c
    else
      let t := issueOp s c (mk s c)
      advance (match lastOp? t with | some o => after t o | none => t) c

/-- The source tid of a matrix command. -/
def mTid (o : EngOp) : BitVec 512 := o.descs.getD 0 0
/-- The metadata tid of MSEAT.sp. -/
def mMeta (o : EngOp) : BitVec 512 := o.descs.getD 1 0
/-- The seat that a command names. -/
def mSeat (o : EngOp) : Nat := bitsN o.ga.toNat 8 8

/-- Conditions of BADARG common to the commands with rows (R250). -/
def rowsBad (o : EngOp) (kb : Bool) : Bool :=
  bitsN o.gc.toNat 15 13 != 0 || (!kb && bitsN o.gc.toNat 31 16 != 0) || 64 < (rowsNamed o).1 + (rowsNamed o).2

/-- A descriptor with one of some formats. -/
def fmtIn (d : BitVec 512) (fs : List Nat) : Bool := descOk d && fs.contains (dFmt d)

/-- The argument or descriptor fault of a matrix command (R250, R252, R254, R257, R443). The bits of Ga that no rule names, [15:9] of
MSEAT's and [31:8] of MREAD's, count as fields marked zero (DESIGN CHOICE, log 109). -/
def matrixErr (o : EngOp) : Option Nat :=
  let a := o.ga.toNat
  match o.kind with
  | .mseat =>
    let i4 := o.ectl % 2 == 1
    let sp := o.ectl / 2 % 2 == 1
    if bitsN a 15 9 != 0 || bitsN a 31 24 != 0 || (!sp && bitsN a 23 16 != 0) || (sp && i4) ||
        o.gb.toNat % (if sp then 256 else 128) != 0 then some sBadarg
    else if !fmtIn (mTid o) (if i4 then [4] else [1, 2, 3]) || (sp && !fmtIn (mMeta o) [6]) then some sBaddesc
    else none
  | .mmul =>
    if bitsN a 31 9 != 0 || rowsBad o true then some sBadarg
    else if !fmtIn (mTid o) [1, 2, 3] then some sBaddesc
    else none
  | .mread =>
    if a / 256 != 0 || rowsBad o false then some sBadarg
    else if !fmtIn (mTid o) [0, 1, 5] then some sBaddesc
    else none
  | _ => if rowsBad o false then some sBadarg else none

/-! ### Elements of a source (R117, R119, R120, R249) -/

/-- A source byte lies in the issuing block's scratch, through its aperture. -/
def inBlockScr (s : State) (o : EngOp) (va : Nat) : Bool := blockScr ≤ va && va < blockScr + (s.blockAt o.blk).scrLen

/-- The number in `n` source bytes. -/
def srcRead (s : State) (o : EngOp) (va n : Nat) : Except Nat Nat :=
  if (vaRange va n).all (inBlockScr s o) then engRead s o va n else .error cRange

/-- Index of an element's scale. -/
def hasScale (d : BitVec 512) : Bool := dFmt d != 1 && dFmt d != 6 && dScale d != 0

/-- The stored bits of an element. -/
def rawElem (s : State) (o : EngOp) (d : BitVec 512) (i : Nat × Nat × Nat × Nat) : Except Nat Nat :=
  if dFmt d == 4 then (srcRead s o (elemVa d i) 1).map (partOf (1 + elemIdx d i % 2)) else srcRead s o (elemVa d i) (fmtBytes (dFmt d))

/-- A value under an E8 scale (R119). -/
def e8Scale (v : Nat) (x : FVal) : FVal :=
  if v == 255 then .nan
  else match x with
    | .num g n e => .num g n (e + (v : Int) - 127)
    | y => y

/-- The value of an element's bits without its scale. -/
def plainElem (fmt raw : Nat) : FVal :=
  match fmt with
  | 0 => unpack32 false (BitVec.ofNat 32 raw)
  | 1 => unpackBf16 false (BitVec.ofNat 32 raw)
  | 2 => unpackM8 raw
  | 3 => .num (signedN 8 raw < 0) (signedN 8 raw).natAbs 0
  | _ => .num false raw 0

/-- An INT4 element expanded to BF16 (R120). -/
def expandInt4 (q z : Nat) (sc : W32) : FVal :=
  let r : Int := (q : Int) - (z : Int)
  unpackBf16 false (packBf16 0 false (mulVal (.num (r < 0) r.natAbs 0) (unpackBf16 false sc)))

/-- The E8 scale byte of an element, when its tensor carries scales. -/
def scaleByte (s : State) (o : EngOp) (d : BitVec 512) (i : Nat × Nat × Nat × Nat) : Except Nat (Option Nat) :=
  if hasScale d then (srcRead s o (vaPlus (dScale d) (scaleIdx d i)) 1).map some else .ok none

/-- The value of an element with its scale; zero outside the extents. -/
def elemVal (s : State) (o : EngOp) (d : BitVec 512) (i : Nat × Nat × Nat × Nat) : Except Nat FVal :=
  if !inExt d i then .ok (.num false 0 0)
  else do
    let raw ← rawElem s o d i
    if dFmt d == 4 then
      let c := scaleIdx d i
      let sc ← srcRead s o (vaPlus (dScale d) (2 * c)) 2
      let z ← srcRead s o (vaPlus (dZpt d) (c / 2)) 1
      pure (expandInt4 raw (partOf (1 + c % 2) z) (BitVec.ofNat 32 sc))
    else
      let sc ← scaleByte s o d i
      pure (match sc with | some v => e8Scale v (plainElem (dFmt d) raw) | none => plainElem (dFmt d) raw)

/-! ### Alignment (R252, R257) -/

/-- A NaN or an infinity. -/
def isSpecial : FVal → Bool
  | .num _ _ _ => false
  | _ => true

/-- floor(log2) of the magnitude of a nonzero number. -/
def floorLog : FVal → Option Int
  | .num _ n e => if n == 0 then none else some ((n.log2 : Int) + e)
  | _ => none

/-- The largest floor(log2) of the nonzero numbers, 0 when there is none. -/
def blockExp (xs : List FVal) : Int :=
  match xs.filterMap floorLog with
  | [] => 0
  | e :: r => r.foldl max e

/-- A number times 2^`sh`, truncated toward zero. -/
def truncTo (sh : Int) : FVal → Int
  | .num g n e =>
    let m : Int := if 0 ≤ e + sh then Int.ofNat (n * 2 ^ (e + sh).toNat) else Int.ofNat (n / 2 ^ (-(e + sh)).toNat)
    if g then -m else m
  | _ => 0

/-- A seat column from its 128 elements: the aligned elements, XB, and the mark; a marked column's elements are unspecified. -/
def alignColumn (free n : Nat) (ys : List FVal) : List Int × Int × Bool :=
  if ys.any isSpecial then
    (ys.zipIdx.map fun v => signedN 16 (Config.freeNat free (v.2 * 256 + n)), signedN 8 (Config.freeNat free (32768 + n)), true)
  else
    let eb := blockExp ys
    (ys.map (truncTo (14 - eb)), eb - 14, false)

/-! ### Seating (R252 to R256) -/

/-- The metadata byte of group g of column n of a sparse seat, as read. -/
def metaByte (s : State) (o : EngOp) (g n : Nat) : Except Nat Nat :=
  let d := mMeta o
  let i := (o.gb.toNat / 4 + g, o.gc.toNat + n, 0, 0)
  if inExt d i then srcRead s o (elemVa d i) 1 else .ok 0

/-- All metadata bytes of a sparse seat, group by group. -/
def allMeta (s : State) (o : EngOp) : Except Nat (List Nat) :=
  (List.range 16384).mapM fun j => metaByte s o (j / 256) (j % 256)

/-- POS0 equals POS1. -/
def metaDup (v : Nat) : Bool := v % 4 == v / 4 % 4

/-- The elements of one seat column as read. -/
def columnVals (s : State) (o : EngOp) (n : Nat) : Except Nat (List FVal) :=
  let sp := o.ectl / 2 % 2 == 1
  (List.range 128).mapM fun k =>
    elemVal s o (mTid o) ((if sp then o.gb.toNat / 2 + k else o.gb.toNat + k), o.gc.toNat + n, 0, 0)

/-- A seat from its columns and metadata: the row of a group's second value is zero in a column with a duplicate (R255). That value still
counts in the exponent and the mark of its column (DESIGN CHOICE, log 110), and a dense seat has metadata bytes of zero (DESIGN CHOICE, log
111). -/
def seatOf (free : Nat) (o : EngOp) (cols : List (List FVal)) (md : List Nat) : Seat :=
  let sp := o.ectl / 2 % 2 == 1
  let as_ := cols.zipIdx.map fun v => alignColumn free v.2 v.1
  let el (k n : Nat) : Int :=
    if sp && k % 2 == 1 && metaDup (md.getD (k / 2 * 256 + n) 0) then 0 else ((as_.getD n ([], 0, false)).1).getD k 0
  { b := (List.range 32768).map fun j => (j, el (j / 256) (j % 256))
    xb := as_.zipIdx.map fun v => (v.2, v.1.2.1)
    mark := as_.zipIdx.map fun v => (v.2, v.1.2.2)
    sparse := sp
    int8 := dFmt (mTid o) == 3 && dScale (mTid o) == 0
    mdata := md.zipIdx.map fun v => (v.2, v.1) }

/-- MSEAT executes: the seat and the number of groups zeroed, or a fault that leaves the seat unspecified (R252 to R255, R264). -/
def doSeat (s : State) (o : EngOp) : State :=
  let sp := o.ectl / 2 % 2 == 1
  let md : Except Nat (List Nat) := if !sp then .ok [] else if o.vals.isEmpty then allMeta s o else .ok o.vals
  match md, (List.range 256).mapM (columnVals s o) with
  | .ok md, .ok cols =>
    let dups := (md.filter metaDup).length
    let s := s.modCore (engCore s o) fun c => { c with mat := c.mat.modSeat (mSeat o) fun _ => seatOf s.free o cols md }
    let s := if dups == 0 then s else s.setSticky o.ctx stMddup
    finishOp s.useFree o (BitVec.ofNat 32 (dups % 2 ^ 16))
  | .error e, _ => faultOp (s.modCore (engCore s o) fun c => { c with mat := c.mat.modSeat (mSeat o) fun _ => spoilSeat s.free }).useFree o e
  | _, .error e => faultOp (s.modCore (engCore s o) fun c => { c with mat := c.mat.modSeat (mSeat o) fun _ => spoilSeat s.free }).useFree o e

/-! ### Feeding (R257, R258) -/

/-- Logical k span of a seat (R254). -/
def spanOf (st : Seat) : Nat := if st.sparse then 256 else 128

/-- An aligned row of A: its integers, XA, RowMark, the Booth digits of an element, and whether it is INT8 unscaled. -/
structure ARow where
  a : List Int
  xa : Int
  mark : Bool
  digits : Nat
  deriving DecidableEq, Repr

/-- An element's stored bits are a subnormal of its own format (R257). -/
def ownSubnormal (fmt raw : Nat) : Bool :=
  match fmt with
  | 1 => raw / 128 % 256 == 0 && raw % 128 != 0
  | 2 => 1 ≤ raw % 128 && raw % 128 ≤ 7
  | _ => false

/-- An element of A with its scale, flushed under MFTZ (R98, R257). -/
def feedVal (s : State) (o : EngOp) (i : Nat × Nat × Nat × Nat) : Except Nat FVal :=
  let d := mTid o
  if !inExt d i then .ok (.num false 0 0)
  else do
    let raw ← rawElem s o d i
    let sc ← scaleByte s o d i
    let x := if o.fpctl.getLsbD 3 && ownSubnormal (dFmt d) raw then FVal.num false 0 0 else plainElem (dFmt d) raw
    pure (match sc with | some v => e8Scale v x | none => x)

/-- The integers of an INT8 span. -/
def intSpan (s : State) (o : EngOp) (is_ : List (Nat × Nat × Nat × Nat)) : Except Nat (List Int) :=
  is_.mapM fun i => if inExt (mTid o) i then (rawElem s o (mTid o) i).map (signedN 8) else .ok 0

/-- The one scale of a span's elements, when they carry one. -/
def oneScale (s : State) (o : EngOp) (is_ : List (Nat × Nat × Nat × Nat)) : Except Nat (Option Nat) := do
  let vs ← (is_.filter (inExt (mTid o))).mapM (scaleByte s o (mTid o))
  pure (match distinct (vs.filterMap id) with
    | [v] => if v == 255 then none else some v
    | _ => none)

/-- A span aligned as one block (R257). A NaN or an infinity counts no digits, and the exponent is that of the other elements: the rules give
the time of such a row none (DESIGN CHOICE, log 93). -/
def alignRow (xs : List FVal) : ARow :=
  let e := blockExp xs
  ⟨xs.map (truncTo (10 - e)), e - 10, xs.any isSpecial, 6⟩

/-- Row m of a command, over the span of its seat. -/
def feedRow (s : State) (o : EngOp) (st : Seat) (m : Nat) : Except Nat ARow := do
  let d := mTid o
  let k0 := spanOf st * bitsN o.gc.toNat 31 16
  let is_ := (List.range (spanOf st)).map fun k => (k0 + k, o.gb.toNat + m, 0, 0)
  if dFmt d == 3 then
    if dScale d == 0 then
      let xs ← intSpan s o is_
      pure ⟨xs, 0, false, 4⟩
    else
      let sc ← oneScale s o is_
      match sc with
      | some v =>
        let xs ← intSpan s o is_
        pure ⟨xs, (v : Int) - 127, false, 4⟩
      | none =>
        let xs ← is_.mapM (feedVal s o)
        pure (alignRow xs)
  else
    let xs ← is_.mapM (feedVal s o)
    pure (alignRow xs)

/-- Bit i of an integer in two's complement; bit −1 is 0. -/
def intBit (a : Int) (i : Nat) : Int := a / (2 ^ i : Nat) % 2

/-- Booth digit j of an integer (R258). -/
def boothDigit (a : Int) (j : Nat) : Int := -2 * intBit a (2 * j + 1) + intBit a (2 * j) + (if j == 0 then 0 else intBit a (2 * j - 1))

/-- The nonzero digits of an integer. -/
def boothCount (digits : Nat) (a : Int) : Nat := ((List.range digits).filter fun j => boothDigit a j != 0).length

/-- The time of a row in clk (R258). -/
def rowTime (r : ARow) : Nat := max 1 (maxN (r.a.map (boothCount r.digits)))

/-! ### Accumulation and promotion (R246, R260, R261) -/

/-- AddAligned of R261; the exponent −128 marks an infinity or a NaN. -/
def addAligned (acc : Int × Int) (p y : Int) : Int × Int :=
  let (v, x) := acc
  if x == -128 then
    if v == 0 || (127 < y && p != 0 && ((0 < v) != (0 < p))) then (0, -128) else (v, x)
  else if 127 < y && p != 0 then (if 0 < p then 1 else -1, -128)
  else
    let p := if y < -127 then p / (2 ^ (-127 - y).toNat : Nat) else p
    let y := max y (-127)
    if v == 0 then (p, y)
    else if x < y then (v / (2 ^ (y - x).toNat : Nat) + p, y)
    else (v + p / (2 ^ (x - y).toNat : Nat), x)

/-- A narrow accumulator's value (R246). -/
def narrowVal (acc : Int × Int) : FVal :=
  if acc.2 == -128 then (if acc.1 == 0 then .nan else .inf (acc.1 < 0)) else .num (acc.1 < 0) acc.1.natAbs acc.2

/-- The FP32 promotion of a value into a word: a zero leaves the word (DEDUCED, log 59). -/
def promoteF (w : FVal) (old : W32) : W32 :=
  match w with
  | .num _ 0 _ => old
  | w => pack32 0 false (addVal 0 (unpack32 false old) (unpack32 false (pack32 0 false w)))

/-- The INT32 promotion of a value into a word, and whether it saturated; a value that is no integer or a NaN leaves it
unspecified. -/
def promoteI (free i : Nat) (w : FVal) (old : W32) : W32 × Bool :=
  match w with
  | .nan => (Config.freeWord free i, false)
  | .inf g => (if g then 0x80000000#32 else 0x7FFFFFFF#32, true)
  | .num g n e =>
    if 0 ≤ e || n % 2 ^ (-e).toNat == 0 then
      let m : Int := if 0 ≤ e then Int.ofNat (n * 2 ^ e.toNat) else Int.ofNat (n / 2 ^ (-e).toNat)
      let r := old.toInt + (if g then -m else m)
      (BitVec.ofInt 32 (saturate 4 true r), saturate 4 true r != r)
    else (Config.freeWord free i, false)

/-- One accumulator row promoted, and whether a word saturated. -/
def promoteRow (free : Nat) (int : Bool) (r : Nat) (m : Matrix) : Matrix × Bool :=
  let res := (List.range 256).map fun n =>
    let i := r * 256 + n
    let w := narrowVal (smGet (0, 0) m.narrow i)
    let old := smGet 0#32 m.acc i
    if int then promoteI free i w old else (promoteF w old, false)
  let mine (i : Nat) : Bool := i / 256 == r
  ({ m with
     acc := refill m.acc 16384 mine fun i => (res.getD (i % 256) (0, false)).1
     narrow := m.narrow.filter fun e => !mine e.1
     steps := smErase m.steps r }, res.any (·.2))

/-- The exact partial of a row and a column of a seat. -/
def partialSum (st : Seat) (a : List Int) (n : Nat) : Int :=
  ((List.range 128).map fun k =>
    let j := if st.sparse then
        let v := smGet 0 st.mdata (k / 2 * 256 + n)
        4 * (k / 2) + (if k % 2 == 0 then v % 4 else v / 4 % 4)
      else k
    a.getD j 0 * smGet 0 st.b (k * 256 + n)).foldl (· + ·) 0

/-- The narrow accumulators of a row after one k-step, and whether a NaN was met. -/
def addRow (st : Seat) (row : ARow) (r : Nat) (m : Matrix) : Matrix × Bool :=
  let bad (n : Nat) : Bool := row.mark || smGet false st.mark n
  let mine (i : Nat) : Bool := i / 256 == r
  ({ m with
     narrow := refill m.narrow 16384 mine fun i =>
       if bad (i % 256) then (0, -128)
       else addAligned (smGet (0, 0) m.narrow i) (partialSum st row.a (i % 256)) (row.xa + smGet 0 st.xb (i % 256)) },
   (List.range 256).any bad)

/-- An MMUL on the integer path (R260). -/
def integerPath (o : EngOp) (st : Seat) : Bool := dFmt (mTid o) == 3 && dScale (mTid o) == 0 && st.int8

/-- One row of an executing MMUL: its time has elapsed, its partials are added, and it may promote (R259, R261). -/
def mmulRow (s : State) (o : EngOp) : State :=
  let m := (s.coreAt (engCore s o)).mat
  let st := m.seat (mSeat o)
  let r := (rowsNamed o).1 + o.prog
  match feedRow s o st o.prog with
  | .error e => faultOp s o e
  | .ok row =>
    let (m1, nan) := addRow st row r m
    let n := smGet 0 m1.steps r + 1
    let m2 := { m1 with steps := smSet m1.steps r n }
    let (m3, sat) := if o.ectl % 16 + 1 ≤ n then promoteRow s.free (integerPath o st) r m2 else (m2, false)
    let s := s.modCore (engCore s o) fun c => { c with mat := m3 }
    let s := if nan then s.setSticky o.ctx stMnan else s
    let s := if sat then s.setSticky o.ctx stIsat else s
    (s.modOp o.core o.slot fun q =>
      { q with
        prog := q.prog + 1
        acc := q.acc + BitVec.ofNat 32 (rowTime row)
        status := q.status ||| (if nan then 0x10000#32 else 0) ||| (if sat then 0x20000#32 else 0) }).useFree

/-- The word of a finished MMUL (R250). -/
def mmulStatus (o : EngOp) : W32 := BitVec.ofNat 32 (min 65535 o.acc.toNat) ||| o.status

/-! ### MREAD (R251) -/

/-- The bytes that an MREAD writes: element addresses and the bytes of the accumulator words. -/
def mreadBytes (s : State) (o : EngOp) : List (Nat × Nat) :=
  let d := mTid o
  let m := (s.coreAt (engCore s o)).mat
  (List.range (rowsNamed o).2).flatMap fun r =>
    (List.range 256).flatMap fun n =>
      let i := (n, o.gb.toNat + r, 0, 0)
      if !inExt d i then []
      else
        let w := smGet 0#32 m.acc (((rowsNamed o).1 + r) * 256 + n)
        let v := if dFmt d == 1 then packBf16 0 false (unpack32 false w) else w
        (elemParts d i).zipIdx.map fun p => (p.1.1, v.toNat / 256 ^ p.2 % 256)

/-- The destination addresses of an MREAD. -/
def mreadVas (o : EngOp) : List Nat :=
  let d := mTid o
  (List.range (rowsNamed o).2).flatMap fun r =>
    (List.range 256).flatMap fun n =>
      let i := (n, o.gb.toNat + r, 0, 0)
      if inExt d i then (elemParts d i).map (·.1) else []

/-- Rows that an MREAD writes. -/
def mreadRows (o : EngOp) : Nat := ((List.range (rowsNamed o).2).filter fun r => inExt (mTid o) (0, o.gb.toNat + r, 0, 0)).length

/-- A place of a scratchpad that is not in the issuing block's scratch aperture (R443). -/
def strayScratch (s : State) (o : EngOp) (va : Nat) (p : Place) : Bool :=
  (match p.loc with | .mem k => isScratchKey k | _ => false) && !inBlockScr s o va

/-- Some bytes of an engine's result, with their places; or the cause of the first failed check. -/
def placeBytes (s : State) (o : EngOp) (bs : List (Nat × Nat)) : Except Nat (List (Nat × Place × Nat)) :=
  bs.mapM fun b =>
    match engPlace s o b.1 with
    | .error e => .error e
    | .ok p => if o.kind == .mread && strayScratch s o b.1 p then .error cRange else .ok (b.1, p, b.2)

/-- Bytes of one element of a command's result. -/
def elemSize (o : EngOp) : Nat := if o.kind == .mread then fmtBytes (dFmt (mTid o)) else 4

/-- One destination sector of a result (R153, R174): `bs` are all the bytes of the result, and of elements that share bytes one is written. -/
def resultSector (s : State) (o : EngOp) (bs : List (Nat × Nat)) (sec : Nat) : State :=
  let mine := (bs.zipIdx.map fun b => (b.1.1, b.2 / elemSize o, b.1.2)).filter fun b => b.1 / 32 == sec
  if o.sectorsDone.contains sec || mine.isEmpty then s
  else
    let vas := distinct (mine.map (·.1))
    match placeBytes s o (vas.map fun va => (va, pickVal o ((mine.filter fun b => b.1 == va).map (·.2)))) with
    | .error e => faultOp s o e
    | .ok ws => ((writeBytes s o ws).modOp o.core o.slot fun q => { q with sectorsDone := q.sectorsDone ++ [sec] }).useFree

/-- Every sector of some destination bytes is written. -/
def sectorsWritten (o : EngOp) (vas : List Nat) : Bool := vas.all fun va => o.sectorsDone.contains (va / 32)

/-! ### The engine's order (R247 to R249, R256) -/

/-- A command of the matrix engine. -/
def isMatrix (k : EngKind) : Bool := [EngKind.mseat, .mmul, .mprom, .mread, .mclr, .mstat].contains k

/-- Commands reach the engine by issue clk, then lower partition, then in the order of their issue there (R248). -/
def comesBefore (q o : EngOp) : Bool :=
  q.issued < o.issued || (q.issued == o.issued && (q.w.part < o.w.part || (q.w.part == o.w.part && q.born < o.born)))

/-- A command has reached the engine: it is in its queue, or it waits there for the engine. -/
def reached (s : State) (o : EngOp) : Bool :=
  (s.coreAt (engCore s o)).mat.queue.contains o.born || (s.coreAt (engCore s o)).mat.waiting.contains o.born

/-- A command may reach the engine: its block is resident, and no earlier one of the core is still on its way. -/
def mayReach (s : State) (o : EngOp) : Bool :=
  o.state == .queued && o.issued < s.clk && !opHeld s o &&
  s.ops.all fun q => !(engCore s q == engCore s o && !opHeld s q && isMatrix q.kind && (q.state == .held || q.state == .queued) &&
    !reached s q && comesBefore q o)

/-- The seat of a command will be sparse when it executes: as the last MSEAT before it leaves it (R256). -/
def seatSparse (s : State) (o : EngOp) : Bool :=
  let m := (s.coreAt (engCore s o)).mat
  let before := (m.queue.takeWhile (· != o.born)).filterMap fun i => s.opBorn? i
  match (before.filter fun q => q.kind == .mseat && mSeat q == mSeat o && !q.over).getLast? with
  | some q => q.ectl / 2 % 2 == 1
  | none => (m.seat (mSeat o)).sparse

/-- Scratch that a command reads and writes (R249): the bounding range of its tile or rows. -/
def matrixRanges (s : State) (o : EngOp) : List Nat × List Nat :=
  if (matrixErr o).isSome then ([], [])
  else
    let scr (vas : List Nat) : List Nat := vas.filter (inBlockScr s o)
    let d := mTid o
    match o.kind with
    | .mseat =>
      let sp := o.ectl / 2 % 2 == 1
      let tile := (List.range 32768).flatMap fun j =>
        let i := ((if sp then o.gb.toNat / 2 else o.gb.toNat) + j / 256, o.gc.toNat + j % 256, 0, 0)
        if inExt d i then
          (elemParts d i).map (·.1) ++
            (if dFmt d == 4 then [vaPlus (dScale d) (2 * scaleIdx d i), vaPlus (dScale d) (2 * scaleIdx d i + 1),
               vaPlus (dZpt d) (scaleIdx d i / 2)]
             else if hasScale d then [vaPlus (dScale d) (scaleIdx d i)] else [])
        else []
      let md := if sp then (List.range 16384).flatMap fun j =>
          let i := (o.gb.toNat / 4 + j / 256, o.gc.toNat + j % 256, 0, 0)
          if inExt (mMeta o) i then [elemVa (mMeta o) i] else []
        else []
      (scr (tile ++ md), [])
    | .mmul =>
      let span := if seatSparse s o then 256 else 128
      let k0 := span * bitsN o.gc.toNat 31 16
      (scr ((List.range (rowsNamed o).2).flatMap fun m => (List.range span).flatMap fun k =>
        let i := (k0 + k, o.gb.toNat + m, 0, 0)
        if inExt d i then (elemParts d i).map (·.1) ++ (if hasScale d then [vaPlus (dScale d) (scaleIdx d i)] else []) else []), [])
    | .mread => ([], scr (mreadVas o))
    | _ => ([], [])

/-- A block takes the engine: everything in it is zero (R247). -/
def takeEngine (blk : Nat) (m : Matrix) : Matrix :=
  { blankMatrix with
    holder := some blk
    waiting := m.waiting
    lastClk := 0 }

/-- MSTAT at the engine (R265) (DEDUCED, log 60). -/
def mstatWord (s : State) (o : EngOp) : W32 :=
  let m := (s.coreAt (engCore s o)).mat
  let live := s.ops.filter fun q => q.blk == o.blk && !q.over && q.ref != o.ref
  let queued := min 255 (live.filter fun q => m.queue.contains q.born || m.waiting.contains q.born).length
  if m.holder == some o.blk then
    BitVec.ofNat 32 (min 65535 m.lastClk * 2 ^ 16 + (if live.any fun q => isMatrix q.kind && q.state == .running then 512 else 0) + 256 +
      queued)
  else BitVec.ofNat 32 queued

/-- No command that waits at the engine comes before one that reaches it: of its block, or of any when the engine is free (R247, R248). -/
def noneWaits (s : State) (m : Matrix) (o : EngOp) : Bool :=
  (m.waiting.takeWhile (· != o.born)).all fun i =>
    match s.opBorn? i with
    | some q => m.holder.isSome && q.blk != o.blk
    | none => true

/-- A command reaches the engine: MSTAT resolves; another takes the engine when it is free, queues when its block holds it, and waits
otherwise (R247, R249). A command that waits comes again once the engine is free. -/
def acceptMatrix (s : State) (o : EngOp) : State :=
  let m := (s.coreAt (engCore s o)).mat
  if m.queue.contains o.born || !(m.waiting.contains o.born || mayReach s o) || o.state != .queued then s
  else if o.kind == .mstat then finishOp s o (mstatWord s o)
  else if (m.holder.isNone || m.holder == some o.blk) && noneWaits s m o then
    let s := s.modCore (engCore s o) fun c =>
      let m := if c.mat.holder.isNone then takeEngine o.blk c.mat else c.mat
      { c with mat := { m with queue := m.queue ++ [o.born], waiting := m.waiting.filter (· != o.born) } }
    askEntries s o (matrixRanges s o).1 (matrixRanges s o).2
  else if m.waiting.contains o.born then s
  else s.modCore (engCore s o) fun c => { c with mat := { c.mat with waiting := c.mat.waiting ++ [o.born] } }

/-- MATRIX_COMMAND_ACCEPT. -/
def execMatrixCommandAccept (core slot : Nat) (s : State) : Host.Outcome State Fault Refusal :=
  .next (match s.opAt? core slot with
    | some o => if isMatrix o.kind then acceptMatrix s o else s
    | none => s)

/-- Rows that a command writes. -/
def writesRows (o : EngOp) : List Nat :=
  if [EngKind.mmul, .mprom, .mclr].contains o.kind then (List.range (rowsNamed o).2).map fun i => (rowsNamed o).1 + i else []

/-- Rows that an MREAD reads. -/
def readsRows (o : EngOp) : List Nat := (List.range (rowsNamed o).2).map fun i => (rowsNamed o).1 + i

/-- Two MREADs write no byte in common. -/
def apartReads (s : State) (e o : EngOp) : Bool :=
  (engKeys s o .wr (mreadVas o)).all fun k => !(engKeys s e .wr (mreadVas e)).contains k

/-- A command may execute while an earlier one does (R248): MSEAT and MMUL on different seats; an MREAD with a command that writes none
of its rows and that neither reads nor writes a byte which the MREAD writes, so that they take effect as if in order. -/
def mayOverlap (s : State) (e o : EngOp) : Bool :=
  if (e.kind == .mseat && o.kind == .mmul) || (e.kind == .mmul && o.kind == .mseat) then mSeat e != mSeat o
  else if o.kind == .mread && e.kind == .mread then apartReads s e o
  else if o.kind == .mread then
    (writesRows e).all (fun r => !(readsRows o).contains r) && (mreadVas o).all fun v => !(matrixRanges s e).1.contains v
  else if e.kind == .mread then
    (writesRows o).all (fun r => !(readsRows e).contains r) && (mreadVas e).all fun v => !(matrixRanges s o).1.contains v
  else false

/-- A command at the engine may start: it holds its entries, and every earlier command is over or lets it overlap. -/
def mayStart (s : State) (o : EngOp) : Bool :=
  let q := (s.coreAt (engCore s o)).mat.queue
  o.state == .queued && q.contains o.born && entriesHeld s o &&
  (q.takeWhile (· != o.born)).all fun i =>
    match s.opBorn? i with
    | some e => e.over || mayOverlap s e o
    | none => true

/-- A command starts, or ends with the fault of its arguments (R250); BADARG touches no state, and BADDESC leaves the seat of an MSEAT
unspecified (R264). -/
def startMatrix (s : State) (o : EngOp) : State :=
  match matrixErr o with
  | some e =>
    if o.kind == .mseat && e == sBaddesc then
      faultOp (s.modCore (engCore s o) fun c => { c with mat := c.mat.modSeat (mSeat o) fun _ => spoilSeat s.free }).useFree o e
    else faultOp s o e
  | none => s.modOp o.core o.slot fun q => { q with state := .running }

/-- MPROM: the named rows are promoted as FP32 (R251, R260). -/
def doProm (s : State) (o : EngOp) : State :=
  let (r0, n) := rowsNamed o
  let s := s.modCore (engCore s o) fun c =>
    { c with mat := (List.range n).foldl (fun m i => (promoteRow s.free false (r0 + i) m).1) c.mat }
  finishOp s o 0

/-- MCLR: the named rows are zero (R251). -/
def doClr (s : State) (o : EngOp) : State :=
  let (r0, n) := rowsNamed o
  let keep (r : Nat) : Bool := !(r0 ≤ r && r < r0 + n)
  let s := s.modCore (engCore s o) fun c =>
    { c with
      mat :=
        { c.mat with
          narrow := c.mat.narrow.filter fun e => keep (e.1 / 256)
          acc := c.mat.acc.filter fun e => keep (e.1 / 256)
          steps := c.mat.steps.filter fun e => keep e.1 } }
  finishOp s o 0

/-- A step of a matrix command at the engine: it starts, executes, or ends once its rows or sectors are done. -/
def stepMatrix (s : State) (o : EngOp) : State :=
  if o.state == .queued then (if mayStart s o then startMatrix s o else s)
  else match o.kind with
    | .mseat => doSeat s o
    | .mprom => doProm s o
    | .mclr => doClr s o
    | .mread => farGate s o [(true, 1, mreadVas o)] <| if sectorsWritten o (mreadVas o) then finishOp s o (BitVec.ofNat 32 (mreadRows o)) else s
    | .mmul =>
      if o.prog < (rowsNamed o).2 then s
      else
        let v := mmulStatus o
        finishOp (s.modCore (engCore s o) fun c => { c with mat := { c.mat with lastClk := v.toNat % 2 ^ 16 } }) o v
    | _ => s

/-- MMUL_ROW_TIME_ELAPSED: the next row of the core's executing MMUL. -/
def execMmulRowTimeElapsed (core : Nat) (s : State) : Host.Outcome State Fault Refusal :=
  .next (match s.ops.find? fun o => engCore s o == core && o.kind == .mmul && o.state == .running && o.prog < (rowsNamed o).2 with
    | some o => mmulRow s o
    | none => s)

/-! ### The words -/

/-- The metadata of an MSEAT.sp under MDTRAP, read at issue, unless its arguments are refused (R255). -/
def issueMeta (s : State) (c : Cur) (m : Cmd) : List Nat :=
  let o := newOp s c m 0 0
  if m.ectl / 2 % 2 == 1 && m.fpctl.getLsbD 4 && (matrixErr o).isNone then
    (match allMeta s o with | .ok l => l | .error _ => [])
  else []

/-- The metadata of an MSEAT.sp under MDTRAP is read at issue, once the fork of its command would let it go; until then the word waits (R175,
R255) (DEDUCED, log 94). -/
def metaWaits (s : State) (c : Cur) (m : Cmd) : Bool :=
  m.ectl / 2 % 2 == 1 && m.fpctl.getLsbD 4 && s.accesses.any (forkWaits s (newOp s c m 0 0))

/-- MSEAT; a duplicate under MDTRAP traps at the word (R255). -/
def execMseat (h : Hdr) (d a b c : Code) (i4 sp : Bool) (s : State) : Host.Outcome State Fault Refusal :=
  .next (runWord (.mseat h d a b c i4 sp) s fun s u =>
    let ls := active s u h
    if ls.isEmpty then advance s u
    else
      let m := pathCmd .mseat s u h d (fun l => rd s l a) (fun l => rd s l b) (fun l => rd s l c) ((if i4 then 1 else 0) + (if sp then 2 else 0))
      let md := issueMeta s u m
      if metaWaits s u m then popIssue s
      else if md.any metaDup then trapWord s u cMddup (maskOf (ls.map (·.id)))
      else
        let t := issueOp s u m
        advance (match lastOp? t with
          | some o => t.modOp o.core o.slot fun q => { q with vals := md }
          | none => t) u)

/-- An MMUL with .arm waits in its slot; an earlier one there is cancelled (R156) (DEDUCED, log 58). -/
def armSlot (arm : Bool) (slot : Nat) (s : State) (o : EngOp) : State :=
  if !arm then s
  else
    let s := disarm s o slot .stopped
    (s.modOp o.core o.slot fun q => { q with state := .armed }).modWarp o.w fun w => { w with mq := smSet w.mq slot o.ref }

/-- MMUL (R261). -/
def execMmul (h : Hdr) (d a b c : Code) (p : BitVec 4) (arm : Bool) (slot : BitVec 2) (s : State) : Host.Outcome State Fault Refusal :=
  .next (matrixWordOf (.mmul h d a b c p arm slot) h
    (fun s u => pathCmd .mmul s u h d (fun l => rd s l a) (fun l => rd s l b) (fun l => rd s l c) (p.toNat + (if arm then 16 else 0) + 32 * slot.toNat))
    (armSlot arm slot.toNat) s)

/-- MPROM (R251). -/
def execMprom (h : Hdr) (d c : Code) (s : State) : Host.Outcome State Fault Refusal :=
  .next (matrixWordOf (.mprom h d c) h
    (fun s u => pathCmd .mprom s u h d (fun _ => 0) (fun _ => 0) (fun l => rd s l c) 0) (fun s _ => s) s)

/-- MCLR (R251). -/
def execMclr (h : Hdr) (d c : Code) (s : State) : Host.Outcome State Fault Refusal :=
  .next (matrixWordOf (.mclr h d c) h
    (fun s u => pathCmd .mclr s u h d (fun _ => 0) (fun _ => 0) (fun l => rd s l c) 0) (fun s _ => s) s)

/-- MREAD (R251). -/
def execMread (h : Hdr) (d a b c : Code) (s : State) : Host.Outcome State Fault Refusal :=
  .next (matrixWordOf (.mread h d a b c) h
    (fun s u => pathCmd .mread s u h d (fun l => rd s l a) (fun l => rd s l b) (fun l => rd s l c) 0) (fun s _ => s) s)

/-- MSTAT (R265). -/
def execMstat (h : Hdr) (d : Code) (s : State) : Host.Outcome State Fault Refusal :=
  .next (matrixWordOf (.mstat h d) h (fun s u => pathCmd .mstat s u h d (fun _ => 0) (fun _ => 0) (fun _ => 0) 0) (fun s _ => s) s)

end Sys2Proof.Machine
end

