-- ==== Sys2Proof/Machine/Sets.lean ====
section
/-!
DEFINITION. The Crock: heap header and directory, chunks and their representations, the policy, algorithms and their cost, mutations and
folds, readers and snapshots, and the set instructions (R220 to R242, R468 to R491).
-/

namespace Sys2Proof.Machine

/-! ### Chunks (R225, R227 to R229) -/

/-- The keys of a list, ascending, each once. -/
def sortKeys (l : List Nat) : List Nat := sortBy id (distinct l)

/-- Span of ascending keys: largest − smallest + 1. -/
def keySpan (ks : List Nat) : Nat :=
  match ks, ks.getLast? with
  | a :: _, some b => b - a + 1
  | _, _ => 0

/-- Maximal runs of ascending keys. -/
def keyRuns (ks : List Nat) : Nat := (ks.zipIdx.filter fun k => k.2 == 0 || ks.getD (k.2 - 1) 0 + 1 != k.1).length

/-- Capacity of HASH storage: the smallest power of two at least 2n and at least 8. -/
def hashCap (n : Nat) : Nat := max 8 (if n == 0 then 0 else 2 ^ (Nat.log2 (2 * n - 1) + 1))

/-- Storage words of a representation: 0 BITMAP, 1 SORTED, 2 RUNS, 3 HASH (R227). -/
def repWords (k : Nat) (ks : List Nat) : Nat :=
  match k with
  | 0 => ceilDiv (keySpan ks) 32 + 1
  | 1 => ks.length
  | 2 => 2 * keyRuns ks
  | _ => hashCap ks.length

/-- Storage words of a chunk. -/
def Chunk.words (c : Chunk) : Nat := repWords c.repk c.keys

/-- The smallest of RUNS, BITMAP and SORTED; ties in that order (R229). -/
def bestRep (ks : List Nat) : Nat :=
  let b := if repWords 0 ks < repWords 2 ks then 0 else 2
  if repWords 1 ks < repWords b ks then 1 else b

/-- The representation of a chunk after a fold (R229); `cur` is none for a new chunk. -/
def policy (ks : List Nat) (cur : Option Nat) (m : Nat) : Nat :=
  let hashPref := 2 * ks.length ≤ m && 8 ≤ ks.length
  let best := bestRep ks
  match cur with
  | none => if hashPref then 3 else best
  | some c =>
    if hashPref && c != 3 then 3
    else if !hashPref && c == 3 then best
    else if !hashPref && 4 * repWords best ks ≤ 3 * repWords c ks then best
    else c

/-- M after a fold that leaves a chunk in a representation: a conversion other than to HASH sets it to 0 (R228). -/
def mutations (old : Option Chunk) (n rep : Nat) : Nat :=
  match old with
  | none => 0
  | some c => if rep != c.repk && rep != 3 then 0 else min 131071 (c.m + n)

/-! ### Storage words (R225, R227) -/

/-- First key and length of the maximal runs of ascending keys. -/
def runList (ks : List Nat) : List (Nat × Nat) :=
  ks.foldl (fun l k =>
    match l.getLast? with
    | some r => if r.1 + r.2 == k then l.dropLast ++ [(r.1, r.2 + 1)] else l ++ [(k, 1)]
    | none => [(k, 1)]) []

/-- HASH storage of ascending keys: each key in its home slot, or in the first free slot after it. -/
def hashWords (ks : List Nat) : List Nat :=
  let c := hashCap ks.length
  ks.foldl (fun (l : List Nat) k =>
    let h := k * 0x9E3B1A57 % 2 ^ 32 / 2 ^ (32 - Nat.log2 c)
    match ((List.range c).map fun i => (h + i) % c).find? fun i => l.getD i 0 == 0 with
    | some i => l.set i (k % 65536 + 65536)
    | none => l) (List.replicate c 0)

/-- BITMAP storage of ascending keys. -/
def bitmapWords (ks : List Nat) : List Nat :=
  let lo := ks.headD 0
  (lo % 65536 + (keySpan ks - 1) * 65536) :: (List.range (ceilDiv (keySpan ks) 32)).map fun w =>
    sumN ((List.range 32).map fun b => if ks.contains (lo + 32 * w + b) then 2 ^ b else 0)

/-- The storage words of a chunk (R227). -/
def chunkWords (c : Chunk) : List Nat :=
  match c.repk with
  | 0 => bitmapWords c.keys
  | 1 => c.keys
  | 2 => (runList c.keys).flatMap fun r => [r.1, r.2]
  | _ => hashWords c.keys

/-- The descriptor of a chunk (R225). -/
def chunkDesc (c : Chunk) : Nat :=
  c.hi % 65536 * 2 ^ 112 + c.repk % 4 * 2 ^ 110 + c.tier % 2 * 2 ^ 109 + c.keys.length * 2 ^ 92 + c.m % 2 ^ 17 * 2 ^ 75 + c.addr % 2 ^ 64

/-- The 128 bytes of a directory entry (R224). Slots of LOG and LOGOP from LOGN on are zero, which no rule says (DESIGN CHOICE, log 112). -/
def entryBits (e : SetEntry) : Nat :=
  sumN (e.log.zipIdx.map fun k => k.1.1 % 2 ^ 32 * 2 ^ (512 + 32 * k.2)) +
  sumN (e.log.zipIdx.map fun k => if k.1.2 then 2 ^ (496 + k.2) else 0) +
  e.log.length * 2 ^ 491 + e.foldn * 2 ^ 486 + sumN (e.rep.map (·.keys.length)) * 2 ^ 453 + e.rep.length * 2 ^ 436 +
  e.rdr * 2 ^ 420 + e.ordr * 2 ^ 404 + e.gen % 256 * 2 ^ 396 + e.st % 4 * 2 ^ 394 + e.tier % 2 * 2 ^ 393 +
  e.orepAt % 2 ^ 64 * 2 ^ 256 + e.repAt % 2 ^ 64 * 2 ^ 192 + e.ver.toNat * 2 ^ 160

/-! ### Accesses of the Crock (R221, R222, R278) -/

/-- What stands against an access of the Crock to a range of a context's addresses: the cause of a failed check (R136). A page of another
device passes: its device has been asked by `heapGate` (R329). -/
def crockCause (s : State) (x : Nat) (need : Need) (r : Nat × Nat) : Option Nat :=
  (pieces r.1 r.2).findSome? fun q =>
    if isAperture q.1 then some cRange
    else match translate s (s.ctxAt x) q.1 need with
    | .error e => some e
    | .ok t => if t.remote.isNone && portDown s t then some cRange else none

/-- A read of the Crock: it observes tentative words and is charged to the stacks (R278, R287). -/
def crockTouch (s : State) (x : Nat) (r : Nat × Nat) : State :=
  (pieces r.1 r.2).foldl (fun s q =>
    match translate s (s.ctxAt x) q.1 .rd with
    | .error _ => s
    | .ok t =>
      if t.remote.isSome then s
      else chargeBlocks (observe s t.key q.2 none) ((List.range (blocks64 t.key q.2)).map fun i => t.key / 64 * 64 + 64 * i)) s

/-- A store of the Crock, charged to its stack. -/
def crockStore (s : State) (x : Nat) (w : Nat × Nat × Nat) : Except Nat State :=
  match translate s (s.ctxAt x) w.1 .wr with
  | .error e => .error e
  | .ok _ => if isAperture w.1 then .error cRange else partStore s x w.1 w.2.1 w.2.2

/-- Stores of the Crock: address, bytes, value. -/
def crockStores (s : State) (x : Nat) (ws : List (Nat × Nat × Nat)) : Except Nat State := ws.foldlM (fun s w => crockStore s x w) s

/-- The stores of a chunk's storage. -/
def chunkStores (c : Chunk) : List (Nat × Nat × Nat) := (chunkWords c).zipIdx.map fun w => (c.addr + 4 * w.2, 4, w.1)

/-- The stores of a chunk table at an address. -/
def tableStores (at_ : Nat) (cs : List Chunk) : List (Nat × Nat × Nat) := cs.zipIdx.map fun c => (at_ + 16 * c.2, 16, chunkDesc c.1)

/-- Bytes of a chunk's storage. -/
def Chunk.extent (c : Chunk) : Nat × Nat := (c.addr, 4 * c.words)

/-- The ranges that a command reads of a table: its descriptors, and the storage of some chunks. -/
def tableReads (at_ : Nat) (cs : List Chunk) (p : Chunk → Bool) : List (Nat × Nat) :=
  (if cs.isEmpty then [] else [(at_, 16 * cs.length)]) ++ (cs.filter p).map Chunk.extent

/-! ### Contents (R238) -/

/-- Ascending keys with a log applied, oldest entry first. -/
def applyLog (ks : List Nat) (log : List (Nat × Bool)) : List Nat :=
  sortKeys (log.foldl (fun l e => if e.2 then (if l.contains e.1 then l else l ++ [e.1]) else l.filter (· != e.1)) ks)

/-- The keys of a chunk table. -/
def tableKeys (cs : List Chunk) : List Nat := cs.flatMap (·.keys)

/-- A key is present in a table merged with a log: the last log entry of the key decides. -/
def present (cs : List Chunk) (log : List (Nat × Bool)) (k : Nat) : Bool :=
  match (log.filter fun e => e.1 == k).getLast? with
  | some e => e.2
  | none => cs.any fun c => c.hi == k / 2 ^ 16 && c.keys.contains k

/-- The keys of a set at an entry read. -/
def SetSnap.keys (r : SetSnap) : List Nat := applyLog (tableKeys r.rep) r.log

/-! ### Storage (R226, R237) -/

/-- The chunk storages of an entry, each once. -/
def entryStores (e : SetEntry) : List Chunk :=
  (e.rep ++ e.orep.getD [] ++ e.fold.getD []).foldl (fun l c => if l.any fun d => d.addr == c.addr then l else l ++ [c]) []

/-- The storage that the sets of a heap hold, as addresses and lengths: chunks and chunk tables. -/
def heapExtents (es : List SetEntry) (heap : Nat) : List (Nat × Nat) :=
  (es.filter fun e => e.heap == heap).flatMap fun e =>
    (entryStores e).map Chunk.extent ++
      [(e.repAt, 16 * e.rep.length), (e.orepAt, 16 * (e.orep.getD []).length), (e.foldAt, 16 * (e.fold.getD []).length)]

/-- Base and size of a pool by a heap header: a second pool at 0 is none. -/
def poolOf (hdr tier : Nat) : Nat × Nat :=
  if tier == 0 then (bitsN hdr 511 448, bitsN hdr 447 384)
  else (bitsN hdr 383 320, if bitsN hdr 383 320 == 0 then 0 else bitsN hdr 319 256)

/-- The lowest multiple of 16 in a pool at which `n` free bytes start (DESIGN CHOICE, log 33). -/
def firstFit (pool : Nat × Nat) (n : Nat) (used : List (Nat × Nat)) : Option Nat :=
  let ends := used.map fun u => ceilDiv (u.1 + u.2) 16 * 16
  (sortBy id (pool.1 :: ends)).find? fun a => pool.1 ≤ a && a + n ≤ pool.1 + pool.2 && used.all fun u => !overlap a n u.1 u.2

/-- The pool and the address that give `n` bytes, the preferred pool first (R226). -/
def takePool (hdr pref n : Nat) (used : List (Nat × Nat)) : Option (Nat × Nat) :=
  match firstFit (poolOf hdr pref) n used with
  | some a => some (pref, a)
  | none => (firstFit (poolOf hdr (1 - pref)) n used).map fun a => (1 - pref, a)

/-- New chunks with their storage, then the table of all chunks and its address: none when the pools lack room (R226). `base` are chunks
whose storage stays. -/
def buildTable (hdr pref : Nat) (used : List (Nat × Nat)) (fresh base : List Chunk) : Option (List Chunk × List Chunk × Nat) :=
  let r := fresh.foldl (fun (a : Option (List Chunk × List (Nat × Nat))) c =>
    a.bind fun a => (takePool hdr pref (4 * c.words) a.2).map fun t =>
      (a.1 ++ [{ c with tier := t.1, addr := t.2 }], a.2 ++ [(t.2, 4 * c.words)])) (some ([], used))
  r.bind fun a =>
    let all := sortBy (fun c : Chunk => c.hi) (base ++ a.1)
    if all.isEmpty then some ([], [], 0) else (takePool hdr pref (16 * all.length) a.2).map fun t => (a.1, all, t.2)

/-! ### The heap (R220 to R224) -/

/-- The header that a command reads, or why the heap is refused (R221). -/
def judgeHeap (s : State) (o : EngOp) : Except Nat Nat :=
  let base := o.heap.toNat
  if base == 0 || base % 128 != 0 then .error sNoheap
  else match crockCause s o.ctx .rd (base, 64), engRead s o base 64 with
    | some e, _ => .error e
    | none, .error e => .error e
    | none, .ok h =>
      if bitsN h 255 5 != 0 || h % 32 < 4 || 24 < h % 32 || bitsN h 511 448 % 128 != 0 || bitsN h 383 320 % 128 != 0 then .error sNoheap
      else .ok h

/-- The header as a command holds it. -/
def EngOp.hdr (o : EngOp) : Nat := (o.descs.getD 0 0).toNat

/-- The directory entry of an index (DEDUCED, log 32). -/
def setEntry (s : State) (x heap idx : Nat) : SetEntry :=
  findD (fun e => e.heap == heap && e.idx == idx)
    ⟨heap, idx, [], 0, [], none, 0, 0, 0, 0, 0, 0, 0, none, 0, 0, 0⟩ (s.ctxAt x).sets

/-- Address of a directory entry. -/
def entryAt (heap idx : Nat) : Nat := vaPlus heap (128 + 128 * idx)

/-- The state with a directory entry changed, here and in its 128 bytes of memory (R222, R224) (DEDUCED, log 32). A command judges this access
before it; one that no command makes has no effect on memory where it fails. Bytes 64 to 127 of the heap, whose layout is not given, are never
written (DESIGN CHOICE, log 113). -/
def modEntry (s : State) (x heap idx : Nat) (f : SetEntry → SetEntry) : State :=
  let s := s.modCtx x fun c =>
    { c with
      sets := upsert (fun e => e.heap == heap && e.idx == idx)
        ⟨heap, idx, [], 0, [], none, 0, 0, 0, 0, 0, 0, 0, none, 0, 0, 0⟩ f c.sets }
  match crockStore s x (entryAt heap idx, 128, entryBits (setEntry s x heap idx)) with
  | .ok t => t
  | .error _ => s

/-- Address of a directory entry of a command's heap. -/
def entryVa (o : EngOp) (idx : Nat) : Nat := entryAt o.heap.toNat idx

/-- What stands against the access of a directory entry: the cause of a failed check (R136, R221). -/
def entryCause (s : State) (o : EngOp) (idx : Nat) : Option Nat := crockCause s o.ctx .rdwr (entryVa o idx, 128)

/-- The bytes of a directory entry in memory are not those that the Crock wrote last, or zero before it has: something else has written them,
and every later result of the context is unspecified (R222, R487). -/
def entryDirty (s : State) (o : EngOp) (idx : Nat) : Bool :=
  match engRead s o (entryVa o idx) 128 with
  | .ok v => v != entryBits (setEntry s o.ctx o.heap.toNat idx)
  | .error _ => false

/-- The live entry that a handle names, or its sub-cause (R221, R223). -/
def entryFor (s : State) (o : EngOp) (h : W32) : Except Nat SetEntry :=
  let idx := h.toNat % 2 ^ 24
  if idx == 0 || 2 ^ (o.hdr % 32) ≤ idx then .error sBadset
  else match entryCause s o idx with
    | some e => .error e
    | none =>
      let e := setEntry s o.ctx o.heap.toNat idx
      if e.gen != h.toNat / 2 ^ 24 || e.st != 1 then .error sBadset else .ok e

/-- The handle of an entry (R223). -/
def entryHandle (e : SetEntry) : W32 := BitVec.ofNat 32 (e.gen % 256 * 2 ^ 24 + e.idx)

/-- An entry that is being freed is free once nothing reads it; older tables go when nothing reads them (R237, R241). -/
def settleEntry (e : SetEntry) : SetEntry :=
  let e := if e.ordr == 0 then { e with orep := none, orepAt := 0 } else e
  if e.st == 2 && e.rdr == 0 && e.ordr == 0 then
    { e with
      st := 0
      gen := (e.gen + 1) % 256
      rep := []
      repAt := 0
      orep := none
      orepAt := 0
      log := []
      foldn := 0
      fold := none
      foldAt := 0 }
  else e

/-! ### Entry reads (R238 to R240) -/

/-- A reader enters: RDR counts it. -/
def readEntry (s : State) (o : EngOp) (e : SetEntry) : State :=
  let s := modEntry (crockTouch s o.ctx (entryAt e.heap e.idx, 128)) o.ctx e.heap e.idx fun e => { e with rdr := e.rdr + 1 }
  s.modOp o.core o.slot fun q => { q with snaps := q.snaps ++ [⟨entryHandle e, e.ver, e.rep, e.log, e.fold.isSome⟩] }

/-- A reader leaves: the counter of the table that it read falls (R238). -/
def releaseReads (s : State) (o : EngOp) : State :=
  o.snaps.foldl (fun s r =>
    modEntry s o.ctx o.heap.toNat (r.handle.toNat % 2 ^ 24) fun e =>
      settleEntry (if e.ver == r.ver then { e with rdr := e.rdr - 1 } else { e with ordr := e.ordr - 1 })) s

/-- What stands against the access that lets go of the entries that a command has read (R136, R221). -/
def releaseCause (s : State) (o : EngOp) : Option Nat :=
  o.snaps.findSome? fun r => entryCause s o (r.handle.toNat % 2 ^ 24)

/-- A set command that reads has its result in each lane, unless the access that lets its entries go fails a check (R221). -/
def closeSet (s : State) (o : EngOp) (vals : SMap W32) : State :=
  match releaseCause s o with
  | some c => faultOp (releaseReads s o) o c
  | none => (releaseReads s o).modOp o.core o.slot fun q => { q with state := .done vals }

/-- A set command ends with a result for every lane; its reads are over. -/
def finishSet (s : State) (o : EngOp) (v : W32) : State := closeSet s o ((lanesOf o.lanes).map fun l => (l, v))

/-- A set command faults (R470). -/
def faultSet (s : State) (o : EngOp) (sub : Nat) : State := faultOp (releaseReads s o) o sub

/-- The handles that a command names. -/
def handlesOf (o : EngOp) : List W32 :=
  match o.kind with
  | .snew => []
  | .smemb => distinct (o.laneArgs.map fun a => a.2.1)
  | .sunion => distinct [o.ga.setWidth 32, o.gb.setWidth 32]
  | .sinter => distinct [o.ga.setWidth 32, o.gb.setWidth 32]
  | .sdiff => distinct [o.ga.setWidth 32, o.gb.setWidth 32]
  | .scost => distinct [o.ga.setWidth 32, o.gb.setWidth 32]
  | _ => [o.ga.setWidth 32]

/-- Two commands of one instruction. -/
def sameWord (q o : EngOp) : Bool := q.w == o.w && q.epc == o.epc && q.issued == o.issued && q.core == o.core && q.kind == o.kind

/-- The handles whose entries a command has still to read, in the order of its reads: of a mutation, for its first key. -/
def readsLeft (o : EngOp) : List W32 :=
  match o.kind with
  | .smemb => (handlesOf o).drop o.prog
  | .sunion => (handlesOf o).drop o.prog
  | .sinter => (handlesOf o).drop o.prog
  | .sdiff => (handlesOf o).drop o.prog
  | .scost => (handlesOf o).drop o.prog
  | _ => if o.prog == 0 then handlesOf o else []

/-- The entry reads of one set that the commands of an instruction take go in ascending lane order, and so do allocations of SNEW (R469): no
command of a lower lane has still to take one that this command takes next. -/
def myTurn (s : State) (o : EngOp) : Bool :=
  s.ops.all fun q => !(sameWord q o && q.born < o.born && !q.over &&
    (o.kind == .snew || (readsLeft q).any fun h => (readsLeft o).contains h))

/-! ### Algorithms and cost (R230 to R232) -/

/-- The set operations: 0 union, 1 intersection, 2 difference. -/
def setOpOf : EngKind → Nat
  | .sunion => 0
  | .sinter => 1
  | _ => 2

/-- The keys of an operation's result. -/
def combineKeys (op : Nat) (x y : List Nat) : List Nat :=
  match op with
  | 0 => sortKeys (x ++ y)
  | 1 => x.filter y.contains
  | _ => x.filter fun k => !y.contains k

/-- The span that an operation covers in a pair (R231). -/
def coverSpan (op : Nat) (x y : List Nat) : Nat :=
  let lo (l : List Nat) : Nat := l.headD 0
  let hi (l : List Nat) : Nat := l.getLast?.getD 0
  match op with
  | 0 => max (hi x) (hi y) - min (lo x) (lo y) + 1
  | 1 => min (hi x) (hi y) + 1 - max (lo x) (lo y)
  | _ => keySpan x

/-- ceil(log2 n). -/
def clog2 (n : Nat) : Nat := if n ≤ 1 then 0 else Nat.log2 (n - 1) + 1

/-- The term of a merge, or of a gallop (R231). -/
def mergeTerm (nx ny : Nat) : Nat :=
  let a := min nx ny
  let b := max nx ny
  if 32 * a < b then a * (clog2 (ceilDiv b a) + 2) else ceilDiv (nx + ny) 8

/-- The term of a probe; `px` tells that x probes y (R231). -/
def probeTerm (op : Nat) (px : Bool) (x y : Chunk) : Nat :=
  let p := if px then x else y
  let q := if px then y else x
  ceilDiv p.keys.length 4 + (if p.repk == 0 then ceilDiv (keySpan p.keys) 512 else 0) + (if p.repk == 3 then ceilDiv p.words 16 else 0) +
    (if op == 0 then ceilDiv q.words 16 else if op == 2 && !px then ceilDiv x.words 16 else 0)

/-- The term of a pair by the algorithm of R230: BITMAP 0, SORTED 1, RUNS 2, HASH 3. -/
def pairTerm (op : Nat) (x y : Chunk) : Nat :=
  let s := ceilDiv (coverSpan op x.keys y.keys) 512
  match x.repk, y.repk with
  | 0, 0 => s
  | 0, 1 => probeTerm op false x y
  | 0, 2 => s + ceilDiv (keyRuns y.keys) 2
  | 0, _ => probeTerm op true x y
  | 1, 0 => probeTerm op true x y
  | 1, 1 => mergeTerm x.keys.length y.keys.length
  | 1, 2 => ceilDiv (x.keys.length + keyRuns y.keys) 8
  | 1, _ => probeTerm op true x y
  | 2, 0 => s + ceilDiv (keyRuns x.keys) 2
  | 2, 1 => ceilDiv (y.keys.length + keyRuns x.keys) 8
  | 2, 2 => ceilDiv (keyRuns x.keys + keyRuns y.keys) 2
  | 2, _ => probeTerm op true x y
  | _, 3 => probeTerm op (x.keys.length ≤ y.keys.length) x y
  | _, _ => probeTerm op false x y

/-- What a chunk of the second tier adds. -/
def tierTerm (c : Chunk) : Nat := if c.tier == 1 then ceilDiv c.words 8 else 0

/-- The clk of an operation on two tables with their logs (R231) (DEDUCED, log 62). -/
def opCost (op : Nat) (x y : SetSnap) : Nat :=
  let his := sortKeys ((x.rep ++ y.rep).map (·.hi))
  40 + x.log.length + y.log.length + sumN (his.map fun h =>
    match x.rep.find? fun c => c.hi == h, y.rep.find? fun c => c.hi == h with
    | some a, some b => pairTerm op a b + 6 + tierTerm a + tierTerm b
    | some a, none => if op == 1 then 0 else ceilDiv a.words 16 + 6 + tierTerm a
    | none, some b => if op == 0 then ceilDiv b.words 16 + 6 + tierTerm b else 0
    | none, none => 0)

/-! ### Folds (R228, R229, R235 to R237) -/

/-- The changed chunks of a fold, and the tables' chunks that stay. -/
def foldChunks (e : SetEntry) (n : Nat) : List Chunk × List Chunk :=
  let log := e.log.take n
  let his := sortKeys (log.map fun k => k.1 / 2 ^ 16)
  let fresh := his.filterMap fun h =>
    let mine := log.filter fun k => k.1 / 2 ^ 16 == h
    let old := e.rep.find? fun c => c.hi == h
    let ks := applyLog ((old.map (·.keys)).getD []) mine
    if ks.isEmpty then none
    else
      let m := match old with | some c => min 131071 (c.m + mine.length) | none => 0
      let rep := policy ks (old.map (·.repk)) m
      some ⟨h, rep, e.tier, ks, mutations old mine.length rep, 0⟩
  (fresh, e.rep.filter fun c => !his.contains c.hi)

/-- The ranges that a fold reads: the table, and the chunks that its keys change. -/
def foldReads (e : SetEntry) : List (Nat × Nat) := tableReads e.repAt e.rep fun c => e.log.any fun k => k.1 / 2 ^ 16 == c.hi

/-- New chunks and a table are given storage and written: none when the pools lack room, else the table and its address, or the cause of a
failed check (R136, R221, R226). -/
def writeTable (s : State) (x hdr tier heap : Nat) (fresh base : List Chunk) : Option (Except Nat (State × List Chunk × Nat)) :=
  (buildTable hdr tier (heapExtents (s.ctxAt x).sets heap) fresh base).map fun b =>
    (crockStores s x (b.1.flatMap chunkStores ++ tableStores b.2.2 b.2.1)).map fun t => (t, b.2.1, b.2.2)

/-- A fold starts (R235): it takes its keys and builds its storage, or finds no room or fails a check, and leaves the keys (R237). Answers
why it did not start: NOSPACE or the cause of the check (R221, R226) (DEDUCED, log 35). -/
def startFold (s : State) (x : Nat) (hdr : Nat) (e : SetEntry) : State × Option Nat :=
  let s := (foldReads e).foldl (fun s r => crockTouch s x r) s
  let (fresh, base) := foldChunks e e.log.length
  let fails (c : Nat) : State × Option Nat := (modEntry s x e.heap e.idx fun e => { e with lastAppend := s.clk }, some c)
  match (foldReads e).findSome? (crockCause s x .rd), writeTable s x hdr e.tier e.heap fresh base with
  | some c, _ => fails c
  | none, none => fails sNospace
  | none, some (.error c) => fails c
  | none, some (.ok (t, cs, tab)) =>
    (modEntry t x e.heap e.idx fun e => { e with foldn := e.log.length, fold := some cs, foldAt := tab }, none)

/-- An idle set: a nonzero log, no fold in flight, and no key appended for 1 µs (R235). -/
def foldIdle (s : State) (e : SetEntry) : Bool :=
  e.st == 1 && !e.log.isEmpty && e.fold.isNone && e.lastAppend + clkOfNs 1000 ≤ s.clk

/-- FOLD_IDLE_START. The header is read anew; a heap that is not readable has no room. -/
def execFoldIdleStart (ctx idx : Nat) (s : State) : Host.Outcome State Fault Refusal :=
  .next (match (s.ctxAt ctx).sets.find? fun e => e.idx == idx && foldIdle s e with
    | none => s
    | some e => (startFold (crockTouch s ctx (e.heap, 64)) ctx (match heapHeader s ctx e.heap with | .ok h => h | .error _ => 0) e).1)

/-- A fold that may publish: nothing reads the table before the last (R236). -/
def foldDone (e : SetEntry) : Bool := e.st == 1 && e.fold.isSome && e.ordr == 0

/-- The entry after a publication (R236). -/
def publishFold (e : SetEntry) : SetEntry :=
  settleEntry
    { e with
      orep := if e.rep.isEmpty then none else some e.rep
      orepAt := e.repAt
      ordr := e.rdr
      rep := e.fold.getD []
      repAt := e.foldAt
      rdr := 0
      ver := e.ver + 1
      log := e.log.drop e.foldn
      foldn := 0
      fold := none
      foldAt := 0 }

/-- FOLD_PUBLISH. -/
def execFoldPublish (ctx idx : Nat) (s : State) : Host.Outcome State Fault Refusal :=
  .next (match (s.ctxAt ctx).sets.find? fun e => e.idx == idx && foldDone e with
    | none => s
    | some e => modEntry s ctx e.heap e.idx publishFold)

/-! ### Mutations (R234, R474, R475) -/

/-- A key is appended to a log, and the 16th starts a fold when none is in flight (R235). A fold that finds no room then ends no command: the
key stands in the log (DESIGN CHOICE, log 100). -/
def appendKey (s : State) (o : EngOp) (e : SetEntry) (k : Nat) (ins : Bool) : State :=
  let s := modEntry s o.ctx e.heap e.idx fun e => { e with log := e.log ++ [(k, ins)], lastAppend := s.clk }
  let e := setEntry s o.ctx e.heap e.idx
  if 16 ≤ e.log.length && e.fold.isNone then (startFold s o.ctx o.hdr e).1 else s

/-- One key of SINS or SDEL: the entry is judged, the key read, judged on the table merged with the log, and appended when it changes the
set; it waits at a full log while a fold is in flight, and a fold that finds no room or fails a check ends the command that needs a slot of
the log (R221, R226, R234, R470, R474). -/
def keyStep (s : State) (o : EngOp) : State :=
  let step (s : State) (n : W32) : State :=
    (engObserve s o (vaRange (vaPlus o.gb.toNat (4 * o.prog)) 4)).modOp o.core o.slot fun q => { q with prog := q.prog + 1, acc := q.acc + n }
  match entryFor s o (o.ga.setWidth 32) with
  | .error e => faultOp s o e
  | .ok e =>
    match engRead s o (vaPlus o.gb.toNat (4 * o.prog)) 4 with
    | .error c => faultOp s o c
    | .ok k =>
      let s := crockTouch s o.ctx (entryAt e.heap e.idx, 128)
      let ins := o.kind == .sins
      let rs := tableReads e.repAt e.rep fun c => c.hi == k / 2 ^ 16
      match rs.findSome? (crockCause s o.ctx .rd) with
      | some c => faultOp s o c
      | none =>
        let s := rs.foldl (fun s r => crockTouch s o.ctx r) s
        if present e.rep e.log k == ins then step s 0
        else if e.log.length < 16 then step (appendKey s o e k ins) 1
        else if e.fold.isSome then s
        else match startFold s o.ctx o.hdr e with
          | (s, none) => s
          | (s, some c) => faultOp s o c

/-- A key of a command may be taken now: it is its turn, a reader more fits in RDR (R238), and the log has a slot or no fold is in flight. -/
def keyReady (s : State) (o : EngOp) : Bool :=
  (o.kind == .sins || o.kind == .sdel) && o.state == .running && o.status == 1 && o.prog < o.gc.toNat && !(s.ctxAt o.ctx).heapBad &&
  myTurn s o &&
  (match engRead s o (vaPlus o.gb.toNat (4 * o.prog)) 4, entryFor s o (o.ga.setWidth 32) with
   | .ok k, .ok e => e.rdr < 65535 && (present e.rep e.log k == (o.kind == .sins) || e.log.length < 16 || e.fold.isNone)
   | _, _ => true)

/-- The bytes of its heap that a command is about to reach: the entries of its handles, its readers' tables, and, for a new set, the start
of each pool. -/
def heapVas (s : State) (o : EngOp) : List Nat :=
  let hs := (handlesOf o ++ o.snaps.map (·.handle)).map fun h => h.toNat % 2 ^ 24
  hs.map (entryVa o) ++ (hs.map fun i => (setEntry s o.ctx o.heap.toNat i).repAt) ++
    (if [EngKind.snew, .sunion, .sinter, .sdiff, .sins, .sdel].contains o.kind then [(poolOf o.hdr 0).1, (poolOf o.hdr 1).1] else [])

/-- SET_KEY_APPEND. -/
def execSetKeyAppend (core slot : Nat) (s : State) : Host.Outcome State Fault Refusal :=
  .next (match s.opAt? core slot with
    | some o => if keyReady s o then (metPorts o (vaPlus o.gb.toNat (4 * o.prog) :: heapVas s o) (keyStep s o)).useFree else s
    | none => s)

/-! ### The commands at the Crock -/

/-- A set command. -/
def isSet (k : EngKind) : Bool :=
  [EngKind.snew, .sfree, .sins, .sdel, .smemb, .scard, .sunion, .sinter, .sdiff, .senum, .srep, .scost].contains k

/-- The lowest free index of the directory of a command's heap (R487). -/
def freeIndex? (s : State) (o : EngOp) : Option Nat :=
  let used := ((s.ctxAt o.ctx).sets.filter fun e => e.heap == o.heap.toNat && e.st != 0).map (·.idx)
  ((List.range (used.length + 2)).find? fun i => i != 0 && !used.contains i).bind fun i => if i < 2 ^ (o.hdr % 32) then some i else none

/-- A new live entry, with its table, or NOSPACE (R476, R487). -/
def openSet (s : State) (o : EngOp) (tier : Nat) (result : Bool) (fresh : List Chunk) : State :=
  match freeIndex? s o with
  | none => faultSet s o sNospace
  | some idx =>
    match (releaseCause s o).or (entryCause s o idx) with
    | some e => faultSet s o e
    | none =>
      if entryDirty s o idx then
        finishSet (s.modCtx o.ctx fun c => { c with heapBad := true }) o (Config.freeWord s.free idx)
      else
        match writeTable s o.ctx o.hdr tier o.heap.toNat fresh [] with
        | none => faultSet s o sNospace
        | some (.error c) => faultSet s o c
        | some (.ok (t, cs, tab)) =>
          let s := modEntry t o.ctx o.heap.toNat idx fun e =>
            { e with
              st := 1
              rep := cs
              repAt := tab
              orep := none
              orepAt := 0
              log := []
              foldn := 0
              fold := none
              rdr := 0
              ordr := 0
              tier := tier
              ver := if result then e.ver + 1 else e.ver
              lastAppend := s.clk }
          finishSet s o (entryHandle (setEntry s o.ctx o.heap.toNat idx))

/-- The chunks of a new set of keys (R229, R476). -/
def freshChunks (tier : Nat) (ks : List Nat) : List Chunk :=
  (sortKeys (ks.map fun k => k / 2 ^ 16)).map fun h =>
    let mine := ks.filter fun k => k / 2 ^ 16 == h
    ⟨h, policy mine none 0, tier, mine, 0, 0⟩

/-- A handle read by a command that names it alone or first: the entry, unless it must wait for RDR (R238). -/
def readHandle (s : State) (o : EngOp) (h : W32) (next : State → State) : State :=
  match entryFor s o h with
  | .error e => faultSet s o e
  | .ok e =>
    if entryDirty s o e.idx then s.modCtx o.ctx fun c => { c with heapBad := true }
    else if 65535 ≤ e.rdr then s
    else next (readEntry s o e)

/-- A command counts a step. -/
def stepOn (o : EngOp) (s : State) : State := s.modOp o.core o.slot fun q => { q with prog := q.prog + 1 }

/-- The joint snapshot is asked for (R240). -/
def wantsSnap (o : EngOp) : Bool := if o.kind == .scost then o.ectl / 4 % 2 == 1 else o.ectl % 2 == 1

/-- The reads of a command on two handles: one for a handle named twice, both at once under .snap, else x and then y (R476). Where both
entries of a joint snapshot fail with different causes, that of x is reported: the rules do not say which (DESIGN CHOICE, log 96). -/
def readPair (s : State) (o : EngOp) : State :=
  let x := o.ga.setWidth 32
  let y := o.gb.setWidth 32
  if x == y then readHandle s o x fun s => stepOn o (stepOn o s)
  else if o.prog == 0 then
    if wantsSnap o then
      match entryFor s o x, entryFor s o y with
      | .error e, _ => faultSet s o e
      | _, .error e => faultSet s o e
      | .ok a, .ok b =>
        if entryDirty s o a.idx || entryDirty s o b.idx then s.modCtx o.ctx fun c => { c with heapBad := true }
        else if 65535 ≤ a.rdr || 65535 ≤ b.rdr then s
        else stepOn o (stepOn o (readEntry (readEntry s o a) o b))
    else readHandle s o x (stepOn o)
  else readHandle s o y (stepOn o)

/-- The ranges that a reader of an entry reads through the REP that it copied (R238): the table, which a publication may have moved to OREP,
and some chunks. -/
def snapReads (s : State) (o : EngOp) (r : SetSnap) (p : Chunk → Bool) : List (Nat × Nat) :=
  let e := setEntry s o.ctx o.heap.toNat (r.handle.toNat % 2 ^ 24)
  tableReads (if e.ver == r.ver then e.repAt else e.orepAt) r.rep p

/-- A reader goes on when its accesses to the tables and the storage pass their checks, else it faults (R221). -/
def readsPass (s : State) (o : EngOp) (rs : List (Nat × Nat)) (go : State → State) : State :=
  match rs.findSome? (crockCause s o.ctx .rd) with
  | some c => faultSet s o c
  | none => go (rs.foldl (fun s r => crockTouch s o.ctx r) s)

/-- The two contents that a command has read. -/
def readTwo (o : EngOp) : SetSnap × SetSnap :=
  let none_ : SetSnap := ⟨0, 0, [], [], false⟩
  (o.snaps.getD 0 none_, o.snaps.getD (o.snaps.length - 1) none_)

/-- The ranges that a command on two sets reads: the tables, and the chunks that its operation needs (R231). -/
def pairReads (s : State) (o : EngOp) (x y : SetSnap) : List (Nat × Nat) :=
  let his (r : SetSnap) : List Nat := r.rep.map (·.hi) ++ r.log.map fun k => k.1 / 2 ^ 16
  let op := setOpOf o.kind
  snapReads s o x (fun c => op != 1 || (his y).contains c.hi) ++ snapReads s o y fun c => op == 0 || (his x).contains c.hi

/-- SUNION, SINTER and SDIFF build their result (R476). -/
def buildResult (s : State) (o : EngOp) : State :=
  let (x, y) := readTwo o
  let tier := (setEntry s o.ctx o.heap.toNat (x.handle.toNat % 2 ^ 24)).tier
  readsPass s o (pairReads s o x y) fun s => openSet s o tier true (freshChunks tier (combineKeys (setOpOf o.kind) x.keys y.keys))

/-- The word of SREP (R233); TIER is 0 when ABSENT, which the rule does not say (DESIGN CHOICE, log 95). -/
def srepWord (r : SetSnap) (key : Nat) : W32 :=
  let base := (if r.fold then 2 ^ 28 else 0) + r.log.length * 2 ^ 23
  match r.rep.find? fun c => c.hi == key / 2 ^ 16 with
  | none => BitVec.ofNat 32 (base + 2 ^ 22)
  | some c => BitVec.ofNat 32 (base + c.repk * 2 ^ 30 + c.tier * 2 ^ 29 + c.words % 2 ^ 18)

/-- SMEMB reads its distinct handles in the order of the lowest lanes that name them; a handle that fails concerns its lanes alone (R485). -/
def stepMemb (s : State) (o : EngOp) : State :=
  match (handlesOf o)[o.prog]? with
  | some h =>
    match entryFor s o h with
    | .error e =>
      stepOn o (s.modOp o.core o.slot fun q =>
        { q with laneSub := (o.laneArgs.filter fun a => a.2.1 == h).foldl (fun m a => smSet m a.1 e) q.laneSub })
    | .ok e =>
      if entryDirty s o e.idx then s.modCtx o.ctx fun c => { c with heapBad := true }
      else if 65535 ≤ e.rdr then s
      else stepOn o (readEntry s o e)
  | none =>
    let res := o.laneArgs.map fun a =>
      (a.1, match o.snaps.find? fun r => r.handle == a.2.1 with
        | some r => if present r.rep r.log a.2.2.toNat then 1#32 else 0#32
        | none => 0#32)
    let rs := o.snaps.flatMap fun r =>
      snapReads s o r fun c => o.laneArgs.any fun a => a.2.1 == r.handle && a.2.2.toNat / 2 ^ 16 == c.hi
    readsPass s o rs fun s => closeSet s o res

/-- SFREE: the entry read that every set command takes marks the set as freeing and discards its log (R238, R241, R481). -/
def stepFree (s : State) (o : EngOp) : State :=
  let h : W32 := o.ga.setWidth 32
  readHandle s o h fun s =>
    let s := modEntry s o.ctx o.heap.toNat (h.toNat % 2 ^ 24) fun e => { e with st := 2, log := [], foldn := 0, fold := none, foldAt := 0 }
    match s.opOf? o.ref with
    | some q => finishSet s q 0
    | none => s

/-- The keys that a SENUM writes. -/
def enumKeys (o : EngOp) : List Nat := ((o.snaps.head?.map SetSnap.keys).getD []).take o.gc.toNat

/-- The bytes that a SENUM writes (R479). -/
def enumBytes (o : EngOp) : List (Nat × Nat) :=
  (enumKeys o).zipIdx.flatMap fun k => (List.range 4).map fun b => (vaPlus o.gb.toNat (4 * k.2 + b), k.1 / 256 ^ b % 256)

/-- A SENUM or a mutation with arguments that are refused (R470). -/
def setArgsBad (o : EngOp) : Bool :=
  o.gb.toNat % 4 != 0 || (if o.kind == .senum then 2 ^ 31 - 1 < o.gc.toNat else 2 ^ 24 - 1 < o.gc.toNat)

/-- A SENUM reads its set, and ends once its keys are written. -/
def stepEnum (s : State) (o : EngOp) : State :=
  if o.prog == 0 then
    match entryFor s o (o.ga.setWidth 32) with
    | .error e => faultSet s o e
    | .ok _ => if setArgsBad o then faultSet s o sBadarg else readHandle s o (o.ga.setWidth 32) (stepOn o)
  else if o.prog == 1 then
    let dst := (List.range (enumKeys o).length).map fun i => vaPlus o.gb.toNat (4 * i)
    farGate s o [(true, 4, dst)] <| readsPass s o (snapReads s o (readTwo o).1 fun _ => true) (stepOn o)
  else if sectorsWritten o ((enumBytes o).map (·.1)) then
    let n := ((o.snaps.head?.map SetSnap.keys).getD []).length
    finishSet s o (BitVec.ofNat 32 ((if o.gc.toNat < n then 2 ^ 31 else 0) + (enumKeys o).length))
  else s

/-- A mutation begins, and ends once its keys are taken. -/
def stepMutate (s : State) (o : EngOp) : State :=
  if o.status == 0 then
    match entryFor s o (o.ga.setWidth 32) with
    | .error e => faultSet s o e
    | .ok e =>
      if setArgsBad o then faultSet s o sBadarg
      else if entryDirty s o e.idx then s.modCtx o.ctx fun c => { c with heapBad := true }
      else farGate s o [(false, 4, (List.range o.gc.toNat).map fun i => vaPlus o.gb.toNat (4 * i))] <| s.modOp o.core o.slot fun q => { q with status := 1 }
  else if o.prog == o.gc.toNat then finishSet s o o.acc
  else s

/-- A command of a context whose heap something else has written: every result is unspecified (R222) (DEDUCED, log 63). -/
def stepBad (s : State) (o : EngOp) : State :=
  ((releaseReads s o).modOp o.core o.slot fun q =>
    { q with state := .done ((lanesOf q.lanes).map fun l => (l, Config.freeWord s.free l)) }).useFree

/-- A command whose heap lies in the memory of another device goes on once that device has taken its requests; a refusal ends it with the
reason (R329) (DEDUCED, log 55). -/
def heapGate (s : State) (o : EngOp) (go : State) : State :=
  farGate s o [(false, 8, heapVas s o), (true, 8, heapVas s o)] go

/-- A step of a running set command. -/
def stepSet (s : State) (o : EngOp) : State :=
  if (s.ctxAt o.ctx).heapBad then stepBad s o
  else if !(readsLeft o).isEmpty && !myTurn s o then s
  else if o.kind == .snew && !myTurn s o then s
  else heapGate s o <| match o.kind with
    | .snew => openSet s o o.ectl false []
    | .sfree => stepFree s o
    | .sins => stepMutate s o
    | .sdel => stepMutate s o
    | .smemb => stepMemb s o
    | .senum => stepEnum s o
    | .scard =>
      if o.prog == 0 then readHandle s o (o.ga.setWidth 32) (stepOn o)
      else
        let r := (readTwo o).1
        readsPass s o (snapReads s o r fun c => r.log.any fun k => k.1 / 2 ^ 16 == c.hi) fun s =>
          finishSet s o (BitVec.ofNat 32 (min 0xFFFFFFFE r.keys.length))
    | .srep =>
      if o.prog == 0 then readHandle s o (o.ga.setWidth 32) (stepOn o)
      else readsPass s o (snapReads s o (readTwo o).1 fun _ => false) fun s => finishSet s o (srepWord (readTwo o).1 o.gb.toNat)
    | .scost =>
      if o.prog < 2 then readPair s o
      else readsPass s o (snapReads s o (readTwo o).1 (fun _ => false) ++ snapReads s o (readTwo o).2 fun _ => false) fun s =>
        finishSet s o (BitVec.ofNat 32 (min 0xFFFFFFFF (opCost (o.ectl % 4) (readTwo o).1 (readTwo o).2)))
    | _ => if o.prog < 2 then readPair s o else buildResult s o

/-- A directory does not read as zero: some byte of it that storage lists, or that another key wrote, is not 0 (R487). -/
def directoryDirty (s : State) (x : Nat) (hdr base : Nat) : Bool :=
  (pieces (base + 128) (128 * 2 ^ (hdr % 32))).any fun q =>
    match translate s (s.ctxAt x) q.1 .rd with
    | .error _ => false
    | .ok t =>
      t.remote.isNone && (s.mem.map (·.1) ++ s.keyTags.map (·.1)).any fun k =>
        t.key ≤ k && k < t.key + q.2 && homeRead s k 1 t.tkey != 0

/-- The first set command of a context that finds a heap in order has it watched from then on (R222); a directory that does not read as
zero then leaves every later result unspecified (R487). -/
def noteHeap (s : State) (x hdr base : Nat) : State :=
  if (s.ctxAt x).heaps.contains base then s
  else
    let dirty := directoryDirty s x hdr base
    s.modCtx x fun c => { c with heaps := c.heaps ++ [base], heapBad := c.heapBad || dirty }

/-- A set command reaches the Crock: its heap is judged (R221), and a list or a destination that meets the heap leaves every later result
unspecified (R471). -/
def startSet (s : State) (o : EngOp) : State :=
  farGate s o [(false, 8, (List.range 8).map fun i => vaPlus o.heap.toNat (8 * i))] <|
  match judgeHeap s o with
  | .error e => faultOp (engObserve s o (vaRange o.heap.toNat 64)) o e
  | .ok h =>
    let s := noteHeap (engObserve s o (vaRange o.heap.toNat 64)) o.ctx h o.heap.toNat
    let n := if o.kind == .sins || o.kind == .sdel || o.kind == .senum then 4 * o.gc.toNat else 0
    let s := if 0 < n && meetsHeap h o.heap.toNat o.gb.toNat n then s.modCtx o.ctx fun c => { c with heapBad := true } else s
    s.modOp o.core o.slot fun q => { q with descs := [BitVec.ofNat 512 h], state := if entriesHeld s o then .running else .entries }

/-! ### The words (R468, R469) -/

/-- Scratch that a list or a destination covers (R471). -/
def setRanges (_ : State) (o : EngOp) : List Nat × List Nat :=
  if o.kind == .sins || o.kind == .sdel || o.kind == .senum then
    let vas := if setArgsBad o || !isAperture o.gb.toNat then [] else vaRange o.gb.toNat (min (4 * o.gc.toNat) (2 ^ 20))
    if o.kind == .senum then ([], vas) else (vas, [])
  else ([], [])

/-- The command of one lane of a set word, with three operands. -/
def setCmd (kind : EngKind) (d : Code) (ga gb gc : W64) (ectl : Nat) (l : Lane) : Cmd := laneCmd kind l d ga gb gc ectl [] 8

/-- A 32-bit register as an operand. -/
def rdw (s : State) (l : Lane) (a : Code) : W64 := (rd s l a).setWidth 64

/-- SNEW (R487). -/
def execSnew (h : Hdr) (d : Code) (far : Bool) (s : State) : Host.Outcome State Fault Refusal :=
  .next (laneEngine (.snew h d far) h (fun _ _ l => setCmd .snew d 0 0 0 (if far then 1 else 0) l) (fun s o => twoGroups (setRanges s o)) s)

/-- SFREE (R481). -/
def execSfree (h : Hdr) (d a : Code) (s : State) : Host.Outcome State Fault Refusal :=
  .next (laneEngine (.sfree h d a) h (fun s _ l => setCmd .sfree d (rdw s l a) 0 0 0 l) (fun s o => twoGroups (setRanges s o)) s)

/-- SINS (R474). -/
def execSins (h : Hdr) (d a b c : Code) (s : State) : Host.Outcome State Fault Refusal :=
  .next (laneEngine (.sins h d a b c) h (fun s _ l => setCmd .sins d (rdw s l a) (rd64 s l b) (rdw s l c) 0 l) (fun s o => twoGroups (setRanges s o)) s)

/-- SDEL (R474). -/
def execSdel (h : Hdr) (d a b c : Code) (s : State) : Host.Outcome State Fault Refusal :=
  .next (laneEngine (.sdel h d a b c) h (fun s _ l => setCmd .sdel d (rdw s l a) (rd64 s l b) (rdw s l c) 0 l) (fun s o => twoGroups (setRanges s o)) s)

/-- SMEMB: one command per path, with a handle and a key from each lane (R485). -/
def execSmemb (h : Hdr) (d a b : Code) (s : State) : Host.Outcome State Fault Refusal :=
  .next (matrixWordOf (.smemb h d a b) h
    (fun s c =>
      { kind := .smemb
        lanes := active s c h
        dst := d.toNat
        ga := 0
        gb := 0
        gc := 0
        ectl := 0
        laneArgs := (active s c h).map fun l => (l.id, rd s l a, rd s l b)
        descs := []
        fpctl := 8 }) (fun s _ => s) s)

/-- SCARD (R472). -/
def execScard (h : Hdr) (d a : Code) (s : State) : Host.Outcome State Fault Refusal :=
  .next (laneEngine (.scard h d a) h (fun s _ l => setCmd .scard d (rdw s l a) 0 0 0 l) (fun s o => twoGroups (setRanges s o)) s)

/-- SUNION (R476). -/
def execSunion (h : Hdr) (d a b : Code) (snap : Bool) (s : State) : Host.Outcome State Fault Refusal :=
  .next (laneEngine (.sunion h d a b snap) h
    (fun s _ l => setCmd .sunion d (rdw s l a) (rdw s l b) 0 (if snap then 1 else 0) l) (fun s o => twoGroups (setRanges s o)) s)

/-- SINTER (R476). -/
def execSinter (h : Hdr) (d a b : Code) (snap : Bool) (s : State) : Host.Outcome State Fault Refusal :=
  .next (laneEngine (.sinter h d a b snap) h
    (fun s _ l => setCmd .sinter d (rdw s l a) (rdw s l b) 0 (if snap then 1 else 0) l) (fun s o => twoGroups (setRanges s o)) s)

/-- SDIFF (R476). -/
def execSdiff (h : Hdr) (d a b : Code) (snap : Bool) (s : State) : Host.Outcome State Fault Refusal :=
  .next (laneEngine (.sdiff h d a b snap) h
    (fun s _ l => setCmd .sdiff d (rdw s l a) (rdw s l b) 0 (if snap then 1 else 0) l) (fun s o => twoGroups (setRanges s o)) s)

/-- SENUM (R479). -/
def execSenum (h : Hdr) (d a b c : Code) (s : State) : Host.Outcome State Fault Refusal :=
  .next (laneEngine (.senum h d a b c) h (fun s _ l => setCmd .senum d (rdw s l a) (rd64 s l b) (rdw s l c) 0 l) (fun s o => twoGroups (setRanges s o)) s)

/-- SREP (R491). -/
def execSrep (h : Hdr) (d a b : Code) (s : State) : Host.Outcome State Fault Refusal :=
  .next (laneEngine (.srep h d a b) h (fun s _ l => setCmd .srep d (rdw s l a) (rdw s l b) 0 0 l) (fun s o => twoGroups (setRanges s o)) s)

/-- SCOST (R473). -/
def execScost (h : Hdr) (d a b : Code) (op : BitVec 2) (snap : Bool) (s : State) : Host.Outcome State Fault Refusal :=
  .next (laneEngine (.scost h d a b op snap) h
    (fun s _ l => setCmd .scost d (rdw s l a) (rdw s l b) 0 (op.toNat + (if snap then 4 else 0)) l) (fun s o => twoGroups (setRanges s o)) s)

end Sys2Proof.Machine
end

