-- ==== Sys2Proof/Machine/Tables.lean ====
section
/-!
DEFINITION. The base dies: tables and queries, indexed reduce, energy buckets and activation alerts (R266 to R280, R428, R429, R502 to
R504).
-/

namespace Sys2Proof.Machine

/-! ### Block scratch and status (R266, R267) -/

/-- A range of block scratch that a command names by offset. -/
def scrInside (s : State) (o : EngOp) (off n : Nat) : Bool := off + n ≤ (s.blockAt o.blk).scrLen

/-- The number in `n` bytes of block scratch. -/
def scrRead (s : State) (o : EngOp) (off n : Nat) : Except Nat Nat := engRead s o (blockScr + off) n

/-- How many ns some spans cover together. -/
def spanTotal (ws : List (Nat × Nat)) : Nat :=
  ((sortBy (fun w : Nat × Nat => w.1) ws).foldl (fun (a : Nat × Nat) w => (a.1 + (w.2 - max a.2 w.1), max a.2 w.2)) (0, 0)).1

/-- The stack status word (R267): the delay is that of the alerts, in `acc`, and that of the waits for tokens; `status` holds ALERT and
OOR. -/
def stackStatus (o : EngOp) (count : Nat) : W32 :=
  BitVec.ofNat 32 (min 65535 ((o.acc.toNat + spanTotal o.waits) / 8) * 2 ^ 16 + o.status.toNat / 2 ^ 15 % 2 * 2 ^ 15 +
    (if o.waits.isEmpty then 0 else 2 ^ 14) + o.status.toNat / 2 ^ 13 % 2 * 2 ^ 13 + count % 512)

/-- An item enters a stack's FIFO (R278). -/
def pushItem (s : State) (stack : Nat) (o : EngOp) (weight row : Nat) : State :=
  (settleStack s stack).modStack stack fun k => markBlocked s.clk { k with fifo := k.fifo ++ [⟨o.ref, weight, row, none⟩] }

/-! ### The table directory (R268 to R271, R502, R503) -/

/-- Bytes of an entry by FMT (R269). -/
def entryBytes (f : Nat) : Nat := if f == 1 then 2 else if f == 0 || f == 5 then 4 else 1

/-- The table that an id names at the directory: taken, and not marked freed. -/
def tableOf? (s : State) (x id : Nat) : Option Table := (s.ctxAt x).tables.find? fun t => t.id == id && !t.freed

/-- The table whose directory entry a command has passed. -/
def acceptedBy? (s : State) (o : EngOp) : Option Table := (s.ctxAt o.ctx).tables.find? fun t => t.accepted.contains o.ref

/-- The state with a context's tables changed. -/
def modTables (s : State) (x : Nat) (f : List Table → List Table) : State := s.modCtx x fun c => { c with tables := f c.tables }

/-- A query leaves its table; a marked table that no query holds goes. -/
def leaveTable (s : State) (o : EngOp) : State :=
  modTables s o.ctx fun ts => ts.map fun t => { t with accepted := t.accepted.filter (· != o.ref) }

/-- A command that has still to reach the directory. -/
def beforeDirectory (q : EngOp) : Bool :=
  !q.over && ((q.kind == .tqload && q.prog < 2) || (q.kind == .tqry && q.prog == 0) || (q.kind == .tqfree && q.prog == 0))

/-- The commands of one thread reach the directory in issue order, those of one instruction in ascending lane order (R271, R502). -/
def dirTurn (s : State) (o : EngOp) : Bool :=
  s.ops.all fun q => !(q.born < o.born && beforeDirectory q && q.w == o.w && q.blk == o.blk && (q.lanes == o.lanes || sameWord q o))

/-- The lowest free id (R269). -/
def freeTable? (s : State) (x : Nat) : Option Nat := (List.range 16).find? fun i => (tableOf? s x i).isNone

/-- The writes of a table into every stack, charged as ordinary writes (R269, R278). -/
def chargeTable (s : State) (bytes : Nat) : State :=
  (List.range 8).foldl (fun s i => chargeStack s i (ordinaryTokens s (i * 1024) (ceilDiv bytes 64))) s

/-- TQLOAD: its argument and descriptor checks, of which the rules give no order (DESIGN CHOICE, log 107), and its reads, then an id, then its
table once the queries of an earlier table under the id are over (R269, R271). -/
def stepTqload (s : State) (o : EngOp) : State :=
  let d := mTid o
  if o.prog == 0 then
    if o.ga.toNat / 256 != 0 then faultOp s o sBadarg
    else if !descOk d || dFmt d == 4 || 16384 < dCount d * entryBytes (dFmt d) then faultOp s o sBaddesc
    else
      let vas := (List.range (dCount d)).flatMap fun j => (elemParts d (flatIdx d j)).map (·.1)
      farGate s o [(false, 1, vas)] <| match (List.range (dCount d)).mapM fun j => engRead s o (elemVa d (flatIdx d j)) (entryBytes (dFmt d)) with
      | .error e => faultOp s o e
      | .ok vs =>
        ((dropReads (engObserve s o vas) o.ref).modOp o.core o.slot fun q => { q with vals := vs, prog := 1 }).useFree
  else if o.prog == 1 then
    if !dirTurn s o then s
    else match freeTable? s o.ctx with
      | none => faultOp s o sNotable
      | some i =>
        let s := modTables s o.ctx fun ts => ts ++ [⟨i, false, dFmt d, [], o.ref, [], false⟩]
        s.modOp o.core o.slot fun q => { q with prog := 2, acc := BitVec.ofNat 32 i }
  else if (s.ctxAt o.ctx).tables.any fun t => t.id == o.acc.toNat && t.owner != o.ref && t.freed && !t.accepted.isEmpty then s
  else
    let s := modTables s o.ctx (mapIf (fun t => t.owner == o.ref) fun t =>
      { t with live := true, entries := o.vals.map fun v => BitVec.ofNat 32 v })
    finishOp (chargeTable s (o.vals.length * entryBytes (dFmt d))) o o.acc

/-- TQFREE: the mark at the directory, then the end once the queries accepted before it are over (R271). -/
def stepTqfree (s : State) (o : EngOp) : State :=
  if o.prog == 0 then
    if 15 < o.ga.toNat then faultOp s o sBadarg
    else if !dirTurn s o then s
    else match tableOf? s o.ctx o.ga.toNat with
      | none => faultOp s o sBadtable
      | some t =>
        let s := modTables s o.ctx (mapIf (fun u => u.owner == t.owner && u.id == t.id) fun u => { u with freed := true })
        s.modOp o.core o.slot fun q => { q with prog := 1, target := some t.owner }
  else match (s.ctxAt o.ctx).tables.find? fun t => some t.owner == o.target && t.freed with
    | none => finishOp s o 0
    | some t =>
      if t.accepted.isEmpty && t.live then
        finishOp (modTables s o.ctx fun ts => ts.filter fun u => !(u.owner == t.owner && u.freed)) o 0
      else s

/-! ### Queries (R272, R273) -/

/-- COUNT of a query descriptor. -/
def qCount (q : Nat) : Nat := q % 512
/-- WIDEN. -/
def qWiden (q : Nat) : Bool := q / 2 ^ 23 % 2 == 1
/-- IDX. -/
def qIdx (q : Nat) : Nat := bitsN q 95 64
/-- OUT. -/
def qOut (q : Nat) : Nat := bitsN q 127 96

/-- Bytes of a result. -/
def qSize (q fmt : Nat) : Nat := if qWiden q then 4 else entryBytes fmt

/-- An entry widened (R273). -/
def widen (fmt : Nat) (v : W32) : W32 :=
  match fmt with
  | 3 => BitVec.ofInt 32 (signedN 8 v.toNat)
  | 2 => pack32 0 false (unpackM8 v.toNat)
  | 1 => pack32 0 false (unpackBf16 false v)
  | _ => v

/-- The results of a query on a table, and whether an index was out of range. -/
def queryVals (q : Nat) (t : Table) (idxs : List Nat) : List Nat × Bool :=
  let js := idxs.map fun i => i / 2 ^ bitsN q 27 24
  (js.map fun j =>
    match t.entries[j]? with
    | some v => (if qWiden q then widen t.fmt v else v).toNat
    | none => 0, js.any fun j => t.entries.length ≤ j)

/-- The descriptor of a query as it was read. -/
def queryDesc (o : EngOp) : Nat := (o.descs.getD 2 0).toNat

/-- A query descriptor passes the checks of R272 that need no table. -/
def queryOk (q : Nat) : Bool :=
  1 ≤ qCount q && qCount q ≤ 256 && bitsN q 22 9 == 0 && bitsN q 63 32 == 0 && qIdx q % 2 == 0

/-- What a query reads and writes by its descriptor: the index list and the results (R273). -/
def queryGroups (q size : Nat) : List (Bool × List Nat) :=
  [(false, vaRange (blockScr + qIdx q) (2 * qCount q)), (true, vaRange (blockScr + qOut q) (size * qCount q))]

/-- A command holds exactly the entries that some groups of addresses need. -/
def entriesMatch (s : State) (o : EngOp) (gs : List (Bool × List Nat)) : Bool :=
  let es := gs.flatMap fun g => entriesFor s o g.1 g.2
  let mine := s.cores.flatMap fun c => (c.ranges.filter fun e => e.op == o.ref).map fun e => (c.id, { e with id := 0, granted := false })
  es.length == mine.length && es.all mine.contains

/-- A descriptor or a command that has changed since its word issued names other scratch: the entries of the command are replaced at once
(DEDUCED, log 91). -/
def retarget (s : State) (o : EngOp) (gs : List (Bool × List Nat)) : State :=
  if entriesMatch s o gs then s
  else
    let es := gs.flatMap fun g => entriesFor s o g.1 g.2
    let s := { s with cores := s.cores.map fun c => { c with ranges := c.ranges.filter fun e => e.op != o.ref } }
    grantAll (es.foldl (fun s e =>
      { s.modCore e.1 fun c => { c with ranges := c.ranges ++ [{ e.2 with id := s.nextId, granted := true }] } with nextId := s.nextId + 1 }) s)

/-- A TQRY reads its descriptor, which the checks of R272 judge as far as they need no table; its read entry retires (R153). -/
def readQueryDesc (s : State) (o : EngOp) : State :=
  let ga := o.ga.toNat
  if ga % 16 != 0 then faultOp s o sBadarg
  else if !scrInside s o ga 16 then faultOp s o cRange
  else match scrRead s o ga 16 with
    | .error e => faultOp s o e
    | .ok q =>
      if !queryOk q then faultOp s o sBadarg
      else (dropRead s o (vaRange (blockScr + ga) 16)).modOp o.core o.slot fun p => { p with descs := [0, 0, BitVec.ofNat 512 q] }

/-- A TQRY whose descriptor has been read passes the directory with the entries of its indices and results (R271 to R273). -/
def enterQuery (s : State) (o : EngOp) : State :=
  let q := queryDesc o
  if !dirTurn s o then s
  else match tableOf? s o.ctx (bitsN q 31 28) with
    | none => faultOp s o sBadtable
    | some t =>
      if qOut q % qSize q t.fmt != 0 then faultOp s o sBadarg
      else if !scrInside s o (qIdx q) (2 * qCount q) || !scrInside s o (qOut q) (qSize q t.fmt * qCount q) then faultOp s o cRange
      else
        let s := modTables s o.ctx (mapIf (fun u => u.owner == t.owner && u.id == t.id && !u.freed) fun u =>
          { u with accepted := u.accepted ++ [o.ref] })
        retarget (s.modOp o.core o.slot fun p => { p with prog := 1 }) o (queryGroups q (qSize q t.fmt))

/-- A TQRY up to the directory. -/
def openQuery (s : State) (o : EngOp) : State := if o.descs.length < 3 then readQueryDesc s o else enterQuery s o

/-- An accepted query, once its table stands: its indices are read, and its row waits for tokens in the stack that serves its core. -/
def readQuery (s : State) (o : EngOp) : State :=
  match acceptedBy? s o with
  | none => faultOp s o sBadtable
  | some t =>
    if !t.live then s
    else
      let q := queryDesc o
      match (List.range (qCount q)).mapM fun r => scrRead s o (qIdx q + 2 * r) 2 with
      | .error e => faultOp (leaveTable s o) o e
      | .ok is_ =>
        let (vs, oor) := queryVals q t is_
        let s := (dropReads s o.ref).modOp o.core o.slot fun p => { p with vals := vs, prog := 2, status := p.status ||| (if oor then 0x2000#32 else 0) }
        pushItem s (stackOf o.core) o 24 0

/-- The bytes that a query writes. -/
def queryBytes (s : State) (o : EngOp) : List (Nat × Nat) :=
  let q := queryDesc o
  let size := match acceptedBy? s o with | some t => qSize q t.fmt | none => 4
  o.vals.zipIdx.flatMap fun v => (List.range size).map fun b => (blockScr + qOut q + v.2 * size + b, v.1 / 256 ^ b % 256)

/-- A step of a TQRY. -/
def stepTqry (s : State) (o : EngOp) : State :=
  if o.prog == 0 then openQuery s o
  else if o.prog == 1 then readQuery s o
  else if o.prog == 3 && sectorsWritten o ((queryBytes s o).map (·.1)) then
    let s := if o.status.getLsbD 13 then s.setSticky o.ctx stTqoor else s
    finishOp (leaveTable s o) o (stackStatus o o.vals.length)
  else s

/-! ### Indexed reduce (R274 to R276) -/

/-- The header of an IRED command as it was read. -/
def iredHdr (o : EngOp) : Nat := (o.descs.getD 2 0).toNat
/-- DSTRIDE. -/
def iStride (h : Nat) : Nat := h % 2 ^ 32
/-- WGT. -/
def iWgt (h : Nat) : Bool := h / 2 ^ 49 % 2 == 1
/-- OFMT is BF16. -/
def iBf16 (h : Nat) : Bool := h / 2 ^ 50 % 2 == 1
/-- DKIND is HBM. -/
def iHbm (h : Nat) : Bool := h / 2 ^ 51 % 2 == 1
/-- NBAG. -/
def iBags (h : Nat) : Nat := bitsN h 55 52
/-- DST. -/
def iDst (h : Nat) : Nat := bitsN h 127 64
/-- Bytes of an output element. -/
def iOut (h : Nat) : Nat := if iBf16 h then 2 else 4
/-- First address of the destination. -/
def iDstVa (h : Nat) : Nat := if iHbm h then iDst h else blockScr + iDst h

/-- A bag: its row numbers and its weights. -/
structure Bag where
  rows : List Nat
  weights : List Nat
  deriving DecidableEq, Repr

/-- `n` bag records from an offset of block scratch, and the offset after them; a fault by its sub-cause (R274, R275). -/
def readBags (s : State) (o : EngOp) (wgt : Bool) : Nat → Nat → Except Nat (List Bag × Nat)
  | 0, off => .ok ([], off)
  | n + 1, off => do
    if !scrInside s o off 4 then throw cRange
    let c ← scrRead s o off 4
    if 32 < c then throw sBadarg
    let len := 4 + 4 * c + (if wgt then 4 * ceilDiv c 2 else 0)
    if !scrInside s o off len then throw cRange
    let rows ← (List.range c).mapM fun i => scrRead s o (off + 4 + 4 * i) 4
    let ws ← (List.range (if wgt then c else 0)).mapM fun i => scrRead s o (off + 4 + 4 * c + 2 * i) 2
    let (bs, e) ← readBags s o wgt n (off + len)
    pure (⟨rows, ws⟩ :: bs, e)

/-- Address of a row's first byte (R155). -/
def rowVa (d : BitVec 512) (x : Nat) : Nat := elemVa d (rowIdx d x 0)

/-- The addresses that an IRED writes. -/
def iredVas (h : Nat) (d : BitVec 512) (n : Nat) : List Nat :=
  (List.range n).flatMap fun b => vaRange (vaPlus (iDstVa h) (b * iStride h)) (dExt d 0 * iOut h)

/-- Whether bytes lie on pages of local HBM, or the sub-cause (R275): a page of the second tier has REMOTE whatever its port does. -/
def localHbm (s : State) (o : EngOp) (need : Need) (va : Nat) : Option Nat :=
  if isAperture va then
    match placeOf s o.who va 1 need with
    | .error e => some e.1
    | .ok p =>
      match p.loc with
      | .mem k => if keyTier2 ≤ k then some sRemote else none
      | _ => some sRemote
  else match translate s (s.ctxAt o.ctx) va need with
    | .error e => some e
    | .ok t => if t.remote.isSome || t.tier != 0 then some sRemote else none

/-- Addresses, one in each 64 KiB of some ranges and the last of each, that stand for the pages of the ranges. -/
def pageMarks (vas : List Nat) : List Nat := (vas.foldl (fun (a : List Nat × List Nat) v =>
  if a.2.contains (v / 65536) then a else (a.1 ++ [v], a.2 ++ [v / 65536])) ([], [])).1

/-- The first REMOTE among some pages, else the first failed check. -/
def pageFault (s : State) (o : EngOp) (rows dst : List Nat) : Option Nat :=
  let fs := (pageMarks rows).filterMap (localHbm s o .rd) ++ (pageMarks dst).filterMap (localHbm s o .wr)
  if fs.contains sRemote then some sRemote else fs.head?

/-- The conditions of R275 on a command that has been read; of several the rule gives no order (DESIGN CHOICE, log 107). -/
def iredErr (s : State) (o : EngOp) (h : Nat) (d : BitVec 512) (bags : List Bag) : Option Nat :=
  let rows := bags.flatMap (·.rows)
  if iDst h % iOut h != 0 || iStride h % iOut h != 0 || (descOk d && iStride h < dExt d 0 * iOut h) ||
      (descOk d && rows.any fun x => rowsOf d ≤ x) then some sBadarg
  else if !descOk d || 1 < dFmt d || 1024 < dExt d 0 * fmtBytes (dFmt d) then some sBaddesc
  else if !iHbm h && !scrInside s o (iDst h) ((bags.length - 1) * iStride h + dExt d 0 * iOut h) then some cRange
  else
    let rv := rows.flatMap fun x => vaRange (rowVa d x) (dExt d 0 * fmtBytes (dFmt d))
    pageFault s o rv (if iHbm h then iredVas h d bags.length else [])

/-- IRED reads its whole command and checks it, with the descriptor that its tid had for its thread at issue (R103); its read entry retires
(R153). `vals` then holds the count of each bag, the rows, and the weights (DEDUCED, log 64). -/
def openIred (s : State) (o : EngOp) : State :=
  let ga := o.ga.toNat
  if ga % 16 != 0 then faultOp s o sBadarg
  else if !scrInside s o ga 16 then faultOp s o cRange
  else match scrRead s o ga 16 with
    | .error e => faultOp s o e
    | .ok h =>
      if bitsN h 48 32 != 0 || iBags h == 0 || 8 < iBags h || (!iHbm h && bitsN h 127 96 != 0) then faultOp s o sBadarg
      else match readBags s o (iWgt h) (iBags h) (ga + 16) with
        | .error e => faultOp s o e
        | .ok (bags, _) =>
          let d := smGet 0 o.file (bitsN h 63 56)
          match iredErr s o h d bags with
          | some e => faultOp s o e
          | none =>
            let s := (dropReads s o.ref).modOp o.core o.slot fun p =>
              { p with
                descs := [d, 0, BitVec.ofNat 512 h]
                vals := bags.map (·.rows.length) ++ bags.flatMap (·.rows) ++ bags.flatMap (·.weights)
                prog := 1 }
            retarget s o [(true, iredVas h d bags.length)]

/-- Row counts of the bags of an IRED. -/
def iCounts (o : EngOp) : List Nat := o.vals.take (iBags (iredHdr o))
/-- Rows of an IRED in fetch order. -/
def iRows (o : EngOp) : List Nat := (o.vals.drop (iBags (iredHdr o))).take (sumN (iCounts o))
/-- Weights of an IRED in the order of its rows. -/
def iWeights (o : EngOp) : List Nat := ((o.vals.drop (iBags (iredHdr o))).drop (sumN (iCounts o))).take (if iWgt (iredHdr o) then sumN (iCounts o) else 0)
/-- Where the fetched elements start in `vals`. -/
def iBase (o : EngOp) : Nat := (iCounts o).length + (iRows o).length + (iWeights o).length

/-- The stack that holds a row: that of its first byte. -/
def rowStack (s : State) (o : EngOp) (x : Nat) : Nat :=
  match placeOf s o.who (rowVa (mTid o) x) 1 .rd with
  | .ok p => (match p.loc with | .mem k => stackOfKey k | _ => 0)
  | .error _ => 0

/-- The rows of an IRED enter the queues of the stacks that hold them (R276, R278). -/
def queueRows (s : State) (o : EngOp) : State :=
  let w := 4 + ceilDiv (dExt (mTid o) 0 * fmtBytes (dFmt (mTid o))) 64
  let s := s.modOp o.core o.slot fun p =>
    { p with prog := 2, vals := p.vals ++ List.replicate ((iRows o).length * dExt (mTid o) 0) 0 }
  (iRows o).zipIdx.foldl (fun s x => pushItem s (rowStack s o x.1) o w x.2) s

/-- The elements of a row as DRAM holds them (R176). -/
def fetchRow (s : State) (o : EngOp) (x : Nat) : List Nat :=
  let d := mTid o
  let n := fmtBytes (dFmt d)
  (List.range (dExt d 0)).map fun i =>
    sumN ((vaRange (elemVa d (rowIdx d x i)) n).zipIdx.map fun b =>
      (match placeOf s o.who b.1 1 .rd with
       | .ok p => (match p.loc with | .mem k => dramRead s k 1 p.tkey | _ => 0)
       | .error _ => 0) * 256 ^ b.2)

/-- A list with the elements from a position replaced. -/
def putAt (l : List Nat) (i : Nat) (xs : List Nat) : List Nat := l.take i ++ xs ++ l.drop (i + xs.length)

/-- One term of a bag's sum in a column (R130). -/
def sumTerm (acc : Option W32) (x : FVal) (w : Option FVal) : W32 :=
  match acc, w with
  | none, none => pack32 0 false x
  | none, some w => pack32 0 false (mulVal w x)
  | some a, none => pack32 0 false (addVal 0 (unpack32 false a) x)
  | some a, some w => pack32 0 false (addVal 0 (unpack32 false a) (mulVal w x))

/-- The sum of a bag in a column: rows `from` on, in order. -/
def bagColumn (o : EngOp) (start count col : Nat) : W32 :=
  let d := mTid o
  ((List.range count).foldl (fun (a : Option W32) i =>
    let r := start + i
    let x := plainElem (dFmt d) (o.vals.getD (iBase o + r * dExt d 0 + col) 0)
    let w := ((iWeights o)[r]?).map fun v => unpackBf16 false (BitVec.ofNat 32 v)
    some (sumTerm a x w)) none).getD 0#32

/-- First row of a bag. -/
def bagStart (o : EngOp) (b : Nat) : Nat := sumN ((iCounts o).take b)

/-- First address of a column of a bag's output. -/
def colVa (o : EngOp) (b col : Nat) : Nat := vaPlus (iDstVa (iredHdr o)) (b * iStride (iredHdr o) + col * iOut (iredHdr o))

/-- The bytes that an IRED writes for a column of a bag. -/
def colBytes (o : EngOp) (b col : Nat) : List (Nat × Nat) :=
  let v := bagColumn o (bagStart o b) ((iCounts o).getD b 0) col
  let v := if iBf16 (iredHdr o) then packBf16 0 false (unpack32 false v) else v
  (List.range (iOut (iredHdr o))).map fun k => (vaPlus (colVa o b col) k, v.toNat / 256 ^ k % 256)

/-- The bytes that an IRED writes. -/
def iredBytes (o : EngOp) : List (Nat × Nat) :=
  (List.range (iCounts o).length).flatMap fun b => (List.range (dExt (mTid o) 0)).flatMap (colBytes o b)

/-- The columns of a bag, by the 4-byte words of its output, with the bag. -/
def outputWords (o : EngOp) : List (Nat × Nat × List Nat) :=
  (List.range (iCounts o).length).flatMap fun b =>
    let cols := List.range (dExt (mTid o) 0)
    (distinct (cols.map fun c => colVa o b c / 4)).map fun w => (b, w, cols.filter fun c => colVa o b c / 4 == w)

/-- An IRED whose rows overlap its output, while its words are summed: the command, the keys and values written so far, and the 4-byte
words of rows, each with its row, that have been read. -/
structure LateRows where
  op : EngOp
  written : List (Nat × Nat)
  seen : List (Nat × Nat)
  deriving DecidableEq, Repr

/-- The 4-byte word of a row in which a column lies is read, once: before or after what has been written to it (R276). -/
def readRowWord (s : State) (a : LateRows) (r col : Nat) : LateRows :=
  let d := mTid a.op
  let va (c : Nat) : Nat := elemVa d (rowIdx d ((iRows a.op).getD r 0) c)
  let w := va col / 4
  if a.seen.contains (r, w) then a
  else
    let late := Config.freeBit s.free (w * 256 + r)
    let byte (v old : Nat) : Nat := match (engKeys s a.op .rd [v]).head?.bind fun k => smFind a.written k with
      | some b => if late then b else old
      | none => old
    let at_ (c : Nat) : Nat := iBase a.op + r * dExt d 0 + c
    let fresh (vs : List Nat) (c : Nat) : List Nat :=
      putAt vs (at_ c) [sumN ((vaRange (va c) (fmtBytes (dFmt d))).zipIdx.map fun b =>
        byte b.1 (vs.getD (at_ c) 0 / 256 ^ b.2 % 256) * 256 ^ b.2)]
    { a with
      op := { a.op with vals := ((List.range (dExt d 0)).filter fun c => va c / 4 == w).foldl fresh a.op.vals }
      seen := (r, w) :: a.seen }

/-- A word of the output is summed and written. -/
def sumWord (s : State) (a : LateRows) (g : Nat × Nat × List Nat) : LateRows :=
  let rows := (List.range ((iCounts a.op).getD g.1 0)).map fun i => bagStart a.op g.1 + i
  let a := rows.foldl (fun a r => g.2.2.foldl (fun a c => readRowWord s a r c) a) a
  let out := (g.2.2.flatMap (colBytes a.op g.1)).filterMap fun b => ((engKeys s a.op .wr [b.1]).head?).map fun k => (k, b.2)
  { a with written := out ++ a.written }

/-- Every row of an IRED has been fetched. Where an HBM destination overlaps rows that the command reads, the words of the output are
summed in an order that is not given, and each word of a row is read before or after the output of the words summed before it (R276)
(DEDUCED, log 64). -/
def overlapRows (s : State) (o : EngOp) : List Nat :=
  if !iHbm (iredHdr o) then o.vals
  else
    let order := sortBy (fun g : Nat × Nat × List Nat => Config.freeNat s.free (g.2.1 * 8 + g.1)) (outputWords o)
    (order.foldl (sumWord s) ⟨o, [], []⟩).op.vals

/-- A destination sector of an IRED; in HBM the home first writes back and drops the line, and the write reaches DRAM, charged once for its 64
bytes (R176, R278). -/
def iredSector (s : State) (o : EngOp) (sec : Nat) : State :=
  let bs := iredBytes o
  let keys := (bs.filter fun b => b.1 / 32 == sec).filterMap fun b =>
    match engPlace s o b.1 with
    | .ok p => (match p.loc with | .mem k => if isScratchKey k then none else some k | _ => none)
    | .error _ => none
  let s := (distinct (keys.map lineOf)).foldl cleanLine s
  let sibling := if sec % 2 == 0 then sec + 1 else sec - 1
  let s := resultSector s o bs sec
  let s := (distinct (keys.map lineOf)).foldl cleanLine s
  match keys with
  | [] => s
  | k :: _ => if o.sectorsDone.contains sibling then s else chargeKey s k 1

/-- A step of an IRED: the command, its rows, and its end once every row is fetched and every output written. -/
def stepIred (s : State) (o : EngOp) : State :=
  if o.prog == 0 then openIred s o
  else if o.prog == 1 then queueRows s o
  else if o.prog == 2 + (iRows o).length then
    (s.modOp o.core o.slot fun q => { q with prog := q.prog + 1, vals := overlapRows s o }).useFree
  else if o.prog == 3 + (iRows o).length && sectorsWritten o ((iredBytes o).map (·.1)) then finishOp s o (stackStatus o (iRows o).length)
  else s

/-! ### Buckets and alerts (R278, R279) -/

/-- The head of a stack's queue may be served: its operation still runs and the level covers its weight, or it has gone. -/
def itemReady (s : State) (k : Stack) : Bool :=
  match k.fifo with
  | [] => false
  | i :: _ =>
    match s.opOf? i.op with
    | none => true
    | some o => o.over || Int.ofNat i.weight ≤ (refillStack s.clk k).level

/-- What an operation does with its tokens: a query's row is read, or a row of an IRED is fetched. -/
def takeItem (s : State) (i : StackItem) (o : EngOp) : State :=
  s.modOp o.core o.slot fun q =>
    { q with
      prog := q.prog + 1
      vals := if q.kind == .ired then putAt q.vals (iBase o + i.row * dExt (mTid o) 0) (fetchRow s o ((iRows o).getD i.row 0))
        else q.vals }

/-- The item at the head of a stack's queue takes its tokens, once the level covers its weight. -/
def grantItem (s : State) (stack : Nat) : State :=
  let s := settleStack s stack
  match (s.stackAt stack).fifo with
  | [] => s
  | i :: rest =>
    match s.opOf? i.op with
    | none => s
    | some o =>
      if (s.stackAt stack).level < Int.ofNat i.weight then s
      else
        let s := s.modStack stack fun k => markBlocked s.clk { k with fifo := rest, level := k.level - Int.ofNat i.weight }
        (takeItem s i o).useFree

/-- BUCKET_ITEM_GRANT. -/
def execBucketItemGrant (stack : Nat) (s : State) : Host.Outcome State Fault Refusal :=
  .next (if itemReady s (s.stackAt stack) then grantItem s stack else s)

/-- STACK_ACTIVATION_ALERT: the operations that waited on the rows, and the ns that they lost; the rows of a table (an id below 16) are copied
to another bank group. No result changes (R279). -/
def execStackActivationAlert (stack ctx table : Nat) (ops : List (Nat × Nat)) (lost : Nat) (s : State) : Host.Outcome State Fault Refusal :=
  let hit (o : EngOp) : Bool := ops.contains (o.core, o.slot) && (o.kind == .tqry || o.kind == .ired) && !o.over
  let late (o : EngOp) : EngOp :=
    { o with acc := BitVec.ofNat 32 (min 0xFFFFFF (o.acc.toNat + lost)), status := o.status ||| 0x8000#32 }
  let s := { s with ops := mapIf hit late s.ops }
  let s := if table < 16 && (tableOf? s ctx table).isSome then
      s.modStack stack fun k => { k with rebuilding := k.rebuilding ++ [(ctx, table)] }
    else s
  .next (addLog s (2048 + stack) 3 (if table < 16 then ctx * 16 + table else 0))

/-- TABLE_COPY_REBUILT: later queries use the copy in the other bank group (R279). -/
def execTableCopyRebuilt (stack ctx table : Nat) (s : State) : Host.Outcome State Fault Refusal :=
  .next (if (s.stackAt stack).rebuilding.contains (ctx, table) then
    s.modStack stack fun k =>
      { k with
        rebuilding := k.rebuilding.filter (· != (ctx, table))
        moved := if k.moved.contains (ctx, table) then k.moved.filter (· != (ctx, table)) else k.moved ++ [(ctx, table)] }
  else s)

/-! ### The words (R266) -/

/-- The command of one lane of a stack word, with the descriptor that Ga names. -/
def stackCmd (kind : EngKind) (d a : Code) (s : State) (c : Cur) (l : Lane) : Cmd :=
  laneCmd kind l d (rdw s l a) 0 0 0 [descFor s c l (rd s l a).toNat] 8

/-- The scratch that a query will touch, by its descriptor as the command will find it: the size of a result is that of its table, or 4
bytes while there is none. -/
def queryRanges (s : State) (o : EngOp) : List (Bool × List Nat) :=
  let ga := o.ga.toNat
  if ga % 16 != 0 || !scrInside s o ga 16 then []
  else (false, vaRange (blockScr + ga) 16) ::
    match scrRead (forkedMem s o) o ga 16 with
    | .error _ => []
    | .ok q =>
      let fmt := match tableOf? s o.ctx (bitsN q 31 28) with | some t => t.fmt | none => 0
      if queryOk q && scrInside s o (qIdx q) (2 * qCount q) && scrInside s o (qOut q) (qSize q fmt * qCount q) then queryGroups q (qSize q fmt)
      else []

/-- The scratch that a reduce will touch, by its command as it will find it: all that it reads of it, and a destination in scratch. -/
def reduceRanges (s : State) (o : EngOp) : List (Bool × List Nat) :=
  let ga := o.ga.toNat
  let t := forkedMem s o
  if ga % 16 != 0 || !scrInside s o ga 16 then []
  else match scrRead t o ga 16 with
    | .error _ => [(false, vaRange (blockScr + ga) 16)]
    | .ok h =>
      let n := min 8 (iBags h)
      let d := smGet 0 o.file (bitsN h 63 56)
      let last := match readBags t o (iWgt h) n (ga + 16) with | .ok (_, e) => e | .error _ => ga + 16
      let ok := descOk d && dExt d 0 * fmtBytes (dFmt d) ≤ 1024
      [(false, vaRange (blockScr + ga) (last - ga)), (true, if ok then iredVas h d n else [])]

/-- The scratch that a command will touch, from its issue (R151): the entries that a descriptor or a command in scratch decides are those
of its bytes with the stores that the fork waits for (DEDUCED, log 91). -/
def stackRanges (s : State) (o : EngOp) : List (Bool × List Nat) :=
  match o.kind with
  | .tqry => queryRanges s o
  | .ired => reduceRanges s o
  | .tqload =>
    let d := mTid o
    if o.ga.toNat / 256 == 0 && descOk d && dFmt d != 4 && dCount d * entryBytes (dFmt d) ≤ 16384 then
      [(false, (List.range (dCount d)).flatMap fun j => (elemParts d (flatIdx d j)).map (·.1))]
    else []
  | _ => []

/-- TQLOAD (R269). -/
def execTqload (h : Hdr) (d a : Code) (s : State) : Host.Outcome State Fault Refusal :=
  .next (laneEngine (.tqload h d a) h (stackCmd .tqload d a) stackRanges s)

/-- TQRY (R273). -/
def execTqry (h : Hdr) (d a : Code) (s : State) : Host.Outcome State Fault Refusal :=
  .next (laneEngine (.tqry h d a) h (stackCmd .tqry d a) stackRanges s)

/-- TQFREE (R271). -/
def execTqfree (h : Hdr) (d a : Code) (s : State) : Host.Outcome State Fault Refusal :=
  .next (laneEngine (.tqfree h d a) h (stackCmd .tqfree d a) stackRanges s)

/-- IRED (R276). -/
def execIred (h : Hdr) (d a : Code) (s : State) : Host.Outcome State Fault Refusal :=
  .next (laneEngine (.ired h d a) h (stackCmd .ired d a) stackRanges s)

end Sys2Proof.Machine
end

