-- ==== Sys2Proof/Machine/Launch.lean ====
section
/-!
DEFINITION. Work queues, launch records, the dispatcher, placement, pre-emption, migration, save and restore (R30 to R33, R91, R201, R247,
R263, R291, R301 to R315, R330 to R332, R363, R431, R432, R518).
-/

namespace Sys2Proof.Machine

/-! ### Records (R303, R305, R518) -/

/-- ENTRY in bytes. -/
def Launch.entry (l : Launch) : Nat := recF l.record 230 207 * 8
/-- SIGADDR as an address. -/
def Launch.sigAddr (l : Launch) : Nat := recF l.record 454 401 * 8
/-- SIGVAL. -/
def Launch.sigVal (l : Launch) : Nat := recF l.record 400 337
/-- PBASE. -/
def Launch.pbase (l : Launch) : Nat := recF l.record 511 455
/-- PSTRIDE in bytes. -/
def Launch.pstride (l : Launch) : Nat := recF l.record 17 0 * 4096
/-- ARG as an address. -/
def Launch.arg (l : Launch) : Nat := recF l.record 336 284 * 16
/-- Warps of a block. -/
def Launch.warpsPer (l : Launch) : Nat := ceilDiv (l.ext 0) 32

/-- Warps of one NREG that a partition holds (R31). -/
def warpsFit (nreg : Nat) : Nat := min 16 (Config.regWords / (nreg * 32))

/-- NREG is one that a partition can give (R30). -/
def nregOk (n : Nat) : Bool := 16 ≤ n && n ≤ 128 && n % 8 == 0

/-- Widths and extents are in range (R39, R305). -/
def extentsOk (l : Launch) : Bool :=
  sumN ((List.range 6).map l.wid) ≤ 64 && (List.range 6).all (fun i => 1 ≤ l.ext i && l.ext i ≤ 2 ^ l.wid i) && l.ext 0 ≤ 1024 && l.ext 1 ≤ 16

/-- The lowest code for which a queue rejects a record (R305, R518). -/
def rejectCode (s : State) (l : Launch) : Option Nat :=
  if !nregOk l.nreg then some 1
  else if !extentsOk l then some 2
  else if recF (s.ctxAt l.ctx).hdr 283 252 ≤ l.entry then some 3
  else if 524288 < l.scratch then some 4
  else if warpsFit l.nreg < ceilDiv l.warpsPer 4 then some 5
  else none

/-! ### Queues (R301, R305, R363, R432) -/

/-- Address of a record of a queue. -/
def recordVa (q : Queue) (i : Nat) : Nat := vaPlus q.qbase.toNat (i % 2 ^ q.log2n * 64)

/-- 64 bytes that the part reads in a context. -/
def readRecord (s : State) (x va : Nat) : Except Nat (BitVec 512) := (heapHeader s x va).map fun v => BitVec.ofNat 512 v

/-- A queue stops with a cause, unless it has stopped already; a record whose signal word cannot be read is no longer in hand. The LAUNCH that
appended the record ends with BADLAUNCH (R305, R518) (DEDUCED, log 41). -/
def stopQueue (s : State) (q cause : Nat) (fut : Option FutRef) : State :=
  let s := s.modQueue q fun x =>
    { x with
      stopped := true
      cause := if x.stopped then x.cause else cause
      cur := if cause == 8 then none else x.cur }
  match fut with
  | none => s
  | some r =>
    let mine (o : EngOp) : Bool := o.ref == r && o.state == OpState.running
    { s with ops := mapIf mine (fun o => { o with state := .fault sBadlaunch }) s.ops }

/-- The ranks that answer for a launch: this device alone, or every device of the span for a LAUNCH of this device (R307). -/
def spanRanks (c : Ctx) (fut : Option FutRef) : List Nat :=
  if fut.isSome && 1 < c.span then List.range c.span else [c.rank % max 1 c.span]

/-- A launch starts: a device with no cluster of it has done its part (R306, R308). -/
def startLaunch (s : State) (id : Nat) : State :=
  let s := settleLaunch (s.modLaunch id fun l => { l with started := true }) id
  let l := s.launchAt id
  if launchBlocks s l == 0 then s.modQueue l.q fun q => if q.cur == some id then { q with cur := none } else q else s

/-- Clusters of a launch that this device places, in ascending order (R306). -/
def myClusters (s : State) (l : Launch) : List Nat :=
  let c := s.ctxAt l.ctx
  (List.range l.clusters).filter fun i => i % max 1 c.span == c.rank % max 1 c.span

/-- A LAUNCH that waits for a rank whose link has been reported lost ends with ABORTED (R202, R307). -/
def dropLost (s : State) (id : Nat) : State :=
  let l := s.launchAt id
  let own := (s.ctxAt l.ctx).rank
  if l.fut.isSome && 1 < (s.ctxAt l.ctx).span then
    (l.ranks.filter fun r => r != own && s.lostRanks.contains r).foldl (fun s r => launchLost s id r) s
  else s

/-- A record is taken from a queue (R301, R305): it is rejected, or becomes a launch that waits for its signal, or starts. -/
def acceptRecord (s : State) (q : Queue) (r : BitVec 512) : State :=
  let fut := (q.entries.find? fun e => e.1 == q.head.toNat).map (·.2)
  let org := (q.origins.find? fun e => e.1 == q.head.toNat).map (·.2)
  let l : Launch :=
    { blankLaunch with
      id := s.nextId
      ctx := q.ctx
      q := q.id
      record := r
      fut := fut
      origin := org
      ranks := spanRanks (s.ctxAt q.ctx) fut
      scope := if 1 < (s.ctxAt q.ctx).span then 5 else 4 }
  let s := s.modQueue q.id fun x =>
    { x with
      head := x.head + 1
      entries := x.entries.filter fun e => e.1 != q.head.toNat
      origins := x.origins.filter fun e => e.1 != q.head.toNat }
  match rejectCode s l with
  | some c => sendDone (stopQueue s q.id c fut) q.ctx org
  | none =>
    let s := { s with launches := s.launches ++ [l], nextId := s.nextId + 1 }.modQueue q.id fun x => { x with cur := some l.id }
    let s := dropLost s l.id
    if l.sigAddr == 0 then startLaunch s l.id else s

/-- The ring has room for a record (R363). -/
def ringRoom (q : Queue) : Bool := (q.tail - q.head).toNat < 2 ^ q.log2n

/-- A record is written at TAIL, which moves on (R432). -/
def putRecord (s : State) (i : Nat) (r : BitVec 512) (fut : Option FutRef) (org : Option Nat) : State :=
  let q := s.queueAt i
  let va := recordVa q q.tail.toNat
  let s := match partStores s q.ctx ((List.range 8).map fun k => (va + 8 * k, 8, recF r (64 * k + 63) (64 * k))) with
    | .ok t => t
    | .error _ => s
  s.modQueue i fun x =>
    { x with
      tail := x.tail + 1
      entries := x.entries ++ (match fut with | some f => [(q.tail.toNat, f)] | none => [])
      origins := x.origins ++ (match org with | some o => [(q.tail.toNat, o)] | none => []) }

/-- A forwarded record that waited for room is appended (R307). -/
def putForward (s : State) (i : Nat) : State :=
  match (s.queueAt i).forwards with
  | [] => s
  | f :: rest =>
    if ringRoom (s.queueAt i) && !(s.queueAt i).stopped then
      putRecord (s.modQueue i fun q => { q with forwards := rest }) i f.1 none (some f.2)
    else s

/-- A queue asks another device for its next record, in pieces of 16 bytes (R364) (DEDUCED, log 55). -/
def askRecord (s : State) (q : Queue) (rank : Nat) : State :=
  let va := recordVa q q.head.toNat
  let t := (List.range 4).foldl (fun t i => sendRemote t q.ctx ⟨s.nextId + i, 16, rank, BitVec.ofNat 64 (va + 16 * i), 1, 0, 4⟩) s
  ({ t with nextId := s.nextId + 4 } : State).modQueue q.id fun x => { x with far := (List.range 4).map fun i => (s.nextId + i, none) }

/-- The record that another device has sent, once every piece of it has come. -/
def farRecord? (q : Queue) : Option (BitVec 512) :=
  ((sortBy (fun e : Nat × Option W128 => e.1) q.far).mapM fun e : Nat × Option W128 => e.2).map fun vs =>
    BitVec.ofNat 512 (sumN (vs.zipIdx.map fun v => v.1.toNat * 2 ^ (128 * v.2)))

/-- A queue takes records while it can: it runs, has no record in hand, and TAIL is past HEAD. `n` bounds the steps. -/
def takeRecords : Nat → State → Nat → State
  | 0, s, _ => s
  | n + 1, s, i =>
    let s := putForward s i
    let q := s.queueAt i
    if !q.enable || q.stopped || q.head == q.tail || !(s.ctxAt q.ctx).live || (s.ctxAt q.ctx).stopped then s
    else if 2 ^ q.log2n < (q.tail - q.head).toNat then stopQueue s i 6 none
    else if q.cur.isSome then s
    else match translate s (s.ctxAt q.ctx) (recordVa q q.head.toNat) .rd with
      | .error _ => stopQueue s i 7 none
      | .ok t =>
        match t.remote with
        | some rank =>
          if q.far.isEmpty then askRecord s q rank
          else (match farRecord? q with
            | none => s
            | some r => takeRecords n (acceptRecord (s.modQueue i fun x => { x with far := [] }) q r) i)
        | none =>
          match readRecord s q.ctx (recordVa q q.head.toNat) with
          | .error _ => stopQueue (noteErrors s q.ctx [recordVa q q.head.toNat]) i 7 none
          | .ok r => takeRecords n (acceptRecord (partTouch s q.ctx (recordVa q q.head.toNat) 64) q r) i

/-- A queue goes on. -/
def pumpQueue (s : State) (i : Nat) : State := takeRecords 65536 s i

/-- A record is appended, and the queue goes on. -/
def appendRecord (s : State) (i : Nat) (r : BitVec 512) (fut : Option FutRef) (org : Option Nat) : State :=
  pumpQueue (putRecord s i r fut org) i

/-- QUEUE_DOORBELL: a write of TAIL (R363). -/
def execQueueDoorbell (q : Nat) (tail : W32) (s : State) : Host.Outcome State Fault Refusal :=
  .next (if q < 8192 then pumpQueue (s.modQueue q fun x => { x with tail := tail }) q else s)

/-- QUEUE_RESTART: a write of 1 to STOPPED (R363, R518). -/
def execQueueRestart (q : Nat) (s : State) : Host.Outcome State Fault Refusal :=
  .next (if (s.queueAt q).stopped then pumpQueue (s.modQueue q fun x => { x with stopped := false, cause := 0 }) q else s)

/-- Where the signal word of a record lies, or none when its read fails a check (R308). -/
def signalPlace (s : State) (l : Launch) : Option Xlat :=
  match translate s (s.ctxAt l.ctx) l.sigAddr .rd with
  | .error _ => none
  | .ok t => if isAperture l.sigAddr || portDown s t then none else some t

/-- A record's read of its signal word has returned a value: the queue goes on with a value of at least SIGVAL, and reads again later with
another: a word of this device after the next write to it (R308). -/
def signalValue (s : State) (l : Launch) (key : Option Nat) (v : Nat) : State :=
  let s := s.modLaunch l.id fun x => { x with seen := key, sig := .none }
  if l.sigVal ≤ v then pumpQueue (startLaunch s l.id) l.q else s

/-- The queue reads the signal word as an acquire at .dv (R170, R173, R308). -/
def acquireSignal (s : State) (l : Launch) (t : Xlat) : State :=
  scopeCheck (observe (chargeOrdinary s t.key 8) t.key 8 none) t.key 8 4 ⟨l.ctx, none, none, none, none, true, true⟩

/-- A record's signal word cannot be read: its queue stops with code 8, and the record is gone (R308, R518). -/
def signalLost (s : State) (l : Launch) : State :=
  let s := noteErrors s l.ctx [l.sigAddr]
  stopQueue { s with launches := s.launches.filter fun x => x.id != l.id } l.q 8 l.fut

/-- A record waits for its signal word, and its queue runs. -/
def awaitsSignal (s : State) (l : Launch) : Bool := !l.started && !(s.queueAt l.q).stopped && (s.queueAt l.q).cur == some l.id

/-- A read of the signal word that a queue makes now: a local word is read, and one of another device is asked for (R308). -/
def readSignal (s : State) (l : Launch) : State :=
  match signalPlace s l with
  | none => signalLost s l
  | some t =>
    match t.remote with
    | none => (signalValue (acquireSignal s l t) l (some t.key) (homeRead s t.key 8 t.tkey)).useFree
    | some r =>
      if l.sig == .out then s
      else sendRemote (s.modLaunch l.id fun x => { x with sig := .out }) l.ctx ⟨l.id, 8, r, BitVec.ofNat 64 l.sigAddr, 1, 1, 5⟩

/-- A queue's record waits for its signal, and its next read is due: the first, and one after each write to the word; a word of another
device is read again and again. -/
def signalReady (s : State) (q : Queue) : Bool :=
  match q.cur with
  | none => false
  | some id =>
    let l := s.launchAt id
    awaitsSignal s l &&
    (match signalPlace s l with
     | none => true
     | some t => if t.remote.isNone then l.seen != some t.key else l.sig != .out)

/-- SIGNAL_WORD_CHECK: the queue reads the signal word of its record (R308). -/
def execSignalWordCheck (q : Nat) (s : State) : Host.Outcome State Fault Refusal :=
  .next (match (s.queueAt q).cur with
    | none => s
    | some id => if awaitsSignal s (s.launchAt id) then readSignal s (s.launchAt id) else s)

/-! ### Cores that can take a block (R30 to R32, R310 to R312) -/

/-- Register words of a partition in use, counting warps about to be placed. -/
def regsUsed (s : State) (core part : Nat) (plan : List WarpKey) (nreg : Nat) : Nat :=
  sumN ((s.warps.filter fun w => w.key.core == core && w.key.part == part).map fun w => w.nreg * 32) +
    (plan.filter fun k => k.part == part).length * nreg * 32

/-- The lowest free warp slot of a partition (DEDUCED, log 72). -/
def lowSlot? (s : State) (core part : Nat) (plan : List WarpKey) : Option Nat :=
  (List.range Config.slots).find? fun i => !(s.warps.any fun w => w.key == ⟨core, part, i⟩) && !plan.contains ⟨core, part, i⟩

/-- The partition with the most free register bytes, the lowest on ties (R32). -/
def roomiest (s : State) (core : Nat) : Nat :=
  ((sortBy (fun p => regsUsed s core p [] 0) (List.range Config.parts)).head?).getD 0

/-- Places for the warps of a block on a core, in rotation over its partitions (R30, R32). -/
def planWarps (s : State) (core nreg n : Nat) : Option (List WarpKey) :=
  let p0 := roomiest s core
  (List.range n).foldl (fun (a : Option (List WarpKey)) i =>
    a.bind fun ks =>
      let p := (p0 + i) % Config.parts
      if Config.regWords < regsUsed s core p ks nreg + nreg * 32 then none
      else (lowSlot? s core p ks).map fun t => ks ++ [⟨core, p, t⟩]) (some [])

/-- A block whose scratch stays allocated: it is not saved, and some block of its cluster has not retired (R140). -/
def holdsScratch (s : State) (b : Block) : Bool :=
  !b.saved && b.scrLen != 0 && s.blocks.any fun c => c.launch == b.launch && c.cluster == b.cluster && !c.retired

/-- The lowest offset of a free range of a core's scratchpad (R311). -/
def scratchAt? (s : State) (core len : Nat) : Option Nat :=
  let bs := s.blocks.filter fun b => b.core == core && holdsScratch s b
  let starts := sortBy id (0 :: bs.map fun b => ceilDiv (b.scr + b.scrLen) 16 * 16)
  starts.find? fun a => a + len ≤ Config.scratch && bs.all fun b => !overlap a len b.scr b.scrLen

/-- Distance of two numbers. -/
def distN (a b : Nat) : Nat := if a < b then b - a else a - b

/-- The clusters of a die, nearest first, lower on ties. -/
def clusterOrder (c0 : Nat) : List Nat := sortBy (fun c => distN c c0 * 4 + c) (List.range 4)

/-- The cores of a die from a core number within the die (R311). -/
def dieOrder (die j0 : Nat) : List Nat :=
  (clusterOrder (j0 / 16)).flatMap fun c =>
    let js := (List.range 16).map fun i => c * 16 + i
    (if c == j0 / 16 then sortBy (fun j => distN j j0 * 64 + j) js else js).map fun j => die * 64 + j

/-- The order in which cores are tried from a preferred core (R311). -/
def coreOrder (j : Nat) : List Nat :=
  (sortBy (fun d => distN d (dieOf j) * 4 + d) (List.range 4)).flatMap fun d => dieOrder d (j % 64)

/-- The hardware clusters in that order (R312). -/
def hwOrder (j : Nat) : List Nat := distinct ((coreOrder j).map hwCluster)

/-- The preferred core of an address, when it lies in local HBM (R310). -/
def coreOfAddress (s : State) (x va : Nat) : Option Nat :=
  if isAperture va || 2 ^ 57 ≤ va then none
  else match leafFor s (s.ctxAt x) va with
    | none => none
    | some (e, size) =>
      if bitsN e 51 48 == 15 || bitsN e 11 10 != 0 then none
      else
        let pa := pteAddr e + va % size
        some (64 * (bitsN pa 12 10 / 2) + 32 * (bitsN pa 12 10 % 2) + bitsN pa 17 13)

/-- The preferred core of a block (R310). -/
def preferredCore (s : State) (l : Launch) (b : Nat) : Nat :=
  let next := (s.lastCore + 1) % Config.cores
  if l.pbase == 0 then next else (coreOfAddress s l.ctx (vaPlus l.pbase (b * l.pstride))).getD next

/-! ### New blocks (R32, R33, R38, R91, R92, R157) -/

/-- The field values of a thread: its number in the block, the block's in its cluster, the cluster. -/
def fieldsOf (l : Launch) (f0 f1 c : Nat) : List Nat :=
  [f0, f1, c % l.ext 2, c / l.ext 2 % l.ext 3, c / (l.ext 2 * l.ext 3) % l.ext 4, c / (l.ext 2 * l.ext 3 * l.ext 4)]

/-- WID of a thread (R38). -/
def widOf (l : Launch) (f0 f1 c : Nat) : W64 :=
  BitVec.ofNat 64 (sumN ((fieldsOf l f0 f1 c).zipIdx.map fun f => f.1 * 2 ^ sumN ((List.range f.2).map l.wid)))

/-- A thread as it starts (R91). -/
def newLane (l : Launch) (pc : W64) (k j f1 c : Nat) : Lane :=
  let f0 := 32 * k + j
  { blankLane j with
    pc := pc
    exited := l.ext 0 ≤ f0
    g := [(0, BitVec.ofNat 32 l.arg), (1, BitVec.ofNat 32 (l.arg / 2 ^ 32))]
    slim := l.slim
    wid := widOf l f0 f1 c
    flat := f0 + l.ext 0 * (f1 + l.ext 1 * c) }

/-- Warp k of a block as it starts (R32, R33, R92). -/
def newWarp (s : State) (l : Launch) (blk f1 c : Nat) (key : WarpKey) (k : Nat) : Warp :=
  let pc := BitVec.ofNat 64 ((s.ctxAt l.ctx).textBase + l.entry)
  let lanes := (List.range 32).map fun j => newLane l pc k j f1 c
  { blankWarp key with
    ctx := l.ctx
    blk := blk
    nreg := l.nreg
    lanes := lanes
    paths := [{ newPath pc (maskOf ((lanes.filter fun x => !x.exited).map (·.id))) with endedAt := s.clk }]
    since := s.clk }

/-- A new block on a core, if the core can take it. The core's L1 lines of C and U pages go, as after an acquire (R308). -/
def placeNew (s : State) (l : Launch) (f1 c core : Nat) : Option State :=
  match planWarps s core l.nreg l.warpsPer, scratchAt? s core l.scratch with
  | some ks, some off =>
    let id := s.nextId
    let b : Block :=
      { id := id
        launch := l.id
        ctx := l.ctx
        b := f1 + l.ext 1 * c
        cluster := c
        f1 := f1
        core := core
        scr := off
        scrLen := l.scratch
        warps := ks
        since := s.clk
        saving := none
        target := none
        saved := false
        retired := false }
    let ws := ks.zipIdx.map fun k => newWarp s l id f1 c k.1 k.2
    let s := dropL1 { s with nextId := id + 1, blocks := s.blocks ++ [b], warps := s.warps ++ ws, lastCore := core } core
    some (s.modLaunch l.id fun l => { l with placed := l.placed + 1, liveBlks := l.liveBlks + 1 })
  | _, _ => none

/-! ### Saved blocks (R201, R263, R291, R311, R330, R331) -/

/-- The saved state of a block. -/
def State.savedAt? (s : State) (blk : Nat) : Option SavedBlock := s.saved.find? fun x => x.blk == blk

/-- A warp key replaced by another. -/
def rekeyOf (m : List (WarpKey × WarpKey)) (k : WarpKey) : WarpKey := ((m.find? fun e => e.1 == k).map (·.2)).getD k

/-- The threads of some warps. -/
def threadsOf (ws : List Warp) : List (Nat × W64) := ws.flatMap fun w => w.lanes.map fun l => (w.ctx, l.wid)

/-- A tentative word that one of some threads owns. -/
def TentWord.ownedIn (t : TentWord) (ts : List (Nat × W64)) : Bool := ts.contains (t.ctx, t.wid)

/-- A helper group under new warp keys. -/
def rekeyGroup (m : List (WarpKey × WarpKey)) (g : HelperGroup) : HelperGroup :=
  { g with
    w := rekeyOf m g.w
    members := g.members.map fun e => (e.1, rekeyOf m e.2.1, e.2.2)
    every := g.every.map fun e => (rekeyOf m e.1, e.2) }

/-- A saved wait under its new warp key: a parked MWAIT is armed again, and one whose result TRAPRET is to write keeps it. -/
def rekeyWait (s : State) (m : List (WarpKey × WarpKey)) (a : Access) : Access :=
  let k := rekeyOf m a.w
  { a with w := k, agent := s.agentOf (s.warpAt k), st := if a.st == .parked then .pending else a.st }

/-- The waits of restored blocks are armed where their addresses lie once all of these blocks have their places (R216, R315). -/
def armWaits (s : State) (blks : List Nat) : State :=
  let arm (a : Access) : Access :=
    let w := s.warpAt a.w
    match placeOf s (whoOf w (w.laneAt a.lane)) a.va.toNat a.bytes .rd with
    | .ok p => { a with loc := p.loc }
    | .error _ => a
  { s with accesses := mapIf (fun a => a.kind == .mwait && a.st == .pending && blks.contains (s.warpAt a.w).blk) arm s.accesses }

/-- A release record of a block: its threads are on another die now, and its scratch stands elsewhere (R161, R173). -/
def moveRelease (blk core : Nat) (r : RelRec) : RelRec :=
  if r.agent.blk == some blk then { r with agent := { r.agent with die := some (dieOf core) } } else r

/-- A release record of a word that stands elsewhere. -/
def moveKey (f : Nat → Nat) (r : RelRec) : RelRec := { r with key := f r.key }

/-- Everything that names the warps of a saved block by their keys names them by their new ones (R33, R37, R298). -/
def rekeyBlock (s : State) (x : SavedBlock) (m : List (WarpKey × WarpKey)) (core : Nat) : State :=
  let s := { s with
    ops := mapIf (fun o => o.blk == x.blk) (fun o => { o with w := rekeyOf m o.w }) s.ops
    groups := s.groups ++ x.groups.map (rekeyGroup m)
    tentWords := mapIf (fun t => t.core == some (savedPlace x.blk)) (fun t => { t with core := some core }) s.tentWords
    releases := s.releases.map (moveRelease x.blk core) }
  { s with accesses := s.accesses ++ x.waits.map (rekeyWait s m) }

/-- Lines of tentative words that some threads own. -/
def ownedLines (s : State) (ts : List (Nat × W64)) : List Nat :=
  distinct ((s.tentWords.filter fun t => t.ownedIn ts).map fun t => lineOf t.key)

/-- A warp with a trap handler. -/
def holdsTrap (w : Warp) : Bool := w.trapMode || w.trapReq.isSome

/-- The slots that saved warps left, when a core can give them again: a warp in trap mode returns to its own, whose number its trap slot
follows (R331) (DEDUCED, log 82). -/
def ownSlots? (s : State) (core nreg : Nat) (ws : List Warp) : Option (List WarpKey) :=
  let ks := ws.map (·.key)
  let fits (p : Nat) : Bool := regsUsed s core p ks nreg ≤ Config.regWords
  if ks.all (fun k => k.core == core && !(s.warps.any fun w => w.key == k) && fits k.part) then some ks else none

/-- Entries of tentative lines that come to a core: those that it has already take their marks (R291). -/
def joinTent (mine new : List TentEntry) : List TentEntry :=
  new.foldl (fun l e => upsert (fun y => y.line == e.line) ⟨e.line, []⟩ (fun y => { y with marks := joinMarks y.marks e.marks }) l) mine

/-- A restored context starts with an empty run buffer in the partitions of its warps (R105, R331). -/
def emptyRuns (s : State) (x : Nat) (ks : List WarpKey) : State :=
  { s with
    parts := mapIf (fun p => ks.any fun k => k.core == p.core && k.part == p.part)
      (fun p => { p with runbuf := p.runbuf.filter fun b => b.ctx != x }) s.parts }

/-- A unit of a save record is read or written by the copy engine: its traffic is charged block by block, or sent to the device that holds
it (R278, R366). -/
def touchUnit (x : Nat) (need : Need) (s : State) (u : Nat) : State :=
  let va := recF (s.ctxAt x).hdr 463 423 * 65536 + u * 65536
  match translate s (s.ctxAt x) va need with
  | .error _ => s
  | .ok t =>
    match t.remote with
    | some r => sendOwn s x r va 65536 (if need == .wr then 2 else 1)
    | none =>
      if portDown s t then s
      else observe ((List.range 1024).foldl (fun s i => chargeOrdinary s (t.key + 64 * i) 64) s) t.key 65536 none

/-- A saved block on a core, if the core can take it (R311, R331): a block with PIN set or a warp in trap mode only on the core that it
left (DEDUCED, log 82). -/
def placeSaved (s : State) (blk core : Nat) : Option State :=
  match s.savedAt? blk with
  | none => none
  | some x =>
    let b := s.blockAt blk
    let l := s.launchAt b.launch
    let c := s.coreAt core
    let new := x.tent.filter fun e => !c.tent.any fun y => y.line == e.line
    let traps := x.warps.any holdsTrap
    if (l.pin || traps) && core != b.core then none
    else if x.mat.isSome && c.mat.holder.isSome then none
    else if Config.tentLines < c.tent.length + new.length then none
    else
    let plan := if traps then ownSlots? s core l.nreg x.warps else planWarps s core l.nreg x.warps.length
    match plan, scratchAt? s core b.scrLen with
      | some ks, some off =>
        let m := (x.warps.zip ks).map fun v => (v.1.key, v.2)
        let ws := (x.warps.zip ks).map fun v => { v.1 with key := v.2, restoring := true, since := s.clk }
        let base := scratchKey b.core b.scr
        let moved (k : Nat) : Nat := scratchKey core off + (k - base)
        let mem := x.scratch.foldl (fun t v => memSet t (moved v.1) v.2) (memWrite s.mem (scratchKey core off) b.scrLen 0)
        let s := { s with
          mem := mem
          warps := s.warps ++ ws
          releases := s.releases ++ x.rels.map (moveKey moved)
          lastCore := core
          saved := s.saved.filter fun y => y.blk != blk }
        let s := s.modBlock blk fun b =>
          { b with
            core := core
            scr := off
            warps := ks
            since := s.clk
            saved := false
            target := none }
        let s := s.modCore core fun c =>
          { c with
            mat := match x.mat with | some t => { t with waiting := c.mat.waiting } | none => c.mat
            tent := joinTent c.tent x.tent }
        some (rekeyBlock (x.units.foldl (touchUnit b.ctx .rd) (emptyRuns (dropL1 s core) b.ctx ks)) x m core)
      | _, _ => none

/-! ### The dispatcher (R302, R310 to R313) -/

/-- What the dispatcher places as a whole: the blocks of one cluster, new ones or saved ones. -/
inductive Job where
  | fresh (launch cluster : Nat)
  | restore (launch cluster : Nat) (blks : List Nat)
  deriving DecidableEq, Repr

/-- The launch of a job. -/
def Job.launch : Job → Nat
  | .fresh l _ => l
  | .restore l _ _ => l

/-- The blocks of a cluster of a launch that have not retired. -/
def clusterBlocks (s : State) (launch cluster : Nat) : List Block :=
  s.blocks.filter fun b => b.launch == launch && b.cluster == cluster && !b.retired

/-- The blocks of a cluster of a launch while one of them has not retired, with those that have: their scratch stands as long (R140). -/
def clusterAll (s : State) (launch cluster : Nat) : List Block :=
  if (clusterBlocks s launch cluster).isEmpty then [] else s.blocks.filter fun b => b.launch == launch && b.cluster == cluster

/-- One block of a job on a core. -/
def placeOne (s : State) (j : Job) (i core : Nat) : Option State :=
  match j with
  | .fresh l c => placeNew s (s.launchAt l) i c core
  | .restore _ _ bs => (bs[i]?).bind fun b => placeSaved s b core

/-- How many blocks a job has. -/
def Job.size (s : State) : Job → Nat
  | .fresh l _ => (s.launchAt l).ext 1
  | .restore _ _ bs => bs.length

/-- The flat index of block i of a job. -/
def Job.flat (s : State) (j : Job) (i : Nat) : Nat :=
  match j with
  | .fresh l c => i + (s.launchAt l).ext 1 * c
  | .restore _ _ bs => (s.blockAt (bs.getD i 0)).b

/-- The block of a job that migrates, and its target (R314). -/
def Job.target? (s : State) : Job → Option (Nat × Nat)
  | .fresh _ _ => none
  | .restore _ _ bs => bs.findSome? fun b => (s.blockAt b).target.map fun c => (b, c)

/-- Block i of a job migrates to a target. -/
def Job.targetAt (s : State) (j : Job) (i : Nat) : Option Nat :=
  match j with
  | .fresh _ _ => none
  | .restore _ _ bs => (s.blockAt (bs.getD i 0)).target

/-- The job's blocks on cores of one hardware cluster: one that migrates on its target, any other on its own preferred core when that lies
there and can take it, else on the lowest core that can (R312, R314). Block 0 prefers the core that chose the cluster, unless a target did. -/
def placeInCluster (s : State) (j : Job) (pref hw : Nat) : Option State :=
  let l := s.launchAt j.launch
  let cores := (List.range 16).map fun i => hw * 16 + i
  let order := sortBy (fun i => if (j.targetAt s i).isSome then 0 else 1) (List.range (j.size s))
  order.foldl (fun (a : Option State) i =>
    a.bind fun t =>
      match j.targetAt s i with
      | some c => placeOne t j i c
      | none =>
        let p := if j.flat s i % max 1 (l.ext 1) == 0 && (j.target? s).isNone then pref else preferredCore t l (j.flat s i)
        match if hwCluster p == hw then placeOne t j i p else none with
        | some u => some u
        | none => cores.findSome? fun c => placeOne t j i c) (some s)

/-- A job on its preferred place, or, once its wait is over, on the first other place that can take it; a job that migrates only on its target
(R311, R312, R314). -/
def placeJob (s : State) (j : Job) (pref : Nat) (others : Bool) : Option State :=
  let others := others && (j.target? s).isNone
  let t :=
    if 1 < (s.launchAt j.launch).ext 1 then
      (if others then hwOrder pref else [hwCluster pref]).findSome? fun h => placeInCluster s j pref h
    else (if others then coreOrder pref else [pref]).findSome? fun c => placeOne s j 0 c
  match j with
  | .fresh _ _ => t
  | .restore _ _ bs => t.map fun t => armWaits t bs

/-- 4 µs in clk. -/
def placeWait : Nat := clkOfNs 4000

/-- The clusters of a launch all of whose blocks are saved, as jobs (R313). -/
def savedJobs (s : State) (l : Launch) : List Job :=
  let cs := sortBy id (distinct ((s.blocks.filter fun b => b.launch == l.id && b.saved && !b.retired).map (·.cluster)))
  cs.filterMap fun c =>
    let bs := clusterAll s l.id c
    if !bs.isEmpty && bs.all (fun b => b.saved) then some (.restore l.id c ((sortBy (fun b : Block => b.f1) bs).map (·.id))) else none

/-- A context whose blocks the dispatcher serves. -/
def serves (s : State) (x : Nat) : Bool := (s.ctxAt x).live && !(s.ctxAt x).stopped

/-- The new cluster that a queue places next. -/
def freshJob? (s : State) (q : Queue) : Option Job :=
  match q.cur with
  | none => none
  | some id =>
    let l := s.launchAt id
    if l.started then ((myClusters s l)[l.next]?).map fun c => .fresh id c else none

/-- PRIO of a job. -/
def jobPrio (s : State) (j : Job) : Nat := (s.launchAt j.launch).prio

/-- The job of a queue whose turn it is: of the highest PRIO, a saved cluster of its launches before a new one (R302, R313). -/
def queueJob? (s : State) (q : Queue) : Option Job :=
  if !serves s q.ctx then none
  else
    let back := (sortBy (fun l : Launch => l.id) (s.launches.filter fun l => l.q == q.id)).flatMap (savedJobs s)
    (sortBy (fun j => 3 - jobPrio s j) (back ++ (freshJob? s q).toList)).head?

/-- The queues with a job, highest PRIO first, those of one PRIO in round robin after the one served last (R302). -/
def queueOrder (s : State) : List (Queue × Job) :=
  let js := s.queues.filterMap fun q => (queueJob? s q).map fun j => (q, j)
  (List.range 4).reverse.flatMap fun p =>
    let mine := js.filter fun e => jobPrio s e.2 == p
    sortBy (fun e : Queue × Job => (e.1.id + 8192 - (smGet 8191 s.lastQueue p + 1)) % 8192) mine

/-- The preferred core of a job: that of block 0 of its cluster, as it stood when its wait began; a migrating block prefers its target
(R312, R314). -/
def jobPref (s : State) (j : Job) : Nat :=
  let l := s.launchAt j.launch
  match j with
  | .fresh _ c => l.pref.getD (preferredCore s l (l.ext 1 * c))
  | .restore _ c _ => ((j.target? s).map (·.2)).getD (preferredCore s l (l.ext 1 * c))

/-- The 4 µs for which a job waits for its preferred place are over. -/
def jobWaited (s : State) (j : Job) : Bool :=
  match j with
  | .fresh l _ => (s.launchAt l).waited
  | .restore _ _ bs => (s.blockAt (bs.headD 0)).since + placeWait ≤ s.clk

/-- A job placed, if it can be now. -/
def tryJob (s : State) (j : Job) : Option State := placeJob s j (jobPref s j) (jobWaited s j)

/-- A queue's job has been placed: the next cluster follows, and after the last the next record (R301, R302). -/
def afterPlace (s : State) (q : Queue) (j : Job) : State :=
  let s := { s with lastQueue := smSet s.lastQueue (jobPrio s j) q.id }
  match j with
  | .restore _ _ _ => s
  | .fresh id _ =>
    let s := s.modLaunch id fun l =>
      { l with
        next := l.next + 1
        waitSince := none
        waited := false
        pref := none }
    if (myClusters s (s.launchAt id)).length ≤ (s.launchAt id).next then
      pumpQueue (s.modQueue q.id fun q => { q with cur := none }) q.id
    else s

/-- The wait of a job that has no place begins (R311). -/
def beginWaitFor (s : State) (j : Job) : State :=
  match j with
  | .restore _ _ _ => s
  | .fresh id _ =>
    let p := jobPref s j
    s.modLaunch id fun l => if l.waitSince.isSome then l else { l with waitSince := some s.clk, pref := some p }

/-- The first job that can be placed; those before it that cannot begin their waits (R302). -/
def dispatch : List (Queue × Job) → State → State
  | [], s => s
  | e :: r, s =>
    match tryJob s e.2 with
    | some t => afterPlace t e.1 e.2
    | none => dispatch r (beginWaitFor s e.2)

/-- The dispatcher has something to do: a job that can be placed, or one whose wait has not begun. -/
def dispatchReady (s : State) : Bool :=
  (queueOrder s).any fun e =>
    (tryJob s e.2).isSome || (match e.2 with | .fresh id _ => (s.launchAt id).waitSince.isNone | .restore _ _ _ => false)

/-- DISPATCH_PLACE_BLOCK: one block, or the blocks of one cluster, are placed (R302, R312). -/
def execDispatchPlaceBlock (s : State) : Host.Outcome State Fault Refusal := .next (dispatch (queueOrder s) s).useFree

/-- BLOCK_RESTORE: the saved blocks of a block's cluster are restored, if theirs is the first job that can be placed (R302, R311, R331). -/
def execBlockRestore (blk : Nat) (s : State) : Host.Outcome State Fault Refusal :=
  let mine (j : Job) : Bool := match j with | .restore _ _ bs => bs.contains blk | .fresh _ _ => false
  .next (match (queueOrder s).find? fun e => (tryJob s e.2).isSome with
    | none => s
    | some e => if mine e.2 then (match tryJob s e.2 with | some t => afterPlace t e.1 e.2 | none => s).useFree else s)

/-! ### Pre-emption (R313, R315, R330) -/

/-- Units of 64 KiB that a block's record takes in the save area (PRESUMED, log 34). -/
def unitsOf (ws : List Warp) (scrLen : Nat) (holds : Bool) : Nat :=
  ceilDiv (sumN (ws.map fun w => w.nreg * 128 + 16384) + scrLen + (if holds then 0x80000 else 0)) 65536

/-- Units that a block would take if it were saved. -/
def saveUnits (s : State) (b : Block) : Nat :=
  unitsOf (s.warps.filter fun w => w.blk == b.id) b.scrLen ((s.coreAt b.core).mat.holder == some b.id)

/-- Units of the save area of a context that records take. -/
def usedUnits (s : State) (x : Nat) : List Nat := (s.saved.filter fun v => (s.blockAt v.blk).ctx == x).flatMap (·.units)

/-- The save area of a context has room for more blocks, beside those that are being saved. -/
def saveRoom (s : State) (x : Nat) (bs : List Block) : Bool :=
  let coming := s.blocks.filter fun b => b.ctx == x && !b.saved && b.saving.isSome && !bs.any fun c => c.id == b.id
  (usedUnits s x).length + sumN ((coming ++ bs).map (saveUnits s)) ≤ recF (s.ctxAt x).hdr 422 407

/-- The clusters with blocks on a core that a job of a PRIO may pre-empt, lowest PRIO first (R313) (DESIGN CHOICE, log 79). -/
def victims (s : State) (core prio : Nat) : List (Nat × Nat) :=
  let bs := s.blocks.filter fun b =>
    b.core == core && !b.saved && !b.retired && b.saving != some false && (s.launchAt b.launch).prio < prio &&
      saveRoom s b.ctx (clusterAll s b.launch b.cluster)
  distinct ((sortBy (fun b : Block => (s.launchAt b.launch).prio) bs).map fun b => (b.launch, b.cluster))

/-- The state as it will stand when a cluster has been saved, for judging room. -/
def withoutCluster (s : State) (v : Nat × Nat) : State :=
  let ids := (clusterAll s v.1 v.2).map (·.id)
  { s with
    warps := s.warps.filter fun w => !ids.contains w.blk
    blocks := mapIf (fun b => ids.contains b.id) (fun b => { b with saved := true }) s.blocks }

/-- The victims that a job needs on a core: clusters in order until it fits. -/
def takeVictims (s : State) (j : Job) : List (Nat × Nat) → List (Nat × Nat)
  | [] => []
  | v :: r =>
    let t := withoutCluster s v
    if (placeJob t j (jobPref s j) true).isSome then [v] else v :: takeVictims t j r

/-- A cluster's blocks stop for save; `migrate` names the blocks that migrate and their targets, and without it the blocks are pre-empted,
also when they were migrating (R313 to R315). -/
def stopForSave (s : State) (v : Nat × Nat) (migrate : Option (List (Nat × Nat))) : State :=
  let stop (b : Block) : Block :=
    { b with
      saving := if b.retired || b.saved then b.saving else some migrate.isSome
      target := migrate.bind fun m => smFind m b.id }
  { s with blocks := mapIf (fun b => b.launch == v.1 && b.cluster == v.2) stop s.blocks }

/-- A save for a job of a launch's PRIO is under way. -/
def savingNow (s : State) : Bool := s.blocks.any fun b => b.saving == some false && !b.saved && !b.retired

/-- A job has waited 4 µs without a place, none can take it, and blocks of a lower PRIO can give way (R313). -/
def preemptReady (s : State) (j : Job) : Bool :=
  let since := match j with
    | .fresh l _ => ((s.launchAt l).waitSince).getD s.clk
    | .restore _ _ bs => (s.blockAt (bs.headD 0)).since
  since + placeWait ≤ s.clk && (placeJob s j (jobPref s j) true).isNone && !savingNow s &&
    (coreOrder (jobPref s j)).any fun c => !(victims s c (jobPrio s j)).isEmpty

/-- Pre-emption for a job (R313). -/
def preempt (s : State) (j : Job) : State :=
  match (coreOrder (jobPref s j)).find? fun c => !(victims s c (jobPrio s j)).isEmpty with
  | none => s
  | some c => (takeVictims s j (victims s c (jobPrio s j))).foldl (fun s v => stopForSave s v none) s

/-- The jobs of a launch: those of its queue that it made. -/
def jobsOf (s : State) (launch : Nat) : List Job := ((queueOrder s).map (·.2)).filter fun j => j.launch == launch

/-- The wait of a launch's job is over, or pre-emption may begin for it. -/
def expiryReady (s : State) (launch : Nat) : Bool :=
  (jobsOf s launch).any fun j =>
    (match j with
     | .fresh l _ => !(s.launchAt l).waited && (match (s.launchAt l).waitSince with | some t => t + placeWait ≤ s.clk | none => false)
     | .restore _ _ _ => false) || preemptReady s j

/-- PLACEMENT_WAIT_EXPIRY: after 4 µs other places are tried, and lower PRIO blocks give way (R311, R313). -/
def execPlacementWaitExpiry (launch : Nat) (s : State) : Host.Outcome State Fault Refusal :=
  .next ((jobsOf s launch).foldl (fun s j =>
    let s := match j with
      | .fresh l _ => s.modLaunch l fun l =>
          match l.waitSince with
          | some t => if t + placeWait ≤ s.clk then { l with waited := true } else l
          | none => l
      | .restore _ _ _ => s
    if preemptReady s j then preempt s j else s) s).useFree

/-! ### Save (R313, R330, R331) -/

/-- A block stands still and everything that its save waits for has come, but for the range scoreboard (R263, R298, R313, R330). -/
def blockStill (s : State) (b : Block) : Bool :=
  let ws := s.warps.filter fun w => w.blk == b.id
  let mine (k : WarpKey) : Bool := ws.any fun w => w.key == k
  b.saving.isSome && !b.saved &&
  ws.all (fun w => w.trapReq.isNone && w.icinv.isEmpty && w.paths.all (readyForSave s w) && w.lanes.all fun l => !l.isLent) &&
  s.accesses.all (fun a => !mine a.w || (a.kind == .mwait && (a.st == .parked || (a.st == .performed && heldForHandler s a)))) &&
  s.maths.all (fun m => !mine m.w) &&
  s.ops.all (fun o => o.blk != b.id || o.over || !isMatrix o.kind || o.state == .armed ||
    ((s.coreAt b.core).mat.holder != some b.id || !reached s o))

/-- No entry of the range scoreboard is over the scratch of a block (R154). -/
def scratchStill (s : State) (b : Block) : Bool :=
  (s.coreAt b.core).ranges.all fun e => !overlap e.lo (e.hi - e.lo) b.scr b.scrLen

/-- A cluster whose blocks are to be saved may be: all of them stand still, so that none changes the scratch of another that has been saved,
and the entries over the scratch of those that have retired have gone too (R140, R154, R313, R315). -/
def saveReady (s : State) (b : Block) : Bool :=
  !b.retired && !b.saved && b.saving.isSome && (clusterBlocks s b.launch b.cluster).all (blockStill s) &&
    (clusterAll s b.launch b.cluster).all (scratchStill s)

/-- A warp as it is saved: fixed-latency results written, stack caches spilled, holds ended (R26, R85, R160, R331). -/
def savedWarp (w : Warp) : Warp :=
  ({ w with paths := w.paths.map fun p => { p with hold := none } } : Warp).eachLane fun l =>
    { l.commitAll with
      cached := 0
      spilled := l.stk.length
      hspilled := l.hstk.length
      edges := [] }

/-- The lowest units of a context's save area that no record takes. -/
def freeUnits (s : State) (x n : Nat) : List Nat :=
  ((List.range (recF (s.ctxAt x).hdr 422 407)).filter fun u => !(usedUnits s x).contains u).take n

/-- A unit of a save record is written: its layout is not given, so its bytes are unspecified from then on (R331) (DEDUCED, log 101). -/
def writeUnit (x : Nat) (s : State) (u : Nat) : State :=
  let s := touchUnit x .wr s u
  match translate s (s.ctxAt x) (recF (s.ctxAt x).hdr 463 423 * 65536 + u * 65536) .wr with
  | .error _ => s
  | .ok t =>
    if t.remote.isSome || portDown s t then s
    else
      { s with
        scrambled := s.scrambled ++ [(t.key, 65536)]
        releases := s.releases.filter fun r => !overlap r.key 4 t.key 65536
        cores := s.cores.map fun c => { c with l1 := c.l1.filter fun e => e.kind != .S || !overlap (e.line * 128) 128 t.key 65536 } }

/-- A block is saved: its warps, waits, scratch, matrix state, helper groups, release records and tentative-line entries leave its core,
and its record takes units of the save area (R331). -/
def saveBlock (s : State) (b : Block) : State :=
  let s := (s.warps.filter fun w => w.blk == b.id).foldl (fun s w => w.lanes.foldl (spillLane 0 w) s) s
  let ws := (s.warps.filter fun w => w.blk == b.id).map savedWarp
  let mine (k : WarpKey) : Bool := ws.any fun w => w.key == k
  let c := s.coreAt b.core
  let holds := c.mat.holder == some b.id
  let base := scratchKey b.core b.scr
  let inScr (k : Nat) : Bool := base ≤ k && k < base + b.scrLen
  let ts := threadsOf ws
  let own (t : TentWord) : Bool := t.core == some b.core && t.ownedIn ts
  let moving (e : TentEntry) : TentEntry := { e with marks := e.marks.filter ts.contains }
  let staying (e : TentEntry) : TentEntry := { e with marks := e.marks.filter fun m => !ts.contains m }
  let x : SavedBlock :=
    { blk := b.id
      warps := ws
      waits := s.accesses.filter fun a => mine a.w
      scratch := s.mem.filter fun v => inScr v.1
      mat := if holds then some { c.mat with waiting := [], queue := [] } else none
      tent := (c.tent.map moving).filter fun e =>
        !e.marks.isEmpty || s.tentWords.any fun t => lineOf t.key == e.line && own t
      groups := s.groups.filter fun g => mine g.w
      rels := s.releases.filter fun r => inScr r.key
      units := freeUnits s b.ctx (unitsOf ws b.scrLen holds) }
  let s := { s with
    warps := s.warps.filter fun w => w.blk != b.id
    accesses := s.accesses.filter fun a => !mine a.w
    groups := s.groups.filter fun g => !mine g.w
    releases := s.releases.filter fun r => !inScr r.key
    tentWords := mapIf own (fun t => { t with core := some (savedPlace b.id) }) s.tentWords
    saved := s.saved ++ [x] }
  let s := s.modCore b.core fun c =>
    { c with
      mat := { c.mat with
        holder := if holds then none else c.mat.holder
        queue := if holds then [] else c.mat.queue
        waiting := c.mat.waiting.filter fun i => match s.opBorn? i with | some o => o.blk != b.id | none => true }
      tent := (c.tent.map staying).filter fun e =>
        !e.marks.isEmpty || s.tentWords.any fun t => lineOf t.key == e.line && t.core == some b.core }
  let s := s.modCtx b.ctx fun c =>
    { c with
      wdSeen := c.wdSeen || !ws.isEmpty
      wdActive := c.wdActive || x.waits.any fun a => !isAperture a.va.toNat }
  x.units.foldl (writeUnit b.ctx) (s.modBlock b.id fun b =>
    { b with
      saved := true
      saving := none
      since := s.clk
      warps := [] })

/-- CONTEXT_SAVE_COMPLETE: the blocks of a cluster are saved, and with them the scratch of those that have retired (R140, R331). -/
def execContextSaveComplete (blk : Nat) (s : State) : Host.Outcome State Fault Refusal :=
  let b := s.blockAt blk
  .next (if saveReady s b then ((clusterAll s b.launch b.cluster).filter fun c => !c.saved).foldl saveBlock s else s)

/-! ### Thermal migration (R314, R315) -/

/-- A reading asks for migration (R314). -/
def coneHot (s : State) (r : ConeReading) : Bool := 95 < r.temp || s.droopMax < r.droops
/-- A reading of a core that may be a target. -/
def coneCool (s : State) (r : ConeReading) : Bool := r.temp < 85 && r.droops < s.droopMax

/-- 2 ms in clk. -/
def migrateAge : Nat := clkOfNs 2000000

/-- The cluster may migrate: no PIN, no warp in trap mode or halted, room in the save area, nothing of it being saved (R314, R345). -/
def mayMigrate (s : State) (v : Nat × Nat) : Bool :=
  let bs := clusterBlocks s v.1 v.2
  !(s.launchAt v.1).pin && bs.all (fun b => !b.saved && b.saving.isNone) &&
    bs.all (fun b => saveRoom s b.ctx (clusterAll s v.1 v.2) && !(s.warps.any fun w => w.blk == b.id && (holdsTrap w || w.halt || w.haltReq.isSome)))

/-- Scratch ranges and slots of some blocks found one after another, each on the first of its cores that fits beside those before it: the
core of each. `s` holds the places taken so far as blocks and warps. -/
def fitBlocks (nreg warps : Nat) : List (Block × List Nat) → State → Option (List (Nat × Nat))
  | [], _ => some []
  | (b, cores) :: r, s =>
    match cores.findSome? fun c =>
      match planWarps s c nreg warps, scratchAt? s c b.scrLen with
      | some ks, some off => some (c, ks, off)
      | _, _ => none with
    | none => none
    | some (c, ks, off) =>
      (fitBlocks nreg warps r
        { s with
          warps := s.warps ++ ks.map fun k => { blankWarp k with nreg := nreg, blk := b.id }
          blocks := mapIf (fun x => x.id == b.id) (fun x => { x with core := c, scr := off, saved := false }) s.blocks }).map
        fun l => (b.id, c) :: l

/-- A block has been resident for 2 ms, and its core's reading asks for migration (R314). -/
def asksMigration (s : State) (rs : List ConeReading) (b : Block) : Bool :=
  !b.saved && !b.retired && b.since + migrateAge ≤ s.clk && rs.any fun r => r.core == b.core && coneHot s r

/-- The blocks of a cluster that migrate with their targets: for a block the first other core, in order from its own, that is cool and can
take it, any other block of its cluster that asks for it on such a core too, and the rest of the cluster fitting with them in that core's
hardware cluster (R314) (DEDUCED, log 44). -/
def targetsOf (s : State) (rs : List ConeReading) (b : Block) : Option (List (Nat × Nat)) :=
  let cool (c : Nat) : Bool := rs.any fun r => r.core == c && coneCool s r
  let l := s.launchAt b.launch
  let t := withoutCluster s (b.launch, b.cluster)
  let others := (clusterAll s b.launch b.cluster).filter fun c => c.id != b.id
  let hot := others.filter (asksMigration s rs)
  let takes (x : Block) (core : Nat) : Bool :=
    core != x.core && cool core &&
    ((s.coreAt x.core).mat.holder != some x.id || (s.coreAt core).mat.holder.isNone) &&
    (s.coreAt core).tent.length + (ownedLines s (threadsOf (s.warps.filter fun w => w.blk == x.id))).length ≤ Config.tentLines
  let beside (core : Nat) (x : Block) : Block × List Nat :=
    (x, (coreOrder x.core).filter fun c => hwCluster c == hwCluster core && takes x c)
  let rest (core : Nat) (x : Block) : Block × List Nat := (x, (List.range 16).map fun i => hwCluster core * 16 + i)
  ((coreOrder b.core).filter (takes b)).findSome? fun core =>
    (fitBlocks l.nreg l.warpsPer
      ((b, [core]) :: hot.map (beside core) ++ (others.filter fun x => !asksMigration s rs x).map (rest core)) t).map fun ps =>
        ps.filter fun p => p.1 == b.id || hot.any fun x => x.id == p.1

/-- One cone's reading: its blocks that have been resident for 2 ms migrate, or the core is throttled (R314) (DEDUCED, log 44). -/
def readCone (rs : List ConeReading) (s : State) (r : ConeReading) : State :=
  if !coneHot s r then s.modCore r.core fun c => { c with throttled := false }
  else
    let s := addLog s 4095 1 (r.core + r.temp % 256 * 256)
    (s.blocks.filter fun b => b.core == r.core && asksMigration s rs b).foldl (fun s b =>
      if (s.blockAt b.id).saving.isSome then s
      else match (if mayMigrate s (b.launch, b.cluster) then targetsOf s rs b else none) with
        | some ts => stopForSave s (b.launch, b.cluster) (some ts)
        | none => s.modCore r.core fun c => { c with throttled := true }) s

/-- KILN_CONE_READ (R314). -/
def execKilnConeRead (rs : List ConeReading) (s : State) : Host.Outcome State Fault Refusal := .next (rs.foldl (readCone rs) s)

/-! ### LAUNCH (R431, R432) -/

/-- The queue number that a LAUNCH names is one that its context may use. -/
def queueUsable (s : State) (o : EngOp) : Bool :=
  let q := s.queueAt o.gb.toNat
  o.gb.toNat < 8192 && q.ctx == o.ctx && q.enable && !q.stopped

/-- Scratch that the record of a LAUNCH lies in (R151). -/
def launchRanges (_ : State) (o : EngOp) : List (Bool × List Nat) :=
  twoGroups (if o.ga.toNat % 64 == 0 && isAperture o.ga.toNat then vaRange o.ga.toNat 64 else [], [])

/-- A record that a LAUNCH appended goes to every other rank of the span (R307, R366). -/
def forwardRecord (s : State) (x : Nat) : State :=
  let c := s.ctxAt x
  if c.span ≤ 1 then s
  else ((List.range c.span).filter fun r => r != c.rank).foldl (fun s r => sendOwn s x r 0 64 7) s

/-- A step of a LAUNCH: it reads its record, then appends it once the ring has room; its future waits for the launch. -/
def stepLaunch (s : State) (o : EngOp) : State :=
  if o.prog == 0 then
    if o.ga.toNat % 64 != 0 || !queueUsable s o then faultOp s o sBadarg
    else farGate s o [(false, 1, vaRange o.ga.toNat 64)] <| match engRead s o o.ga.toNat 64 with
      | .error e => faultOp s o e
      | .ok r =>
        ((dropReads (engObserve s o (vaRange o.ga.toNat 64)) o.ref).modOp o.core o.slot fun q =>
          { q with descs := [BitVec.ofNat 512 r], prog := 1 }).useFree
  else if o.prog == 1 && ringRoom (s.queueAt o.gb.toNat) then
    appendRecord (forwardRecord (s.modOp o.core o.slot fun q => { q with prog := 2 }) o.ctx) o.gb.toNat (o.descs.getD 0 0) (some o.ref) none
  else s

/-- LAUNCH (R431). -/
def execLaunch (h : Hdr) (d a b : Code) (s : State) : Host.Outcome State Fault Refusal :=
  .next (laneEngine (.launch h d a b) h (fun s _ l => laneCmd .launch l d (rd64 s l a) (rdw s l b) 0 0 [] 8) launchRanges s)

/-- The context that a port's tenant table names for a key id (R358, R365). -/
def tenantCtx (s : State) (port : Nat) (key : BitVec 8) : Option Nat :=
  let t := smGet 0#32 s.tenants (port * 256 + key.toNat)
  if t.getLsbD 6 then some (t.toNat % 64) else none

/-- The code with which a record is rejected whose queue is not mapped to the context that the port names: the lowest that holds (R518). -/
def forwardCode (s : State) (x : Nat) (record : BitVec 512) : Nat :=
  (rejectCode s { blankLaunch with ctx := x, record := record }).getD 9

/-- LAUNCH_FORWARD: a record that a LAUNCH of another device of the span made arrives at a port and is appended here, or rejected when its
queue is not mapped to the context that the port names; a context that has stopped has ended its part (R307, R518). -/
def execLaunchForward (q : Nat) (key : PortKey) (record : BitVec 512) (origin : Nat) (s : State) : Host.Outcome State Fault Refusal :=
  .next (
    let x := s.queueAt q
    let y := tenantCtx s key.port key.key
    if 8192 ≤ q then s
    else if y != some x.ctx || !x.enable then
      sendDone (stopQueue s q (forwardCode s (y.getD x.ctx) record) none) (y.getD x.ctx) (some origin)
    else if (s.ctxAt x.ctx).stopped then sendDone s x.ctx (some origin)
    else pumpQueue (s.modQueue q fun x => { x with forwards := x.forwards ++ [(record, origin)] }) q)

/-- RANK_DONE_MESSAGE (R307). -/
def execRankDoneMessage (launch rank : Nat) (ok : Bool) (s : State) : Host.Outcome State Fault Refusal :=
  .next (launchAnswer s launch rank ok)

end Sys2Proof.Machine
end

