-- ==== Sys2Proof/Machine/EngineEvents.lean ====
section
/-!
DEFINITION. What happens to an engine command after its word: the fork (R175), its steps, its completion or its stop (R35, R153, R214),
the retirement of range-scoreboard entries (R153), and the performing of one access at its home (R164).
-/

namespace Sys2Proof.Machine

/-! ### The fork (R175, R411) -/

/-- A command may leave its fork; an FWAIT has none. The set commands of an instruction reach the Crock in lane order (R469). The waits on
words of a saved block stand with it. -/
def forkReady (s : State) (o : EngOp) : Bool :=
  o.state == .held && (!isSet o.kind || s.ops.all fun q => !(sameWord q o && q.born < o.born && q.state == .held)) &&
    (o.kind == .fwait || (s.accesses ++ s.saved.flatMap (·.waits)).all fun a => !forkWaits s o a)

/-- A command reaches its engine. -/
def releaseFork (s : State) (o : EngOp) : State :=
  if o.kind == .fwait then beginWait s o
  else if isMatrix o.kind then s.modOp o.core o.slot fun q => { q with state := .queued }
  else if isSet o.kind then startSet s o
  else s.modOp o.core o.slot fun q => { q with state := if entriesHeld s o then .running else .entries }

/-- ENGINE_FORK_RELEASE. -/
def execEngineForkRelease (core slot : Nat) (s : State) : Host.Outcome State Fault Refusal :=
  .next (match s.opAt? core slot with
    | some o => if forkReady s o then (releaseFork s o).useFree else s
    | none => s)

/-! ### Steps and completion (R35, R214) -/

/-- A request to stop can still have an effect that R214 gives. -/
def cancellable (o : EngOp) : Bool :=
  match o.kind with
  | .tqry => o.sectorsDone.isEmpty
  | .senum => o.sectorsDone.isEmpty
  | .tqfree => o.prog == 0
  | .tqload => o.prog < 2
  | .launch => o.prog < 2
  | _ => true

/-- A command stops: a set command lets its entry reads go, a query its table (R214, R237, R271). -/
def cancelOp (s : State) (o : EngOp) : State :=
  let s := if isSet o.kind then releaseReads s o else s
  let s := if o.kind == .tqry then leaveTable s o else s
  stopOp s o

/-- The next thing that an executing command does. -/
def advanceOp (s : State) (o : EngOp) : State :=
  if isMatrix o.kind then (if o.state == .queued || o.state == .running then stepMatrix s o else s)
  else if o.state != .running then s
  else match o.kind with
    | .cpy => stepCopy s o
    | .cpyg => stepCopy s o
    | .cpyt => stepCopy s o
    | .tqload => stepTqload s o
    | .tqry => stepTqry s o
    | .tqfree => stepTqfree s o
    | .ired => stepIred s o
    | .launch => stepLaunch s o
    | .fwait => s
    | _ => stepSet s o

/-- A command that has ended has its result written; its context has had it in flight (R35, R316). While its block is saved, the result waits
in its slot, where FWAITs find it (R37, R213). -/
def landIfOver (s : State) (r : FutRef) : State :=
  match s.opOf? r with
  | none => s
  | some o =>
    if !o.ended s || o.resolved then s
    else if opHeld s o then wakeWaiters s o
    else (landOp s o).modCtx o.ctx fun c => { c with wdActive := true }

/-- One step of a command: its stop when one was asked for and it does not complete first, which is unspecified; else what it does
next (DEDUCED, log 22). -/
def moveOp (s : State) (o : EngOp) : State :=
  if o.over then landIfOver s o.ref
  else
    let t := if o.cancelReq && cancellable o && Config.freeBit s.free o.born then cancelOp s o else advanceOp s o
    let ends := match t.opOf? o.ref with | some q => q.over | none => true
    landIfOver (if ends then t.modCtx o.ctx fun c => { c with wdActive := true } else t) o.ref

/-- A step of the command has something to do. -/
def opReady (s : State) (o : EngOp) : Bool := moveOp s o != s

/-- ENGINE_OP_COMPLETE: the command of a slot goes on, and once it is over its result or its fault is written. -/
def execEngineOpComplete (core slot : Nat) (s : State) : Host.Outcome State Fault Refusal :=
  .next (match s.opAt? core slot with
    | some o => if opReady s o then (moveOp s o).useFree else s
    | none => s)

/-! ### Range-scoreboard entries (R153) -/

/-- An entry may retire: its command is over, or a copy has written every sector. -/
def entryDone (s : State) (e : RangeEntry) : Bool :=
  match s.opOf? e.op with
  | none => true
  | some o =>
    o.over || ([EngKind.cpy, .cpyg, .cpyt].contains o.kind && o.prog == 2 && o.state == .running &&
      (copySectors o).all fun sec => o.sectorsDone.contains sec)

/-- RANGE_ENTRY_RETIRE: an entry of a core retires, and commands that wait for room take theirs. -/
def execRangeEntryRetire (core entry : Nat) (s : State) : Host.Outcome State Fault Refusal :=
  .next (if (s.coreAt core).ranges.any fun e => e.id == entry && entryDone s e then
    grantAll (s.modCore core fun c => { c with ranges := c.ranges.filter fun e => e.id != entry })
  else s)

/-! ### HOME_ACCESS (R164) -/

/-- The bytes that a running command writes through sectors of its own. -/
def resultBytes (s : State) (o : EngOp) : List (Nat × Nat) :=
  match o.kind with
  | .mread => mreadBytes s o
  | .senum => if o.prog < 2 then [] else enumBytes o
  | .tqry => if o.prog == 3 then queryBytes s o else []
  | .ired => if o.prog == 3 + (iRows o).length then iredBytes o else []
  | _ => []

/-- The destination sectors that a running command has still to write and may write now: those of CPYG in list order (R174), and an MREAD
into the memory of another device once that has taken its request (R329). -/
def openSectors (s : State) (o : EngOp) : List Nat :=
  if o.state != .running || (o.kind == .mread && !farDone s o true 1 (mreadVas o)) then []
  else
    let left := (if [EngKind.cpy, .cpyg, .cpyt].contains o.kind then (if o.prog == 2 then copySectors o else [])
      else distinct ((resultBytes s o).map fun b => b.1 / 32)).filter fun sec => !o.sectorsDone.contains sec
    if o.kind == .cpyg then left.take 1 else left

/-- A command that a failed check has ended lets its entry reads or its table go. -/
def afterSector (s : State) (o : EngOp) : State :=
  match s.opOf? o.ref with
  | none => s
  | some q =>
    if !q.over then s
    else if o.kind == .senum then releaseReads s o
    else if o.kind == .tqry then leaveTable s o
    else s

/-- One destination sector of a command is written (R153, R174, R354). -/
def writeSector (s : State) (o : EngOp) (sec : Nat) : State :=
  match o.kind with
  | .cpy => copySector s o sec
  | .cpyg => copySector s o sec
  | .cpyt => copySector s o sec
  | .ired => iredSector s o sec
  | _ => afterSector (resultSector s o (resultBytes s o) sec) o

/-- HOME_ACCESS: an access of a thread, or a destination sector of a command, is performed. -/
def execHomeAccess (r : HomeReq) (s : State) : Host.Outcome State Fault Refusal :=
  .next (match r with
    | .thread id =>
      match s.accesses.find? fun a => a.id == id with
      | some a => if canPerform s a then performAccess s a else s
      | none => s
    | .sector core slot sec =>
      match s.opAt? core slot with
      | some o => if (openSectors s o).contains sec then metPorts o (vaRange (32 * sec) 32) (writeSector s o sec) else s
      | none => s)

end Sys2Proof.Machine
end

