-- ==== Sys2Proof/Machine/Issue.lean ====
section
/-!
DEFINITION. One clk of a partition: picking a warp, starting runs with their checks, the words that are due, ageing and the profile
counters; and the fetch of a run (R17 to R24, R74 to R85, R105, R106, R327, R350, R418).
-/

namespace Sys2Proof.Machine

/-! ### Before the picks of a clk -/

/-- A FENCE of a path that has drained goes on to its write-backs, and one whose write-backs have reached DRAM ends; a run whose last
word was the FENCE then ends (R180, R181). -/
def fenceStep (k : WarpKey) (s : State) (l : Nat) : State :=
  match (s.warpAt k).pathOf? l with
  | none => s
  | some p =>
    match p.inRun with
    | none => s
    | some r =>
      match r.fence with
      | none => s
      | some f =>
        let t := if f.lines.isNone && fenceDrained s k f then fenceStage s k f else (s, f)
        if fenceDone t.1 t.2 then
          t.1.modPath k l fun p =>
            let r := { r with fence := none }
            if r.idx < r.words.length then { p with inRun := some r } else { endRun t.1.clk p r with lastIssue := p.lastIssue }
        else t.1.modPath k l fun p => { p with inRun := some { r with fence := some t.2 } }

/-- What has come due in a warp at a clk: landed results, halts, holds that bind no longer, and the ends of the runs behind which
recruiters wait (R26, R83, R335, R341). -/
def sweepWarp (s : State) (w : Warp) : Warp :=
  let w := settleHalt s (w.eachLane (Lane.commit s.clk))
  { w with
    paths := w.paths.map fun p =>
      { p with
        hold := if held s w p then p.hold else none
        stepping := p.stepping && !(p.atBoundary && parked s w p)
        behind := p.behind.filter fun d => w.paths.any fun q =>
          (match q.inRun with | some r => r.dp == d | none => false) || (match q.ending with | some e => e.dp == d | none => false)
        yieldAt := match p.yieldAt with | some t => if t + 16 ≤ s.clk then none else some t | none => none } }

/-- The warps of a partition. -/
def warpsIn (s : State) (core part : Nat) : List Warp := s.warps.filter fun w => w.key.core == core && w.key.part == part

/-- ICINVs of a warp outside any run end whose lanes' stores are performed act (R107). -/
def settleIcinv (s : State) (w : Warp) : State :=
  let done := w.icinv.filter (storesDone s w.key)
  if done.isEmpty then s
  else applyIcinv (s.modWarp w.key fun w => { w with icinv := w.icinv.filter fun m => !done.contains m }) w.ctx

/-- Everything that comes due in a partition before its picks. -/
def sweepPart (s : State) (core part : Nat) : State :=
  let s := { s with warps := mapIf (fun w => w.key.core == core && w.key.part == part) (sweepWarp s) s.warps }
  let s := (warpsIn s core part).foldl (fun s w =>
    (w.paths.filter fun p => p.inRun.isSome).foldl (fun s p => fenceStep w.key s (lowLane p.mask)) s) s
  let s := (warpsIn s core part).foldl settleIcinv s
  let s := (warpsIn s core part).foldl spillWarp s
  (warpsIn s core part).foldl (fun s w => settleRetire s w.key) s

/-! ### Starting a run (R80, R327, R418) -/

/-- A raise at a run's first word: no word has issued in this start, and every lane stands where its path stood. -/
def raiseAtRun (s : State) (w : Warp) (p : Path) (cause : Nat) (tl : Mask) (faults : List LaneFault) : Raise where
  key := w.key
  ts := s.ts
  cause := cause
  sub := 0
  tpc := p.runPc
  epc := 0
  eseq := 0
  ecls := 0
  ereg := 0
  mask := p.mask
  tl := tl
  faults := faults
  resume := (lanesOf p.mask).map fun l => (l, p.pc, p.run)
  effs := []
  handler := p.handler

/-- A raise of the run's form: the lanes stand at the run's first word, outside it (R74, R324) (DEDUCED, log 49). -/
def raiseForm (s : State) (w : Warp) (p : Path) (cause : Nat) : Raise :=
  { raiseAtRun s w p cause p.mask [] with resume := (lanesOf p.mask).map fun l => (l, p.runPc, 0) }

/-- The index of a path's PC in the run that starts at a base, when it is one of its words. -/
def startIdx (base pc : W64) (n : Nat) : Option Nat :=
  let d := (pc - base).toNat
  if d % 8 == 0 && d / 8 < n then some (d / 8) else none

/-- The lanes of a path whose registers, or whose recruiter's, carry the lowest faulted register that a run names (R327) (DEDUCED, log
50). -/
def faultedReg (s : State) (w : Warp) (p : Path) (ws : List W64) : Option (Nat × List (Nat × FaultInfo)) :=
  let rs := runRegs ws
  let ls := (w.lanesIn p.mask).flatMap fun l => ((gLane s l).faults.filter fun f => rs.contains f.1).map fun f => (f.1, l.id, f.2)
  match sortBy (fun f : Nat × Nat × FaultInfo => f.1) ls with
  | [] => none
  | f :: _ => some (f.1, ((ls.filter fun g => g.1 == f.1).map fun g => g.2))

/-- ENGINE at observation (R327): the frame names the command that the lowest such lane's register reports. -/
def raiseEngine (s : State) (w : Warp) (p : Path) (reg : Nat) (fs : List (Nat × FaultInfo)) : State :=
  let i := (fs.head?.map (·.2)).getD ⟨0, 0, 0, 0⟩
  let lf := fs.map fun f => (⟨f.1, cEngine, f.2.sub, 0, 6⟩ : LaneFault)
  raiseWord s { raiseAtRun s w p cEngine (maskOf (fs.map (·.1))) lf with
    sub := i.sub
    epc := i.epc
    eseq := i.seq
    ecls := i.cls
    ereg := reg }

/-- A temporary that is in flight when a run starts is unspecified in it (R73). -/
def freeTemps (free : Nat) (l : Lane) : Lane :=
  { l with
    inflight := l.inflight.map fun f =>
      if 0x80 ≤ f.code && f.code < 0x88 then { f with val := Config.freeWord free (f.code + 256 * l.id + 65536) } else f }

/-- A path enters its run on a datapath (R18, R20, R73). -/
def enterRun (s : State) (w : Warp) (p : Path) (dp idx : Nat) (ws : List W64) (t : W64) : State :=
  let r : InRun :=
    { base := p.runPc
      first := s.nextId
      fence := none
      words := ws
      trailer := t
      idx := idx
      dp := dp
      slots := runSlots (ws.drop idx) (popMask p.mask)
      effs := []
      transfer := .fall }
  s.modWarp w.key fun w =>
    (w.modPath (lowLane p.mask) fun p => { p with age := 0, hold := none, yieldAt := none, inRun := some r }).mapLanes p.mask fun l =>
      { freeTemps s.free l with
        tset := if p.run == 0 then 0 else l.tset
        waits := if l.isLent then l.waits else [] }

/-- What stands against the fetch of a buffered run at a start: the first of its words whose page no longer lets it be fetched (R80, R105)
(DESIGN CHOICE, log 115). -/
def fetchFault (s : State) (x : Nat) (b : RunBuf) : Option (Nat × W64) :=
  match b.fault with
  | some f => some f
  | none =>
    (List.range b.words.length).findSome? fun i =>
      let va := b.pc.toNat + 8 * i
      if isAperture va then some (cRange, BitVec.ofNat 64 va)
      else match translate s (s.ctxAt x) va .fetch with
        | .error c => some (c, BitVec.ofNat 64 va)
        | .ok _ => none

/-- The run's checks in the order of R80, then R327; a run that passes is entered. -/
def checkRun (s : State) (w : Warp) (p : Path) (dp : Nat) (b : RunBuf) : State :=
  match fetchFault s w.ctx b with
  | some (cause, va) =>
    (raiseLanes s (raiseAtRun s w p cause p.mask ((lanesOf p.mask).map fun l => ⟨l, cause, 0, va.toNat, 0⟩))).1
  | none =>
    let t := b.words.getLast?.getD 0
    let ws := b.words.dropLast
    if !runShape ws t || 256 < runSlots ws (popMask p.mask) then raiseWord s (raiseForm s w p cIllrun)
    else match startIdx p.runPc p.pc ws.length with
      | none => raiseWord s (raiseForm s w p cIllrun)
      | some idx =>
        if !trailerClean t then raiseWord s (raiseForm s w p cIllop)
        else match faultedReg s w p (ws.drop idx) with
          | some (reg, fs) => raiseEngine s w p reg fs
          | none => enterRun s w p dp idx ws t

/-- The run buffer with a run at its most recent end (R105); a failed fetch does not stay. -/
def touchRun (b : RunBuf) (l : List RunBuf) : List RunBuf :=
  (l.filter fun x => x != b) ++ (if b.fault.isSome then [] else [b])

/-- A path starts a run on a datapath: the partition's records of it, then the checks (R22, R23, R316, R418, R514). -/
def startRun (s : State) (k : WarpKey) (p : Path) (dp : Nat) : State :=
  let w := s.warpAt k
  match runOf? s w p with
  | none => s
  | some b =>
    let s := s.modPart k.core k.part fun x =>
      { x with lastWarp := k.slot, runbuf := touchRun b x.runbuf }
    let s := s.modCtx w.ctx fun c => { c with wdActive := true }
    let s := { s with
      warps := s.warps.map fun (v : Warp) =>
        if v.key == k then
          { v with
            lastServed := if v.serial then lowLane p.mask else v.lastServed
            sage := 0
            restoring := false
            stepOne := false
            paths := if v.stepOne then mapIf (fun q => q.mask != p.mask) (fun q => { q with stepping := false }) v.paths else v.paths }
        else if v.key.core == k.core && v.key.part == k.part then
          { v with paths := v.paths.map fun (q : Path) => { q with yieldAt := none } }
        else v }
    let s := s.modWarp k fun w => w.modPath (lowLane p.mask) fun p => { p with age := 0, hold := none, yieldAt := none }
    let w := s.warpAt k
    let p := (w.pathOf? (lowLane p.mask)).getD p
    let js := joinsLanes w p
    if !js.isEmpty && (fetchFault s w.ctx b).isNone && !isJoinRun b.words.dropLast (b.words.getLast?.getD 0) then
      let s := js.foldl (fun s l => dropJoin s k l.id) s
      raiseWord s (raiseAtRun s w p cIllrun (maskOf (js.map (·.id))) [])
    else checkRun s w p dp b

/-- The datapath on which a path is in a run: its words issue there, or its last word stalls (R18). -/
def lockedOn (s : State) (w : Warp) (p : Path) : Option Nat :=
  match p.inRun, p.ending with
  | some r, _ => some r.dp
  | none, some e => if endStalled s w p e then some e.dp else none
  | none, none => none

/-- The warp for whose paths a partition may start runs: the locked one, else the picked one (R18, R22, R23). -/
def turnWarp (s : State) (core part : Nat) : Option WarpKey :=
  match (warpsIn s core part).find? fun w => w.paths.any fun p => (lockedOn s w p).isSome with
  | some w => some w.key
  | none => (pickWarp s core part).map (·.key)

/-- A datapath of a partition is in a run. -/
def dpBusy (s : State) (core part dp : Nat) : Bool :=
  (warpsIn s core part).any fun w => w.paths.any fun p => lockedOn s w p == some dp

/-- The path that a datapath starts for the warp whose turn it is, when the datapath is free: the best eligible one (R23, R28). -/
def pickPath (k : WarpKey) (s : State) (dp : Nat) : Option Path :=
  let w := s.warpAt k
  if dpBusy s k.core k.part dp || (w.serial && dp == 1) then none else bestPath (ageMax s w) (candidates s w)

/-- A datapath starts the path that it has picked; the paths that have started in this clk. -/
def startOn (k : WarpKey) (t : State × List Path) (dp : Nat) : State × List Path :=
  match pickPath k t.1 dp with
  | none => t
  | some p => (startRun t.1 k p dp, t.2 ++ [p])

/-! ### Ageing and profile (R20, R28, R350) -/

/-- A path that was eligible and has not started ages, whatever became of one that has (R20, R23); a serial warp has one age, which stands
while it is in a run (R20, R28). `started` are the paths of the warp that have started. -/
def ageWarp (s0 : State) (started : List Path) (w : Warp) : Warp :=
  let w0 := s0.warpAt w.key
  let was (p : Path) : Bool :=
    !started.any (fun q => q.mask &&& p.mask != 0) && w0.paths.any fun q => q.mask == p.mask && q.pc == p.pc && eligible s0 w0 q
  if w.serial then
    if !started.isEmpty || w0.paths.any (fun p => (lockedOn s0 w0 p).isSome) || !w0.paths.any (eligible s0 w0) then w else { w with sage := min 255 (w.sage + 1) }
  else { w with paths := mapIf (fun p => p.atBoundary && was p) (fun p => { p with age := min 255 (p.age + 1) }) w.paths }

/-- An in-run path stalls at a range-scoreboard entry (R18, R152). -/
def entryStall (s : State) (w : Warp) (p : Path) (r : InRun) : Bool :=
  s.accesses.any fun a => a.w == w.key && p.mask.getLsbD a.lane && r.first ≤ a.id && a.st == .pending && entryStalls s a

/-- The word that a path issues next. -/
def nextWord (r : InRun) : W64 := r.words.getD r.idx 0

/-- The next word pops a stack entry that is not in the stack cache (R160). -/
def fillWait (w : Warp) (p : Path) (r : InRun) : Bool :=
  (match decode (nextWord r) with
   | .ok (.leave _) => true
   | .ok (.ret _) => true
   | _ => false) && (w.lanesIn p.mask).any (needsFill p.handler)

/-- The reason for which a path does not start a run, by its code (R350) (DEDUCED, log 70). -/
def stallReason (s : State) (w : Warp) (p : Path) : Option Nat :=
  let b := runOf? s w p
  let rs : List (Nat × Bool) :=
    [(0, !waitsClear w p),
     (1, p.atBoundary && b.isNone),
     (2, match b with
         | some r => p.atBoundary && (!pendingClear w p r.words.dropLast || freeSlots s w.key.core < runSlots r.words.dropLast (popMask p.mask))
         | none => false),
     (3, (w.lanesIn p.mask).any fun l => !l.isLent && (l.atBarrier s.clk || l.syncing)),
     (4, (w.lanesIn p.mask).any fun l => inMwait s w p l.id),
     (5, match p.inRun with | some r => entryStall s w p r | none => false),
     (6, match p.inRun with | some r => fillWait w p r | none => false),
     (7, (match p.ending with | some e => (match e.transfer with | .hjoin _ _ _ _ => true | _ => false) | none => false) ||
         !(joinsLanes w p).all (groupEmpty s)),
     (8, w.halt || w.haltReq.isSome || w.trapReq.isSome)]
  (rs.find? (·.2)).map (·.1)

/-- A counter of a partition goes up (R350). -/
def countProf (n : Nat) (x : Partition) : Partition := { x with prof := smSet x.prof n (smGet 0 x.prof n + 1) }

/-- The profile counters of a clk, by the state `s0` before its starts (R350). -/
def countClk (s0 s : State) (core part : Nat) : State :=
  let ws := warpsIn s0 core part
  let n := (ws.filter fun w => w.paths.any (eligible s0 w)).length
  if n != 0 then s.modPart core part (countProf (0x120 + n))
  else match (sortBy (fun w : Warp => w.since * 16 + w.key.slot) ws).head? with
    | none => s
    | some w =>
      match (bestPath (ageMax s0 w) w.paths).bind (stallReason s0 w) with
      | none => s
      | some c => s.modPart core part (countProf (0x140 + c))

/-! ### The words that are due (R18, R81, R149, R437) -/

/-- DIST has elapsed since the path's last word. -/
def distOk (clk : Nat) (p : Path) (w : W64) : Bool := p.lastIssue == 0 || p.lastIssue + (fHdr w).dist.toNat + 1 ≤ clk

/-- The next word of a path in a run issues in this clk. -/
def wordDue (s : State) (w : Warp) (p : Path) (r : InRun) : Bool :=
  r.fence.isNone && r.idx < r.words.length && distOk s.clk p (nextWord r) && !fillWait w p r &&
  !runStalled s w.key p.mask r.first

/-- The words of a partition that issue in this clk, datapath 0 first. -/
def dueWords (s : State) (core part : Nat) : List (WarpKey × Nat) :=
  [0, 1].flatMap fun dp => (warpsIn s core part).flatMap fun w =>
    (w.paths.filter fun p => match p.inRun with | some r => r.dp == dp && wordDue s w p r | none => false).map fun p =>
      (w.key, lowLane p.mask)

/-! ### The clk (R23) -/

/-- One clk of a partition from its picks on. -/
def partitionClk (s : State) (core part : Nat) : State :=
  let s := s.modPart core part fun x => { x with served := some s.clk }
  let s := sweepPart s core part
  let s0 := s
  let turn := turnWarp s core part
  let t := match turn with
    | none => (s, [])
    | some k => startOn k (startOn k (s, []) 0) 1
  let s := { t.1 with
    warps := mapIf (fun w => w.key.core == core && w.key.part == part)
      (fun w => ageWarp s0 (if turn == some w.key then t.2 else []) w) t.1.warps }
  let s := countClk s0 s core part
  { s with issueQ := s.issueQ ++ dueWords s core part }

/-- The partitions that have a resident warp. -/
def residentParts (s : State) : List (Nat × Nat) := distinct (s.warps.map fun w => (w.key.core, w.key.part))

/-- The partition has had the current clk. -/
def servedNow (s : State) (core part : Nat) : Bool := (s.partAt core part).served == some s.clk

/-- PARTITION_ISSUE_CLK (R23): a partition has its turn once in a clk; when it has had it, the next clk begins once every other
partition with a resident warp has had its own. -/
def execPartitionIssueClk (core part : Nat) (s : State) : Host.Outcome State Fault Refusal :=
  .next (
    if !servedNow s core part then partitionClk s core part
    else if (residentParts s).any fun q => q != (core, part) && !servedNow s q.1 q.2 then s
    else partitionClk { s with clk := s.clk + 1, free := s.free + 1 } core part)

/-! ### Fetching a run (R74, R80, R105, R106) -/

/-- The words of a 128-byte line in memory; a line of another device's memory is unspecified (DESIGN CHOICE, log 56). -/
def lineWords (s : State) (x : Nat) (va : Nat) : Except Nat (List W64) :=
  if isAperture va then .error cRange
  else match translate s (s.ctxAt x) va .fetch with
    | .error c => .error c
    | .ok t =>
      if portDown s t then .error cRange
      else if t.remote.isSome then
        .ok ((List.range 16).map fun i => Config.freeWord s.free (va + 8 * i) ++ Config.freeWord s.free (va + 8 * i + 4))
      else .ok ((List.range 16).map fun i => BitVec.ofNat 64 (homeRead s (t.key + 8 * i) 8 t.tkey))

/-- A line as a fetch reads it: the cached words or, when the line is not cached or has left the cache, those of memory (R106). -/
def fetchLine (s : State) (core x : Nat) (va : Nat) : Except Nat (List W64) :=
  match (s.coreAt core).icache.find? fun e => e.ctx == x && e.va == BitVec.ofNat 64 va with
  | some e => if Config.freeBit s.free va then lineWords s x va else .ok e.words
  | none => lineWords s x va

/-- The lines that up to 25 words from a PC touch. -/
def runLines (pc : Nat) : List Nat := (List.range ((pc % 128 + 199) / 128 + 1)).map fun i => pc / 128 * 128 + 128 * i

/-- A run gathered from lines in order: the words up to the trailer, at most 25, or the cause of the line that failed before it; and
the lines read. -/
def gatherRun (s : State) (core x : Nat) (acc : List W64) (got : List (Nat × List W64)) (pc : Nat) : List Nat →
    List W64 × Option (Nat × W64) × List (Nat × List W64)
  | [] => (acc.take 25, none, got)
  | va :: r =>
    match fetchLine s core x va with
    | .error c => ([], some (c, BitVec.ofNat 64 (max va pc)), got)
    | .ok ws =>
      let new := if va < pc then ws.drop ((pc - va) / 8) else ws
      let all := acc ++ new
      let n := (all.takeWhile fun w => !isTrailer w).length
      if n < all.length then ((all.take (n + 1)).take 25, none, got ++ [(va, ws)])
      else if 25 ≤ all.length then (all.take 25, none, got ++ [(va, ws)])
      else gatherRun s core x all (got ++ [(va, ws)]) pc r

/-- A fetch of a line leaves its traffic, or a request to the device that holds it, where the cache has not given it (R106, R278, R364). -/
def touchLine (core x : Nat) (s : State) (va : Nat) : State :=
  if (s.coreAt core).icache.any (fun e => e.ctx == x && e.va == BitVec.ofNat 64 va) && !Config.freeBit s.free va then s
  else match translate s (s.ctxAt x) va .fetch with
    | .error _ => s
    | .ok t =>
      match t.remote with
      | some r => sendOwn s x r va 128 0
      | none => if portDown s t then noteErrors s x [va] else chargeOrdinary s t.key 128

/-- A run is executing in a partition. -/
def executing (s : State) (core part : Nat) (b : RunBuf) : Bool :=
  (warpsIn s core part).any fun w => w.ctx == b.ctx && w.paths.any fun p => match p.inRun with | some r => r.base == b.pc | none => false

/-- The run buffer with room for one more: the least recently started run that no path is executing leaves a full one (R105). -/
def makeRoom (s : State) (core part : Nat) (l : List RunBuf) : List RunBuf :=
  if l.length < 8 then l
  else match l.find? fun b => !executing s core part b with
    | some v => l.filter fun b => b != v
    | none => l

/-- RUN_FETCH_COMPLETE: a run that is missing in a partition's run buffer has been fetched whole through the instruction cache (R105).
Among the least recently started its fetch counts as its start (DESIGN CHOICE, log 99). -/
def execRunFetchComplete (core part ctx : Nat) (pc : W64) (s : State) : Host.Outcome State Fault Refusal :=
  .next (
    if (s.partAt core part).runbuf.any fun r => r.ctx == ctx && r.pc == pc then s
    else
      let g := gatherRun s core ctx [] [] pc.toNat (runLines pc.toNat)
      let lines := g.2.2.map (·.1) ++ (match g.2.1 with | some f => [f.2.toNat / 128 * 128] | none => [])
      let s := lines.foldl (touchLine core ctx) s
      let s := s.modCore core fun c =>
        { c with
          icache := (c.icache.filter fun e => !(e.ctx == ctx && g.2.2.any fun l => BitVec.ofNat 64 l.1 == e.va)) ++
            g.2.2.map fun l => ⟨ctx, BitVec.ofNat 64 l.1, l.2⟩ }
      (s.modPart core part fun x =>
        { x with runbuf := makeRoom s core part x.runbuf ++ [⟨ctx, pc, g.1, g.2.1⟩], lastFetch := s.clk }).useFree)

/-- STACK_FILL_COMPLETE: the stack cache of a lane holds its topmost entry again (R160). -/
def execStackFillComplete (k : WarpKey) (l : Nat) (s : State) : Host.Outcome State Fault Refusal :=
  .next (
    let w := s.warpAt k
    let x := s.laneAt k l
    if needsFill false x then
      (partTouch s w.ctx (stackByte s w false x (topEntry false x).off) 16).modLane k l fun x => { x with cached := 1 }
    else s)

end Sys2Proof.Machine
end

