-- ==== Sys2Proof/Machine/Events.lean ====
section
/-!
DEFINITION. Events of threads and of the memory system: results that reach registers, L1 expiry, page walks, MWAIT, barriers, trap entry,
the watchdog, lost links, and requests to and from other devices (R78, R107, R149, R165, R197 to R202, R216, R316, R319, R329, R349, R355,
R364 to R366, R437).
-/

namespace Sys2Proof.Machine

/-! ### Results (R78, R319, R435, R436) -/

/-- The value of an access as the register or the register group of its word takes it (R66, R205). -/
def landed (a : Access) : List (Nat × W32) :=
  let v := a.result.toNat
  let word (i : Nat) : W32 := BitVec.ofNat 32 (v / 2 ^ (32 * i))
  match a.kind with
  | .stt => [(a.dst, word 0)]
  | .retract => [(a.dst, word 0)]
  | .ld =>
    (match a.ty.toNat with
    | 1 => [(a.dst, BitVec.ofInt 32 (signedN 8 v))]
    | 3 => [(a.dst, BitVec.ofInt 32 (signedN 16 v))]
    | _ => if a.bytes == 8 then [(a.dst, word 0), (a.dst + 1, word 1)] else [(a.dst, BitVec.ofNat 32 (v % 256 ^ a.bytes))])
  | _ => if a.bytes == 8 then [(a.dst, word 0), (a.dst + 1, word 1)] else [(a.dst, BitVec.ofNat 32 (v % 256 ^ a.bytes))]

/-- A performed access may write its result: the high half of a 16-byte access follows the low one. -/
def mayLand (s : State) (a : Access) : Bool :=
  a.st == .performed && a.flag.isSome && !heldForHandler s a && !specialsFirst s a.w a.lane &&
    (a.half || s.accesses.all fun b => !(b.half && b.grp == a.grp && b.lane == a.lane))

/-- The result is in the lane's registers, and then its flag counts down (R78). -/
def landAccess (s : State) (a : Access) : State :=
  let w := s.warpAt a.w
  { s with accesses := s.accesses.filter fun b => b.id != a.id }.modLane a.w a.lane fun l =>
    let l := (landed a).foldl (fun (l : Lane) (v : Nat × W32) => l.write v.1 v.2) (fixedFirst w l)
    match a.flag with
    | some f => if a.half then l else l.decFlag f
    | none => l

/-- LONG_LATENCY_COMPLETE: an arithmetic result or the result of a performed access reaches its register. -/
def execLongLatencyComplete (id : Nat) (s : State) : Host.Outcome State Fault Refusal :=
  .next (match s.maths.find? fun m => m.id == id with
    | some m =>
      if !m.queued && specialsFirst s m.w m.lane then s
      else { s with maths := s.maths.filter fun x => x.id != id }.modLane m.w m.lane fun (l : Lane) =>
        ((fixedFirst (s.warpAt m.w) l).write m.dst m.val).decFlag m.flag
    | none =>
      match s.accesses.find? fun a => a.id == id with
      | some a => if mayLand s a then landAccess s a else s
      | none => s)

/-! ### L1 lines, write-backs, page walks (R137, R149, R165, R181) -/

/-- L1_LINE_EXPIRY: a line leaves a core's L1. -/
def execL1LineExpiry (core line : Nat) (s : State) : Host.Outcome State Fault Refusal := .next (dropHere s core line)

/-- WRITE_BACK_REACHED_DRAM. -/
def execWriteBackReachedDram (line : Nat) (s : State) : Host.Outcome State Fault Refusal :=
  .next { cleanLine s line with writeBacks := s.writeBacks.filter (· != line) }

/-- A page has an outstanding walk. -/
def Walk.runs (ctx vpage : Nat) (w : Walk) : Bool := w.active && w.ctx == ctx && w.page == vpage

/-- PAGE_WALK_COMPLETE: the accesses that wait for the walk go on, the part holds the translation, and a walk that waited for a free one
begins (R149). -/
def execPageWalkComplete (ctx vpage : Nat) (s : State) : Host.Outcome State Fault Refusal :=
  .next (
    if s.walks.any (Walk.runs ctx vpage) then
      let s := { s with walks := grantWalks (s.walks.filter fun w => !w.runs ctx vpage) }
      match walkTable s (s.ctxAt ctx).root vpage with
      | none => s
      | some (e, size) =>
        if (tlbFind s ctx vpage).isSome then s
        else { s with tlb := s.tlb ++ [⟨ctx, vpage / size * size, size, BitVec.ofNat 64 e⟩] }
    else s)

/-! ### MWAIT (R216) -/

/-- The word of a parked MWAIT differs from the value that D held. -/
def wakeReady (s : State) (a : Access) : Bool :=
  a.kind == .mwait && a.st == .parked &&
  (match a.loc with
   | .mem key =>
     (failedPort? s a).isSome || hideControl s a (homeRead s key a.bytes a.tkey) != a.cmp.toNat % 256 ^ a.bytes
   | .remote _ _ => true
   | _ => false)

/-- The context of an MWAIT has had an external wait in this tick, when its word is translated (R217, R316). -/
def noteWait (s : State) (a : Access) : State :=
  if isAperture a.va.toNat then s else s.modCtx a.ctx fun c => { c with wdActive := true }

/-- MWAIT_WAKE: the lane's word is read again; a word of another device is asked for again (DEDUCED, log 24). -/
def execMwaitWake (id : Nat) (s : State) : Host.Outcome State Fault Refusal :=
  .next (match s.accesses.find? fun a => a.id == id with
    | some a =>
      if wakeReady s a then
        (match a.loc with
        | .mem key =>
          (match failedPort? s a with
           | some p => failAccess s a p
           | none => performMwait (noteWait s a) a key)
        | _ => s.modAccess id fun b => { b with st := .pending })
      else s
    | none => s)

/-! ### Barriers (R178, R197 to R202) -/

/-- The blocks whose threads are members of a barrier. -/
def barBlocks (s : State) (b : BarKey) : List Block :=
  s.blocks.filter fun x => x.launch == b.launch && (b.lvl == 2 || (b.lvl == 0 && x.id == b.unit) || (b.lvl == 1 && x.cluster == b.unit))

/-- Every block with a member has been placed. -/
def barPlaced (s : State) (b : BarKey) : Bool :=
  let l := s.launchAt b.launch
  if b.lvl == 2 then l.started && l.placed == launchBlocks s l
  else if b.lvl == 1 then (barBlocks s b).length == l.ext 1
  else true

/-- The lane's arrival at a barrier: the number of the access that would have come next. -/
def Lane.arrival? (l : Lane) (b : BarKey) : Option Nat := (l.arrived.find? fun a => a.1 == b.lvl && a.2.1 == b.num).map (·.2.2)

/-- A member has arrived; an exited one counts as arrived (R199). -/
def memberIn (b : BarKey) (l : Lane) : Bool := l.exited || (l.arrival? b).isSome

/-- Every access that a member's arrival releases is performed (R178). -/
def memberReady (s : State) (b : BarKey) (w : Warp) (l : Lane) : Bool :=
  match l.arrival? b with
  | none => true
  | some n => s.accesses.all fun a =>
      a.page == .U || !a.open ||
      !((a.w == w.key && a.lane == l.id && a.wid == l.wid && a.id < n) || edgeBefore l n a)

/-- The grid of a launch spans devices. -/
def spansPod (s : State) (launch : Nat) : Bool := 1 < (s.ctxAt (s.launchAt launch).ctx).span

/-- The trees of the other devices of the span have answered for a grid barrier (R197). -/
def peersArrived (s : State) (b : BarKey) : Bool :=
  let l := s.launchAt b.launch
  let c := s.ctxAt l.ctx
  b.lvl != 2 || (List.range c.span).all fun r => r == c.rank || l.gridMsgs.contains (b.num, r)

/-- A barrier's phase is complete: some member has arrived, and every one has or has exited (R199); a saved member's input stands at
its saved value (R201). -/
def barComplete (s : State) (b : BarKey) : Bool :=
  let ids := (barBlocks s b).map (·.id)
  let ws := s.warps.filter (fun w => ids.contains w.blk) ++ (s.saved.filter fun x => ids.contains x.blk).flatMap (·.warps)
  barPlaced s b && peersArrived s b && ws.any (fun w => w.lanes.any fun l => (l.arrival? b).isSome) &&
    ws.all fun w => w.lanes.all (memberIn b)

/-- The clk at which a barrier's complete phase releases (R197). -/
def barDueAt? (s : State) (b : BarKey) : Option Nat := (s.barDue.find? fun d => d.1 == b).map (·.2)

/-- A complete phase may release: its latency is over with the next clk, and what the arrivals release is performed, the waits on words that a
saved block has parked among it. -/
def barReady (s : State) (b : BarKey) : Bool :=
  let ids := (barBlocks s b).map (·.id)
  match barDueAt? s b with
  | none => false
  | some t => t ≤ s.clk + 1 && (s.warps.all fun w => !ids.contains w.blk || w.lanes.all (memberReady s b w)) &&
    s.saved.all fun x => !ids.contains x.blk || x.warps.all fun w => w.lanes.all (memberReady { s with accesses := x.waits } b w)

/-- The wait of a lane in the phase that releases ends at a clk. -/
def endWait (b : BarKey) (t : Nat) (x : BarWait) : BarWait :=
  if x.lvl == b.lvl && x.num == b.num && x.at_.isNone then { x with at_ := some t } else x

/-- The lane runs a handler: the waits of its interrupted code are held (R320, R322). -/
def inHandler (w : Warp) (l : Lane) : Bool := w.trapMode && onHandler (smGet (3, 0) w.entryState l.id).1

/-- A member at the release: its arrived bit clears, its wait ends after the latency, an arrival that waited for the next phase is made,
and its later accesses come after the release (R178, R200). `hand` tells that the lane runs a handler. A lent lane whose phase has released
is not idle again before it takes part in a later one (R298). -/
def releaseMember (b : BarKey) (t next : Nat) (hand : Bool) (l : Lane) : Lane :=
  let again := l.rearrive.find? fun r => r.1 % 4 == b.lvl && r.2 == b.num
  let ends := (l.waits ++ l.heldWaits).any fun x => x.lvl == b.lvl && x.num == b.num && x.at_.isNone
  let l :=
    { l with
      homed := l.homed || (ends && l.isLent)
      arrived := l.arrived.filter fun a => !(a.1 == b.lvl && a.2.1 == b.num)
      waits := l.waits.map (endWait b t)
      heldWaits := l.heldWaits.map (endWait b t)
      fcs := if ends then next else l.fcs }
  match again with
  | none => l
  | some r =>
    let l :=
      { l with
        rearrive := l.rearrive.erase r
        arrived := l.arrived ++ [(b.lvl, b.num, next)]
        homed := false }
    if r.1 < 4 then l
    else if hand then { l with heldWaits := l.heldWaits ++ [⟨b.lvl, b.num, none⟩] }
    else { l with waits := l.waits ++ [⟨b.lvl, b.num, none⟩] }

/-- A phase releases at its clk, or now when that has passed: the members, resident and saved, and for a scope of .cl or wider the L1
lines of their cores. -/
def releaseBarrier (s : State) (b : BarKey) : State :=
  let ids := (barBlocks s b).map (·.id)
  let t := max s.clk ((barDueAt? s b).getD s.clk)
  let free (w : Warp) : Warp := w.eachLane fun l => releaseMember b t s.nextId (inHandler w l) l
  let cores := distinct ((s.warps.filter fun w => ids.contains w.blk).map fun w => w.key.core)
  let c := s.ctxAt (s.launchAt b.launch).ctx
  let s := { s with
    barDue := s.barDue.filter fun d => d.1 != b
    warps := mapIf (fun w => ids.contains w.blk) free s.warps
    saved := mapIf (fun x => ids.contains x.blk) (fun x => { x with warps := x.warps.map free }) s.saved }
  let s := if b.lvl == 2 then s.modLaunch b.launch fun l =>
      { l with gridMsgs := (List.range c.span).foldl (fun ms r => ms.erase (b.num, r)) l.gridMsgs }
    else s
  if b.lvl == 0 then s else cores.foldl dropL1 s

/-- BARRIER_RELEASE: the latency of a complete phase begins, or its end has come (R197, R199). -/
def execBarrierRelease (b : BarKey) (s : State) : Host.Outcome State Fault Refusal :=
  .next (
    if barReady s b then releaseBarrier s b
    else if (barDueAt? s b).isNone && barComplete s b then
      { s with barDue := s.barDue ++ [(b, s.clk + Config.release b.lvl (b.lvl == 2 && spansPod s b.launch))] }
    else s)

/-- BARRIER_MESSAGE: the tree of another device of the span has all its members (R197). -/
def execBarrierMessage (b : BarKey) (rank : Nat) (s : State) : Host.Outcome State Fault Refusal :=
  .next (s.modLaunch b.launch fun l => { l with gridMsgs := l.gridMsgs ++ [(b.num, rank)] })

/-! ### Lost links (R202, R307) -/

/-- A launch has a rank of another device in its span. -/
def reachesRank (s : State) (l : Launch) (rank : Nat) : Bool :=
  let c := s.ctxAt l.ctx
  1 < c.span && rank < c.span && rank != c.rank

/-- A lane waits at a grid barrier of a launch that spans a lost rank (DEDUCED, log 29). -/
def waitsOnLost (s : State) (rank : Nat) (w : Warp) : Bool :=
  reachesRank s (s.launchOf w) rank && w.lanes.any fun l => (l.waits ++ l.heldWaits).any fun x => x.lvl == 2 && x.at_.isNone

/-- LINK_LOST: members that wait on the rank get context fault LINK, and LAUNCHes that wait for its answer end with ABORTED. -/
def execLinkLost (rank : Nat) (s : State) : Host.Outcome State Fault Refusal :=
  .next (
    let s := { s with lostRanks := if s.lostRanks.contains rank then s.lostRanks else s.lostRanks ++ [rank] }
    let s := (s.warps.filter (waitsOnLost s rank)).foldl (fun s w => contextStop s w.ctx cLink 0 w.key.core (winOf w.key)) s
    (s.launches.filter fun l => l.fut.isSome && reachesRank s l rank && l.ranks.contains rank).foldl
      (fun s l => launchLost s l.id rank) s)

/-! ### Trap entry and the watchdog (R316, R319) -/

/-- TRAP_ENTRY. -/
def execTrapEntry (w : WarpKey) (s : State) : Host.Outcome State Fault Refusal :=
  .next (match s.warpAt? w with
    | some v => if v.trapReq.isSome && entryReady s v then enterTrap s w else s
    | none => s)

/-- The last whole tick of 1 µs that has ended. -/
def tickNow (s : State) : Nat := s.ts / 1000

/-- An engine operation counts as in flight: not an armed MMUL, nor an FWAIT on one (R316). -/
def inFlight (s : State) (o : EngOp) : Bool :=
  !o.over && o.state != .armed &&
  (o.kind != .fwait || (match o.target.bind s.opOf? with | some q => q.state != .armed | none => true))

/-- An operation of the context is in flight now, or a path of it waits externally (R316). -/
def busyNow (s : State) (c : Ctx) : Bool :=
  s.ops.any (fun o => o.ctx == c.num && inFlight s o) ||
    s.accesses.any fun a => a.kind == .mwait && a.ctx == c.num && a.st != .performed && !isAperture a.va.toNat

/-- The context has been active in the tick as the watchdog sees it: a run started, an operation was in flight, or a path waited
externally, at its start, within it or at its end (DEDUCED, log 28). -/
def watchActive (s : State) (c : Ctx) : Bool := c.wdActive || busyNow s c

/-- WDCNT after a tick: 0 under a WDOG of 0, unchanged when the context has stopped or had no resident warp throughout the tick, 0 when it was
active; it does not advance while a warp of the context, resident or saved, is halted (R316, R345). -/
def nextCount (s : State) (c : Ctx) : Nat :=
  let n := (c.csrOf 0x16).toNat
  let mine := s.warps.filter fun w => w.ctx == c.num
  if c.csrOf 0x15 == 0 then 0
  else if c.stopped || (mine.isEmpty && !c.wdSeen) then n
  else if watchActive s c then 0
  else if (mine ++ (s.saved.flatMap (·.warps)).filter fun w => w.ctx == c.num).any (·.halt) then n
  else n + 1

/-- A tick of the watchdog has ended and is not judged yet. -/
def tickReady (s : State) (x : Nat) : Bool := (s.ctxAt x).live && (s.ctxAt x).wdTick < tickNow s

/-- WATCHDOG_TICK. -/
def execWatchdogTick (ctx : Nat) (s : State) : Host.Outcome State Fault Refusal :=
  .next (
    if tickReady s ctx then
      s.modCtx ctx fun c =>
        { c.setCsr 0x16 (BitVec.ofNat 32 (nextCount s c)) with
          wdTick := c.wdTick + 1
          wdActive := busyNow s c
          wdSeen := false }
    else s)

/-- WDCNT has reached WDOG. -/
def deadlockReady (s : State) (x : Nat) : Bool :=
  let c := s.ctxAt x
  c.live && !c.stopped && c.csrOf 0x15 != 0 && (c.csrOf 0x15).toNat ≤ (c.csrOf 0x16).toNat

/-- WATCHDOG_DEADLOCK: the context stops; which of its warps STATUS names is not specified. -/
def execWatchdogDeadlock (ctx : Nat) (s : State) : Host.Outcome State Fault Refusal :=
  .next (
    if deadlockReady s ctx then
      let ws := s.warps.filter fun w => w.ctx == ctx
      let k := (ws.getD (Config.freeNat s.free ctx % ws.length) (blankWarp ⟨0, 0, 0⟩)).key
      (contextStop s ctx cDeadlock 0 k.core (winOf k)).useFree
    else s)

/-! ### Answers of other devices (R329, R437) -/

/-- A request is still queued at a port. -/
def queuedAtPort (s : State) (id : Nat) : Bool := s.ports.any fun p => p.2.any fun t => t.reqs.any fun r => r.id == id

/-- An access of this device that another device has performed: what it does here (R162, R166, R171, R173, R437). -/
def acceptAccess (s : State) (a : Access) (v : Nat) : State :=
  let made := a.kind != .cas || v == a.cmp.toNat % 256 ^ a.bytes
  match a.kind with
  | .ld => finishAccess (fencedRead (acquireHere s a) a) a (hideControl s a v)
  | .mwait =>
    if v == a.cmp.toNat % 256 ^ a.bytes then s.modAccess a.id fun b => { b with st := .parked }
    else finishAccess (fencedRead (acquireHere (noteWait s a) a) a) a v
  | .st => finishAccess (clobberControl s a) a 0
  | .red => finishAccess (clobberControl s a) a 0
  | _ =>
    let s := fencedRead (acquireHere s a) a
    let s := if made then clobberControl s a else s
    finishAccess (if a.kind == .cas && made then spendRel s a else s) a v

/-- An answer of another device to a request of an access: the value that it read, or the reason for which it refused it. The loads that share
the request share the answer (R148). -/
def answerAccess (s : State) (a : Access) (ans : Except Nat Nat) : State :=
  let g := sameLoads s a
  if a.st != .remoteWait || (g.head?.map (·.id)).getD a.id != a.id then s
  else
    let s := g.foldl (fun s b =>
      match ans with
      | .ok v => acceptAccess s b (v % 256 ^ b.bytes)
      | .error c => s.modAccess b.id fun b => { b with st := .refused c }) s
    settleWord s.useFree a.grp

/-- An engine command whose request is refused ends with ENGINE and the reason as sub-cause (R329). -/
def refuseOp (s : State) (o : EngOp) (c : Nat) : State :=
  if [EngKind.cpy, .cpyg, .cpyt].contains o.kind then faultCopy s o c
  else if isSet o.kind then faultSet s o c
  else if o.kind == .tqry then faultOp (leaveTable s o) o c
  else faultOp s o c

/-- An answer of another device to a request of an engine command. -/
def answerOp (s : State) (o : EngOp) (id : Nat) (ans : Except Nat Nat) : State :=
  let s := s.modOp o.core o.slot fun q => { q with far := q.far.erase id }
  match ans with
  | .ok _ => s
  | .error c => if o.over then s else refuseOp s o c

/-- An answer of another device to a request for a piece of a queue's next record: once all have come the queue goes on, and it stops when the
device refuses one (R364, R518) (DEDUCED, log 41). -/
def answerRing (s : State) (q : Queue) (id : Nat) (ans : Except Nat Nat) : State :=
  match ans with
  | .ok v => pumpQueue (s.modQueue q.id fun x => { x with far := smSet x.far id (some (BitVec.ofNat 128 v)) }) q.id
  | .error _ => stopQueue (s.modQueue q.id fun x => { x with far := [] }) q.id 7 none

/-- An answer of another device to the read of a record's signal word (R308). -/
def answerSignal (s : State) (l : Launch) (ans : Except Nat Nat) : State :=
  if l.sig != .out then s
  else match ans with
    | .ok v => signalValue s l none (v % 2 ^ 64)
    | .error _ => signalLost s l

/-- An answer of another device to a request that was sent, by the request's number: of an access, of an engine command, of a queue's next
record, or of a record's signal word. -/
def answerRequest (s : State) (id : Nat) (ans : Except Nat Nat) : State :=
  if queuedAtPort s id then s
  else match s.accesses.find? fun a => a.id == id with
    | some a => answerAccess s a ans
    | none =>
      match s.ops.find? fun o => o.far.contains id with
      | some o => answerOp s o id ans
      | none =>
        match s.queues.find? fun q => q.far.any fun e => e.1 == id && e.2.isNone with
        | some q => answerRing s q id ans
        | none =>
          match s.launches.find? fun l => l.id == id with
          | some l => answerSignal s l ans
          | none => s

/-- REMOTE_ACCEPTANCE: another device has performed a request that was sent, with the value that it read. -/
def execRemoteAcceptance (id : Nat) (data : W128) (s : State) : Host.Outcome State Fault Refusal :=
  .next (answerRequest s id (.ok data.toNat))

/-- REMOTE_ERROR_RESPONSE: another device has refused a request that was sent. -/
def execRemoteErrorResponse (id : Nat) (cause : BitVec 5) (s : State) : Host.Outcome State Fault Refusal :=
  .next (answerRequest s id (.error cause.toNat))

/-! ### Requests of other devices (R177, R329, R355, R365) -/

/-- What a peer's request needs of its page. -/
def peerNeed : PeerOp → Need
  | .load => .rd
  | .store => .wr
  | .atom _ => .rdwr
  | .cas => .rdwr
  | .red _ => .wr

/-- Translation of a peer's address with the checks of R365, or the reason that is returned. -/
def peerPlace (s : State) (c : Ctx) (r : PeerReq) : Except Nat Xlat :=
  let va := r.va.toNat
  if isAperture va then .error cRange
  else if 2 ^ 57 ≤ va then .error cPage
  else match leafFor s c va with
    | none => .error cPage
    | some (e, size) =>
      if !grants e (peerNeed r.op) then .error cPerm
      else if bitsN e 51 48 == 15 then .error cRange
      else if bitsN e 63 56 != r.key.toNat then .error cTkey
      else
        let pa := pteAddr e + va % size
        let x : Xlat :=
          { key := if bitsN e 11 10 == 1 then keyTier2 + pa else pa
            kind := pteKind e
            remote := none
            tier := bitsN e 11 10
            tkey := bitsN e 63 56
            page := va / size * size }
        if portDown s x then .error cRange else .ok x

/-- The owner of the reports of a link port. -/
def portOwner (port : Nat) : Nat := 2 ^ 64 + port

/-- A remote atomic has been performed: reports that were due are written after it, and its own, if it wrote, at once or after the next (R349,
R355). -/
def reportPeer (s : State) (port x : Nat) (r : PeerReq) (wrote : Bool) : State :=
  let reps := if !wrote then [] else (watchMatches (s.ctxAt x) 18 (vaRange r.va.toNat r.bytes)).map fun m =>
    { ctx := x
      addr := BitVec.ofNat 64 m.1
      seq := r.seq
      bytes := BitVec.ofNat 16 m.2
      ts := s.ts
      src := BitVec.ofNat 8 (128 + port % 8)
      core := 0
      wslot := 0
      lane := 0
      kind := 2
      acc := 3
      owner := portOwner port : DueReport }
  let s := flushReports s (portOwner port) 1
  let s := { s with reports := s.reports ++ reps }
  if Config.freeBit s.free (portOwner port) then s else flushReports s (portOwner port) 0

/-- The answer to a request holds what was read. -/
def peerReads : PeerOp → Bool
  | .load => true
  | .atom _ => true
  | .cas => true
  | .store => false
  | .red _ => false

/-- A peer's request performed at its home, as the access of its instruction would be (R177). Its context as a party of R173 is the local
one that the port's tenant entry names (DESIGN CHOICE, log 118). -/
def performPeer (s : State) (port x : Nat) (t : Xlat) (r : PeerReq) : State :=
  let ag : Agent := ⟨x, none, none, none, none, false, true⟩
  let plain := t.kind == .U
  let rel := if r.sem.getLsbD 1 && !plain then r.scope.toNat + 1 else 0
  let s := chargeOrdinary (mayEvict s t.key) t.key r.bytes
  let s := observe s t.key r.bytes none
  let s := if r.sem.getLsbD 0 && !plain then scopeCheck s t.key r.bytes r.scope.toNat ag else s
  let m := homeRead s t.key r.bytes t.tkey
  let s := { s with replies := s.replies ++ [⟨port, r.seq, none, if peerReads r.op then m else 0⟩] }
  let write (v : Nat) (atomic : Bool) : State := writeAt (notePhys s t.key r.bytes) t.key r.bytes v t.tkey rel atomic none ag none
  match r.op with
  | .load => s
  | .store => write r.data.toNat false
  | .atom ty => reportPeer (write (atomOp ty m r.data.toNat) true) port x r true
  | .red ty => reportPeer (write (atomOp ty m r.data.toNat) true) port x r true
  | .cas => if m == r.cmp.toNat % 256 ^ r.bytes then reportPeer (write r.data.toNat true) port x r true else reportPeer s port x r false

/-- A port refuses a request: the reason goes back, and the receiver logs the request (R329). -/
def refusePeer (s : State) (port : Nat) (r : PeerReq) (cause : Nat) : State :=
  addLog { s with replies := s.replies ++ [⟨port, r.seq, some cause, 0⟩] } (2064 + port) 4
    (r.va.toNat + port * 2 ^ 64 + r.key.toNat * 2 ^ 72)

/-- REMOTE_REQUEST_RECEIVE: the port checks a request and performs it, or refuses it (R329, R365) (DESIGN CHOICE, log 26; DESIGN CHOICE, log
83). -/
def execRemoteRequestReceive (port : Nat) (r : PeerReq) (s : State) : Host.Outcome State Fault Refusal :=
  .next (match tenantCtx s port r.key with
    | none => refusePeer s port r cPage
    | some x =>
      if !(s.ctxAt x).live then refusePeer s port r cPage
      else match peerPlace s (s.ctxAt x) r with
        | .error c => refusePeer (if c == cRange then noteErrors s x [r.va.toNat] else s) port r c
        | .ok t => (performPeer s port x t r).useFree)

/-! ### Sending (R366) -/

/-- W of a tenant at a port. -/
def tenantWeight (s : State) (port key : Nat) : Nat := bitsN (smGet 0#32 s.tenants (port * 256 + key)).toNat 15 8

/-- Requests leave in FIFO order while the deficit covers them. -/
def drainQueue : Nat → List OutReq → Nat × List OutReq
  | d, [] => (d, [])
  | d, r :: rest => if r.bytes ≤ d then drainQueue (d - r.bytes) rest else (d, r :: rest)

/-- A tenant's turn in a round; one with W = 0 sends its head, and only when no other has a request queued (DEDUCED, log 30). -/
def serveTenant (s : State) (port : Nat) (others : Bool) (t : TenantQ) : TenantQ :=
  let w := tenantWeight s port t.key
  if t.reqs.isEmpty then { t with deficit := 0 }
  else if w == 0 then (if others then t else { t with reqs := t.reqs.drop 1, deficit := 0 })
  else
    let r := drainQueue (t.deficit + w * 256) t.reqs
    { t with reqs := r.2, deficit := if r.2.isEmpty then 0 else r.1 }

/-- PORT_SEND_ROUND: one round of a port over its tenants in ascending id; a due watch report of the port is written first. -/
def execPortSendRound (port : Nat) (s : State) : Host.Outcome State Fault Refusal :=
  let s := flushReports s (portOwner port) 0
  let ts := sortBy (fun t : TenantQ => t.key) (smGet [] s.ports port)
  let others := ts.any fun t => !t.reqs.isEmpty && tenantWeight s port t.key != 0
  .next { s with ports := smSet s.ports port (ts.map (serveTenant s port others)) }

end Sys2Proof.Machine
end

