-- ==== Sys2Proof/Machine/FloatAlu.lean ====
section
/-!
DEFINITION. Float instructions of fixed latency: FADD, FSUB, FMUL, FFMA, FMIN, FMAX, FCMP, FABS, FNEG, FRND, CVT (R397 to
R399, R406, R407, R411, R412, R415). Each lane uses its own FPCTL.
-/

namespace Sys2Proof.Machine

/-- FADD (R407). -/
def execFadd (h : Hdr) (d a b : Code) (s : State) : Host.Outcome State Fault Refusal :=
  .next (fixWord (.fadd h d a b) h 4 (fun s l => one d (fadd32 l.fpctl (rd s l a) (rd s l b))) s)

/-- FADD with an immediate (R407). -/
def execFaddImm (h : Hdr) (d a : Code) (imm : W32) (s : State) : Host.Outcome State Fault Refusal :=
  .next (fixWord (.faddImm h d a imm) h 4 (fun s l => one d (fadd32 l.fpctl (rd s l a) imm)) s)

/-- FSUB (R407). -/
def execFsub (h : Hdr) (d a b : Code) (s : State) : Host.Outcome State Fault Refusal :=
  .next (fixWord (.fsub h d a b) h 4 (fun s l => one d (fsub32 l.fpctl (rd s l a) (rd s l b))) s)

/-- FSUB with an immediate (R407). -/
def execFsubImm (h : Hdr) (d a : Code) (imm : W32) (s : State) : Host.Outcome State Fault Refusal :=
  .next (fixWord (.fsubImm h d a imm) h 4 (fun s l => one d (fsub32 l.fpctl (rd s l a) imm)) s)

/-- FMUL (R407). -/
def execFmul (h : Hdr) (d a b : Code) (s : State) : Host.Outcome State Fault Refusal :=
  .next (fixWord (.fmul h d a b) h 4 (fun s l => one d (fmul32 l.fpctl (rd s l a) (rd s l b))) s)

/-- FMUL with an immediate (R407). -/
def execFmulImm (h : Hdr) (d a : Code) (imm : W32) (s : State) : Host.Outcome State Fault Refusal :=
  .next (fixWord (.fmulImm h d a imm) h 4 (fun s l => one d (fmul32 l.fpctl (rd s l a) imm)) s)

/-- FFMA (R407). -/
def execFfma (h : Hdr) (d a b c : Code) (s : State) : Host.Outcome State Fault Refusal :=
  .next (fixWord (.ffma h d a b c) h 4 (fun s l => one d (ffma32 l.fpctl (rd s l a) (rd s l b) (rd s l c))) s)

/-- FMIN (R412). -/
def execFmin (h : Hdr) (d a b : Code) (s : State) : Host.Outcome State Fault Refusal :=
  .next (fixWord (.fmin h d a b) h 2 (fun s l => one d (fmin32 l.fpctl (rd s l a) (rd s l b))) s)

/-- FMIN with an immediate (R412). -/
def execFminImm (h : Hdr) (d a : Code) (imm : W32) (s : State) : Host.Outcome State Fault Refusal :=
  .next (fixWord (.fminImm h d a imm) h 2 (fun s l => one d (fmin32 l.fpctl (rd s l a) imm)) s)

/-- FMAX (R412). -/
def execFmax (h : Hdr) (d a b : Code) (s : State) : Host.Outcome State Fault Refusal :=
  .next (fixWord (.fmax h d a b) h 2 (fun s l => one d (fmax32 l.fpctl (rd s l a) (rd s l b))) s)

/-- FMAX with an immediate (R412). -/
def execFmaxImm (h : Hdr) (d a : Code) (imm : W32) (s : State) : Host.Outcome State Fault Refusal :=
  .next (fixWord (.fmaxImm h d a imm) h 2 (fun s l => one d (fmax32 l.fpctl (rd s l a) imm)) s)

/-- FCMP (R412). -/
def execFcmp (h : Hdr) (d a b : Code) (cc : BitVec 4) (s : State) : Host.Outcome State Fault Refusal :=
  .next (fixWord (.fcmp h d a b cc) h 2 (fun s l => oneP d (fcmpTrue l.fpctl cc (rd s l a) (rd s l b))) s)

/-- FCMP with an immediate: the comparand is the 28 bits × 16 (R411). -/
def execFcmpImm (h : Hdr) (d a : Code) (cc : BitVec 4) (imm : BitVec 28) (s : State) : Host.Outcome State Fault Refusal :=
  .next (fixWord (.fcmpImm h d a cc imm) h 2 (fun s l => oneP d (fcmpTrue l.fpctl cc (rd s l a) (imm ++ 0#4))) s)

/-- FABS (R406). -/
def execFabs (h : Hdr) (d a : Code) (s : State) : Host.Outcome State Fault Refusal :=
  .next (fixWord (.fabs h d a) h 2 (fun s l => one d (rd s l a &&& 0x7FFFFFFF#32)) s)

/-- FNEG (R406). -/
def execFneg (h : Hdr) (d a : Code) (s : State) : Host.Outcome State Fault Refusal :=
  .next (fixWord (.fneg h d a) h 2 (fun s l => one d (rd s l a ^^^ 0x80000000#32)) s)

/-- FRND (R415). -/
def execFrnd (h : Hdr) (d a : Code) (s : State) : Host.Outcome State Fault Refusal :=
  .next (fixWord (.frnd h d a) h 4 (fun s l => one d (frnd32 l.fpctl (rd s l a))) s)

/-- The d of R122 in a lane of the warp: 0 unless the lane converts. -/
def srLane (s : State) (act : List Lane) (m8 : Bool) (a : Code) (j : Nat) : Nat :=
  match act.find? fun l => l.id == j with
  | some l => srBits (ftzOf l.fpctl) m8 (rd s l a)
  | none => 0

/-- CVT.sr in one lane (R122). -/
def srConvert (s : State) (act : List Lane) (m8 : Bool) (a : Code) (l : Lane) : W32 :=
  let q := l.id / 4 * 4
  let i := l.id % 4
  let up := srHash i (srLane s act m8 a (q + (i + 3) % 4)) (srLane s act m8 a (q + (i + 1) % 4)) < srLane s act m8 a l.id
  srResult (ftzOf l.fpctl) m8 up (rd s l a)

/-- CVT (R399). -/
def execCvt (h : Hdr) (d a : Code) (sr : Bool) (dst src : BitVec 4) (s : State) : Host.Outcome State Fault Refusal :=
  .next (runWord (.cvt h d a sr dst src) s fun s c =>
    let act := active s c h
    let res (l : Lane) : List (Nat × W32) :=
      if sr then one d (srConvert s act (dst == 2#4) a l)
      else
        let x := if cvtWide src then rd64 s l a else (rd s l a).setWidth 64
        let y := convert l.fpctl dst src x
        if cvtWide dst then pair d y else one d (y.setWidth 32)
    advance (putFix s c 4 (act.flatMap fun l => (res l).map fun v => (l.id, v))) c)

end Sys2Proof.Machine
end

