-- ==== Sys2Proof/Machine/Host.lean ====
section
/-!
DEFINITION. What the host and the Kiln do: the debug events (R340 to R345, R353), the context actions (R359 to R362), register writes and
the BAR2 window (R357, R358, R363, R367), the Kiln's commands and log (R369 to R371), the second tier's ports (R368) and reset (R372).
-/

namespace Sys2Proof.Machine

/-! ### Debug (R340 to R344, R353) -/

/-- HALT: a halt is requested of a warp (R341). -/
def execHalt (w : WarpKey) (s : State) : Host.Outcome State Fault Refusal := .next (requestHalt s w 0)

/-- RESUME (R344). -/
def execResume (w : WarpKey) (s : State) : Host.Outcome State Fault Refusal := .next (s.modWarp w resumeWarp)

/-- STEP: a path of a halted warp may start one run (R343). -/
def execStep (w : WarpKey) (path : Nat) (s : State) : Host.Outcome State Fault Refusal := .next (s.modWarp w (stepPathOf s path))

/-- STEPALL (R343). -/
def execStepAll (w : WarpKey) (s : State) : Host.Outcome State Fault Refusal := .next (s.modWarp w (stepAllOf s))

/-- DEBUG_CSR_WRITE: a CSR of a live context through its debug page (R338, R353). -/
def execDebugCsrWrite (ctx num : Nat) (v : W32) (s : State) : Host.Outcome State Fault Refusal :=
  .next (if (s.ctxAt ctx).live then writeCtxCsr s ctx num v true else s)

/-! ### Contexts (R359 to R362) -/

/-- A word of the CSR image; one that the host has not written holds the CSR's reset value (DEDUCED, log 36). -/
def Ctx.imgWord (c : Ctx) (n : Nat) : W32 := smGet (csrReset n) c.img n

/-- The context-held CSR numbers of the image. -/
def imageCsrs : List Nat :=
  (List.range 128).filter fun n => match csrInfo n with | some (.context, _) => true | _ => false

/-- The initial value of a context-held CSR from the image: reserved bits read as zero. -/
def initCsr (n : Nat) (v : W32) : W32 := if n == 0x11 then v &&& 0xFF#32 else csrStore n v

/-- The record lets the context be created (R359, R360). -/
def recordOk (c : Ctx) : Bool :=
  let r := c.record
  recF r 251 0 == 0 && 1 ≤ recF r 406 396 && recF r 406 396 ≤ 1024 && recF r 395 386 < recF r 406 396

/-- A bit of CTL reads 0 again: its action has completed. -/
def Ctx.ctlDone (c : Ctx) (bit : Nat) : Ctx := { c with ctl := c.ctl &&& ~~~(1#32 <<< bit) }

/-- BOOT.READY (R372). -/
def bootReady (s : State) : Bool := (smGet 0#64 s.bar0 0).getLsbD 8

/-- What the part holds of a context's translations and code is gone. -/
def forgetCode (s : State) (x : Nat) : State := applyIcinv { s with tlb := s.tlb.filter fun e => e.ctx != x } x

/-- CREATE: the context becomes live with the record and the image, or STATUS reports 0xFF (DEDUCED, log 39). -/
def execCreate (x : Nat) (s : State) : Host.Outcome State Fault Refusal :=
  let c := s.ctxAt x
  .next (
    if 64 ≤ x then s
    else if c.live || !bootReady s then s.modCtx x fun c => c.ctlDone 0
    else if !recordOk c then
      s.modCtx x fun c => { c.ctlDone 0 with status := BitVec.ofNat 64 (2 ^ 63 + 0xFF * 2 ^ 40) }
    else
      let new : Ctx :=
        { blankCtx x with
          live := true
          record := c.record
          hdr := c.record
          img := c.img
          ctl := c.ctl
          status := c.status
          csr := imageCsrs.map fun n => (n, initCsr n (c.imgWord n))
          wdTick := tickNow s }
      let s := (forgetCode s x).modCtx x fun _ => new.ctlDone 0
      (s.queues.filter fun q => q.ctx == x).foldl (fun s q => pumpQueue s q.id) s)

/-- The header after an UPDATE: SAVEBASE, SAVESZ, PRIV and PMAP of the record, the rest as created. -/
def updateHdr (old new : BitVec 512) : BitVec 512 :=
  let take (hi lo : Nat) (h : BitVec 512) : BitVec 512 :=
    BitVec.ofNat 512 (h.toNat - recF h hi lo * 2 ^ lo + recF new hi lo * 2 ^ lo)
  take 463 423 (take 422 407 (take 385 385 (take 384 384 old)))

/-- A path of a context is inside a run on a core. -/
def midRunOn (s : State) (core x : Nat) : Bool :=
  s.warps.any fun w => w.ctx == x && w.key.core == core && w.paths.any fun p => p.inRun.isSome || p.ending.isSome

/-- The cores on which a path of a context is inside a run. -/
def busyCores (s : State) (x : Nat) : List Nat :=
  (distinct ((s.warps.filter fun w => w.ctx == x).map fun w => w.key.core)).filter fun k => midRunOn s k x

/-- Some core still sees the context as it was before an UPDATE, though no path of the context is inside a run there. -/
def updateSettles (s : State) (c : Ctx) : Bool := c.old.any fun e => !midRunOn s e.1 c.num

/-- UPDATE: the header and the image apply, as CSRWs made in trap mode, on each core from its next run boundary on: a core with a path
inside a run sees the context as it was until then. Once every core has come to its boundary CTL.UPDATE reads 0 (R360) (DEDUCED, log 39).
-/
def execUpdate (x : Nat) (s : State) : Host.Outcome State Fault Refusal :=
  let c := s.ctxAt x
  .next (
    if !c.live then s.modCtx x fun c => c.ctlDone 1
    else if !c.old.isEmpty then (c.old.map (·.1)).foldl (fun s k => if midRunOn s k x then s else endUpdate s k x) s
    else
      let before := imageCsrs.map fun n => (n, c.csrOf n)
      let s := imageCsrs.foldl (fun s n => writeCtxCsr s x n ((s.ctxAt x).imgWord n) true) s
      let s := s.modCtx x fun d => { d with hdr := updateHdr d.hdr d.record, old := (busyCores s x).map fun k => (k, c.hdr, before) }
      if (busyCores s x).isEmpty then s.modCtx x fun c => c.ctlDone 1 else s)

/-- TLBINV: translations held for the context are dropped (R137). -/
def execTlbinv (x : Nat) (s : State) : Host.Outcome State Fault Refusal :=
  .next ({ s with tlb := s.tlb.filter fun e => e.ctx != x }.modCtx x fun c => c.ctlDone 3)

/-- A context that is being destroyed has come to rest: its paths stand at run boundaries, its accesses are performed but for waits, and
its engine operations are over (R328). -/
def destroyReady (s : State) (x : Nat) : Bool :=
  (s.warps.all fun w => w.ctx != x || w.paths.all fun p => p.inRun.isNone) &&
  (s.accesses.all fun a => a.ctx != x || a.kind == .mwait || a.st == .performed) &&
  s.ops.all fun o => o.ctx != x || o.over || o.state == .armed || o.kind == .fwait

/-- Tentative words of a context become plain with the values that stand, and the entries that it alone held are free (R288, R290, R291). -/
def commitAll (s : State) (x : Nat) : State :=
  let s := { s with tentWords := s.tentWords.filter fun t => t.ctx != x }
  modTent s fun place es =>
    (es.map fun e => { e with marks := e.marks.filter fun m => m.1 != x }).filter (entryStands s place)

/-- Everything that a context holds in the part goes: warps, blocks, commands, tables, queues. -/
def teardown (s : State) (x : Nat) : State :=
  let s := commitAll s x
  let gone := (s.ops.filter fun o => o.ctx == x).map EngOp.ref
  let s := gone.foldl dropEntries s
  let blks := (s.blocks.filter fun b => b.ctx == x).map (·.id)
  let keys := (s.warps.filter fun w => w.ctx == x).map (·.key)
  let held (m : Matrix) : Bool := match m.holder with | some b => blks.contains b | none => false
  let s := { s with
    ops := s.ops.filter fun o => o.ctx != x
    accesses := s.accesses.filter fun a => a.ctx != x
    maths := s.maths.filter fun m => !keys.contains m.w
    warps := s.warps.filter fun w => w.ctx != x
    groups := s.groups.filter fun g => !keys.contains g.w
    barDue := s.barDue.filter fun d => (s.launchAt d.1.launch).ctx != x
    walks := grantWalks (s.walks.filter fun w => w.ctx != x)
    saved := s.saved.filter fun b => !blks.contains b.blk
    blocks := s.blocks.filter fun b => b.ctx != x
    launches := s.launches.filter fun l => l.ctx != x
    reports := s.reports.filter fun r => r.ctx != x
    queues := mapIf (fun q => q.ctx == x) (fun q => blankQueue q.id) s.queues
    cores := s.cores.map fun c => { c with mat := if held c.mat then { c.mat with holder := none } else c.mat } }
  (forgetCode s x).modCtx x fun c =>
    { blankCtx x with
      record := c.record
      img := c.img
      ctl := c.ctl
      status := c.status }.ctlDone 2

/-- DESTROY: the context stops, and once it has come to rest it is torn down. -/
def execDestroy (x : Nat) (s : State) : Host.Outcome State Fault Refusal :=
  .next (
    if !(s.ctxAt x).live then s.modCtx x fun c => c.ctlDone 2
    else if destroyReady s x then teardown s x
    else abortLaunches (s.modCtx x fun c => { c with stopped := true, ctl := c.ctl ||| 4#32 }) x)

/-! ### Register writes (R358, R359, R362, R363) -/

/-- A 64-bit word of the record header written. -/
def recordWrite (r : BitVec 512) (i : Nat) (v : W64) : BitVec 512 :=
  BitVec.ofNat 512 (r.toNat - recF r (64 * i + 63) (64 * i) * 2 ^ (64 * i) + v.toNat * 2 ^ (64 * i))

/-- A write into a context's record: header, CTL, STATUS, CSR image. -/
def writeRecordReg (s : State) (x r : Nat) (v : W64) : State :=
  if r < 0x40 then s.modCtx x fun c => { c with record := recordWrite c.record (r / 8) v }
  else if r == 0x40 then s.modCtx x fun c => { c with ctl := c.ctl ||| (v.setWidth 32 &&& 0xF#32) }
  else if r == 0x48 then
    s.modCtx x fun c => if v.getLsbD 63 then { c with status := BitVec.ofNat 64 (c.status.toNat % 2 ^ 63) } else c
  else if 0x200 ≤ r then
    s.modCtx x fun c =>
      { c with
        img := smSet (smSet c.img ((r - 0x200) / 4) (v.setWidth 32)) ((r - 0x200) / 4 + 1) ((v >>> 32).setWidth 32) }
  else s

/-- A write of QCTL: LOG2N at the nearest limit, context, ENABLE; a 1 to STOPPED restarts the queue. -/
def writeQctl (s : State) (q : Nat) (v : Nat) : State :=
  let stopped := (s.queueAt q).stopped
  let s := s.modQueue q fun x =>
    { x with
      far := []
      log2n := min 16 (max 1 (v % 32))
      ctx := bitsN v 13 8
      enable := v / 2 ^ 16 % 2 == 1
      stopped := x.stopped && v / 2 ^ 17 % 2 == 0
      cause := if stopped && v / 2 ^ 17 % 2 == 1 then 0 else x.cause }
  pumpQueue s q

/-- A write into a queue's registers. -/
def writeQueueReg (s : State) (q r : Nat) (v : W64) : State :=
  if r == 0 then s.modQueue q fun x => { x with qbase := BitVec.ofNat 64 (v.toNat / 64 * 64), far := [] }
  else if r == 8 then writeQctl s q v.toNat
  else if r == 0x10 then pumpQueue (s.modQueue q fun x => { x with tail := v.setWidth 32 }) q
  else s

/-- A write of 1 to a Kiln command register makes the Kiln busy (R370). -/
def writeKcmd (s : State) (v : W64) : State := (s.setBar0 0x20 v).setBar0 0x38 1#64

/-- A register of BAR0 written by the host; reserved offsets and read-only registers ignore it (R358) (DEDUCED, log 40). -/
def regWrite (s : State) (off : Nat) (v : W64) : State :=
  if off == 0x08 then s.setBar0 off (v &&& 0x03FF03FF#64)
  else if off == 0x10 then s.setBar0 off (v &&& 0x000FFFF000000000#64)
  else if off == 0x18 then s.setBar0 off (v &&& 0xFF#64)
  else if off == 0x20 then writeKcmd s v
  else if off == 0x28 || off == 0x30 then s.setBar0 off v
  else if 0x10000 ≤ off && off < 0x18000 then
    (let p := (off - 0x10000) / 0x1000
     let r := off % 0x1000
     if r < 0x800 && r % 8 == 0 then { s with tenants := smSet s.tenants (p * 256 + r / 8) (v.setWidth 32 &&& 0xFF7F#32) } else s)
  else if 0x100000 ≤ off && off < 0x110000 then
    (if off % 8 == 0 then writeRecordReg s ((off - 0x100000) / 0x400) (off % 0x400) v else s)
  else if 0x200000 ≤ off && off < 0x240000 then writeQueueReg s ((off - 0x200000) / 32) (off % 32) v
  else s

/-- A 64-bit word of a context's record as the host reads it: header, CTL, STATUS, CSR image (R359 to R362). -/
def readRecordReg (c : Ctx) (r : Nat) : W64 :=
  if r < 0x40 then BitVec.ofNat 64 (recF c.record (8 * r + 63) (8 * r))
  else if r == 0x40 then c.ctl.setWidth 64
  else if r == 0x48 then c.status
  else if 0x200 ≤ r then c.imgWord ((r - 0x200) / 4 + 1) ++ c.imgWord ((r - 0x200) / 4)
  else 0

/-- A 64-bit word of a queue's registers as the host reads it (R363). TAIL is written only: it reads as an unspecified value (DESIGN
CHOICE, log 117). -/
def readQueueReg (s : State) (q : Queue) (r : Nat) : W64 :=
  if r == 0 then q.qbase
  else if r == 8 then
    BitVec.ofNat 64 (q.log2n + q.ctx * 2 ^ 8 + (if q.enable then 2 ^ 16 else 0) + (if q.stopped then 2 ^ 17 else 0) + q.cause * 2 ^ 24)
  else if r == 0x10 then q.head ++ Config.freeWord s.free q.id
  else 0

/-- A Kiln log entry as its 256 bits (R369). -/
def LogEntry.bits (e : LogEntry) : Nat :=
  e.ts % 2 ^ 64 * 2 ^ 192 + e.src % 2 ^ 12 * 2 ^ 180 + e.code % 2 ^ 8 * 2 ^ 172 + e.data % 2 ^ 172

/-- A 64-bit register of BAR0 as the host reads it; reserved offsets read as zero (R358, R369). Entry 0 of the Kiln log is the oldest, and
those that have not been written read as zero (DESIGN CHOICE, log 117). -/
def regRead (s : State) (off : Nat) : W64 :=
  if off % 8 != 0 then 0
  else if off ≤ 0x38 then smGet 0#64 s.bar0 off
  else if 0x10000 ≤ off && off < 0x18000 then
    (if off % 0x1000 < 0x800 then (smGet 0#32 s.tenants ((off - 0x10000) / 0x1000 * 256 + off % 0x1000 / 8)).setWidth 64 else 0)
  else if 0x100000 ≤ off && off < 0x110000 then readRecordReg (s.ctxAt ((off - 0x100000) / 0x400)) (off % 0x400)
  else if 0x200000 ≤ off && off < 0x240000 then readQueueReg s (s.queueAt ((off - 0x200000) / 32)) (off % 32)
  else if 0x300000 ≤ off && off < 0x320000 then
    match s.kilnLog[(off - 0x300000) / 32]? with
    | none => 0
    | some e => BitVec.ofNat 64 (e.bits / 2 ^ (8 * (off % 32)))
  else 0

/-- REGISTER_WRITE. -/
def execRegisterWrite (off : Nat) (v : W64) (s : State) : Host.Outcome State Fault Refusal := .next (regWrite s off v)

/-! ### The BAR2 window (R177, R357, R367) -/

/-- The host as an agent: at .dv, of no context (R161) (DEDUCED, log 45). -/
def hostAgent : Agent := ⟨64, none, none, none, none, true, false⟩

/-- The physical address of an offset of the window. -/
def winKey (s : State) (off : Nat) : Nat := (smGet 0#64 s.bar0 0x10).toNat + off

/-- WINKEY. -/
def winTkey (s : State) : Nat := (smGet 0#64 s.bar0 0x18).toNat

/-- The host writes through the window: each write a release at .dv (R177). -/
def hostWrite (s : State) (off n v : Nat) : State :=
  let key := winKey s off
  let s := notePhys (chargeOrdinary (mayEvict s key) key n) key n
  writeAt s key n v (winTkey s) 5 false none hostAgent none

/-- The host reads through the window: each read an acquire at .dv. -/
def hostRead (s : State) (off n : Nat) : State :=
  let key := winKey s off
  let s := scopeCheck (observe (chargeOrdinary (mayEvict s key) key n) key n none) key n 4 hostAgent
  { s with replies := s.replies ++ [⟨8, 0, none, homeRead s key n (winTkey s)⟩] }

/-- HOST_BAR2_ACCESS: 1 to 8 bytes within the window of 64 GiB. -/
def execHostBar2Access (write : Bool) (off bytes : Nat) (v : W64) (s : State) : Host.Outcome State Fault Refusal :=
  .next (
    if bytes == 0 || 8 < bytes || 2 ^ 36 < off + bytes then s
    else (if write then hostWrite s off bytes (v.toNat % 256 ^ bytes) else hostRead s off bytes).useFree)

/-! ### The Kiln (R369 to R371) -/

/-- The command that the Kiln has in hand. -/
def kilnHas (s : State) (code : Nat) : Bool :=
  (smGet 0#64 s.bar0 0x38).getLsbD 0 && (smGet 0#64 s.bar0 0x20).toNat == code

/-- KARG0. -/
def karg0 (s : State) : Nat := (smGet 0#64 s.bar0 0x28).toNat
/-- KARG1. -/
def karg1 (s : State) : Nat := (smGet 0#64 s.bar0 0x30).toNat

/-- The Kiln has finished a command: KSTAT and the log. -/
def kilnDone (s : State) (ok : Bool) (code data : Nat) : State :=
  addLog (s.setBar0 0x38 (if ok then 0#64 else 0xFF00#64)) 4095 code data

/-- The CODE of the log entry of a command for which none is listed: not specified. -/
def freeCode (s : State) : Nat := Config.freeNat s.free 4095 % 256

/-- A Kiln command: nothing unless it is in hand; refused with an argument out of range. -/
def kilnCmd (s : State) (num : Nat) (ok : Bool) (code data : Nat) (f : State → State) : State :=
  if kilnHas s num then (kilnDone (if ok then f s else s) ok code data).useFree else s

/-- REKEY: a new key for an id (R367). -/
def execRekey (s : State) : Host.Outcome State Fault Refusal :=
  .next (kilnCmd s 1 (karg0 s < 256) (freeCode s) (karg0 s % 256) fun s =>
    { s with keyGens := smSet s.keyGens (karg0 s) (smGet 0 s.keyGens (karg0 s) + 1) })

/-- SETDROOP (R314). -/
def execSetdroop (s : State) : Host.Outcome State Fault Refusal :=
  .next (kilnCmd s 2 (1 ≤ karg0 s && karg0 s < 65536) (freeCode s) (karg0 s % 65536) fun s => { s with droopMax := karg0 s })

/-- SETBUCKET: refill and depth of a stack, at most the defaults (R278). -/
def execSetbucket (s : State) : Host.Outcome State Fault Refusal :=
  let a := karg1 s
  .next (kilnCmd s 3 (karg0 s < 8 && bitsN a 31 16 == 0 && bitsN a 63 48 == 0) 2 (karg0 s % 8 + a * 2 ^ 8) fun s =>
    (settleStack s (karg0 s)).modStack (karg0 s) fun k =>
      let depth := min 65536 (bitsN a 47 32 * 1024)
      markBlocked s.clk
        { k with
          refill := min 48 (a % 65536)
          depth := depth
          level := min k.level (Int.ofNat depth) })

/-- Bytes that the Kiln reads through the window. -/
def winBytes (s : State) (off n : Nat) : List Byte :=
  (List.range n).map fun i => BitVec.ofNat 8 (homeRead s (winKey s (off + i)) 1 (winTkey s))

/-- What the Kiln's reads through the window leave: traffic, and the observed bits of tentative words (R278, R287). -/
def winTouch (s : State) (off n : Nat) : State :=
  (List.range (blocks64 (winKey s off) n)).foldl (fun s i => chargeOrdinary s (winKey s off / 64 * 64 + 64 * i) 1)
    (observe s (winKey s off) n none)

/-- FWUPDATE: the inactive bank is written, and it becomes active at the next reset only when its signatures verify (R371). -/
def execFwupdate (s : State) : Host.Outcome State Fault Refusal :=
  .next (kilnCmd s 4 (karg0 s + karg1 s ≤ 2 ^ 36) 6 (karg0 s) fun s =>
    let img := winBytes s (karg0 s) (karg1 s)
    let bank := 1 - s.fwActive
    { winTouch s (karg0 s) (karg1 s) with
      fwBank := smSet s.fwBank bank img
      fwNext := if Config.signed img then bank else s.fwActive })

/-- The evidence for a nonce; it is no longer than the window that it is written through (PRESUMED, log 37). -/
def evidenceFor (nonce : List Byte) (bank : Nat) : List Byte := (Config.evidence nonce bank).take (2 ^ 36)

/-- ATTEST: evidence for a nonce of 64 bytes is written through the window (R371). -/
def execAttest (s : State) : Host.Outcome State Fault Refusal :=
  let ev := evidenceFor (winBytes s (karg0 s) 64) s.fwActive
  .next (kilnCmd s 5 (karg0 s + 64 ≤ 2 ^ 36 && karg1 s + ev.length ≤ 2 ^ 36) (freeCode s) (karg1 s % 2 ^ 64) fun s =>
    ev.zipIdx.foldl (fun s b => hostWrite s (karg1 s + b.2) 1 b.1.toNat) (winTouch s (karg0 s) 64))

/-- KCMD_INVALID: a code that is no command ends with 0xFF. -/
def execKcmdInvalid (s : State) : Host.Outcome State Fault Refusal :=
  let c := (smGet 0#64 s.bar0 0x20).toNat
  .next (if 1 ≤ c && c ≤ 5 then s else kilnCmd s c false (freeCode s) (c % 2 ^ 64) id)

/-- KILN_LOG_MIRROR: flash holds the log as it stands (R369). -/
def execKilnLogMirror (s : State) : Host.Outcome State Fault Refusal := .next { s with flashLog := s.kilnLog }

/-- CXL_PORT_ERROR: a port is down from here on, or answers the next request with poison; both are logged, and so is each request that meets a
port that is down (R368) (DEDUCED, log 43). -/
def execCxlPortError (port : Nat) (poison : Bool) (s : State) : Host.Outcome State Fault Refusal :=
  .next (addLog
    (if poison then { s with cxlPoison := s.cxlPoison ++ [port % 8] }
     else { s with cxlDown := if s.cxlDown.contains (port % 8) then s.cxlDown else s.cxlDown ++ [port % 8] })
    4095 5 (port % 8))

/-! ### Reset (R367, R371, R372) -/

/-- The bank that the Kiln boots: the active one, or the other when that fails to verify (R371, R372). Whether the images in flash verify
as they stand at a reset is not given (DESIGN CHOICE, log 119). -/
def bootBank (s : State) : Nat := if Config.freeBit s.free 4097 then s.fwNext else 1 - s.fwNext

/-- The ports of the second tier that fail at their enumeration (R372): any (DESIGN CHOICE, log 119). -/
def failedPorts (s : State) : List Nat := (List.range 8).filter fun p => Config.freeBit s.free (4098 + p)

/-- RESET: bring-up ends READY, or fails at a step. HBM keeps its bytes, which read as unspecified under the new keys; flash, PODRANK and
what the outside has yet to send stay (DEDUCED, log 42). -/
def execReset (fail : Option Nat) (s : State) : Host.Outcome State Fault Refusal :=
  let boot : W64 := match fail with | none => 0x107#64 | some k => BitVec.ofNat 64 (0x80 + min 6 (k - 1) + 1)
  .next { State.reset with
    agenda := s.agenda
    free := s.free + 1
    mem := s.mem.filter fun c => !isScratchKey c.1
    keyTags := s.keyTags
    keyGens := (List.range 256).map fun k => (k, smGet 0 s.keyGens k + 1)
    flashLog := s.flashLog
    fwBank := s.fwBank
    fwActive := bootBank s
    fwNext := bootBank s
    cxlDown := failedPorts s
    bar0 := [(0, boot), (8, smGet 0#64 s.bar0 8)] }

end Sys2Proof.Machine
end

