-- ==== Sys2Proof/Machine/IntAlu.lean ====
section
/-!
DEFINITION. Integer arithmetic: IADD, ISUB, IMUL, IMULH, IMAD, IDIV, IDOT4, IMIN, IMAX, IABS, INEG, ICMP (R124, R420 to R427).
-/

namespace Sys2Proof.Machine

/-- IADD (R422). -/
def execIadd (h : Hdr) (d a b : Code) (sat : BitVec 2) (s : State) : Host.Outcome State Fault Refusal :=
  .next (fixWord (.iadd h d a b sat) h 2 (fun s l => one d (satOp sat (· + ·) (rd s l a) (rd s l b))) s)

/-- IADD with an immediate: it wraps (R421). -/
def execIaddImm (h : Hdr) (d a : Code) (imm : W32) (s : State) : Host.Outcome State Fault Refusal :=
  .next (fixWord (.iaddImm h d a imm) h 2 (fun s l => one d (rd s l a + imm)) s)

/-- ISUB (R422). -/
def execIsub (h : Hdr) (d a b : Code) (sat : BitVec 2) (s : State) : Host.Outcome State Fault Refusal :=
  .next (fixWord (.isub h d a b sat) h 2 (fun s l => one d (satOp sat (· - ·) (rd s l a) (rd s l b))) s)

/-- ISUB with an immediate: A − IMM32 (R421). -/
def execIsubImm (h : Hdr) (d a : Code) (imm : W32) (s : State) : Host.Outcome State Fault Refusal :=
  .next (fixWord (.isubImm h d a imm) h 2 (fun s l => one d (rd s l a - imm)) s)

/-- IMUL (R422). -/
def execImul (h : Hdr) (d a b : Code) (sat : BitVec 2) (s : State) : Host.Outcome State Fault Refusal :=
  .next (fixWord (.imul h d a b sat) h 4 (fun s l => one d (satOp sat (· * ·) (rd s l a) (rd s l b))) s)

/-- IMUL with an immediate: it wraps (R421). -/
def execImulImm (h : Hdr) (d a : Code) (imm : W32) (s : State) : Host.Outcome State Fault Refusal :=
  .next (fixWord (.imulImm h d a imm) h 4 (fun s l => one d (rd s l a * imm)) s)

/-- Bits [63:32] of the product, natural or signed (R422). -/
def mulHigh (nat : Bool) (a b : W32) : W32 :=
  if nat then BitVec.ofNat 32 (a.toNat * b.toNat / 2 ^ 32) else BitVec.ofInt 32 (a.toInt * b.toInt / 2 ^ 32)

/-- IMULH (R422). -/
def execImulh (h : Hdr) (d a b : Code) (nat : Bool) (s : State) : Host.Outcome State Fault Refusal :=
  .next (fixWord (.imulh h d a b nat) h 4 (fun s l => one d (mulHigh nat (rd s l a) (rd s l b))) s)

/-- IMAD (R422). -/
def execImad (h : Hdr) (d a b c : Code) (s : State) : Host.Outcome State Fault Refusal :=
  .next (fixWord (.imad h d a b c) h 4 (fun s l => one d (rd s l a * rd s l b + rd s l c)) s)

/-- Quotient and remainder of IDIV for all operands (R425). -/
def idivResult (signed rem : Bool) (a b : W32) : W32 :=
  if b == 0 then (if rem then a else 0xFFFFFFFF#32)
  else if signed then
    (if rem then BitVec.ofInt 32 (a.toInt.tmod b.toInt) else BitVec.ofInt 32 (a.toInt.tdiv b.toInt))
  else (if rem then BitVec.ofNat 32 (a.toNat % b.toNat) else BitVec.ofNat 32 (a.toNat / b.toNat))

/-- IDIV: long-latency, no trap for any value (R425). -/
def execIdiv (h : Hdr) (d a b : Code) (signed rem : Bool) (s : State) : Host.Outcome State Fault Refusal :=
  .next (mathWord (.idiv h d a b signed rem) h d false (fun s l => idivResult signed rem (rd s l a) (rd s l b)) s)

/-- Byte `i` of a register as a number, signed or natural. -/
def byteInt (signed : Bool) (v : W32) (i : Nat) : Int :=
  let b : BitVec 8 := v.extractLsb' (8 * i) 8
  if signed then b.toInt else b.toNat

/-- The four products of bytes and the addend (R426). -/
def dot4 (sa sb : Bool) (a b c : W32) : W32 :=
  BitVec.ofInt 32 (byteInt sa a 0 * byteInt sb b 0 + byteInt sa a 1 * byteInt sb b 1 +
    byteInt sa a 2 * byteInt sb b 2 + byteInt sa a 3 * byteInt sb b 3 + c.toInt)

/-- IDOT4 (R426). -/
def execIdot4 (h : Hdr) (d a b c : Code) (sa sb : Bool) (s : State) : Host.Outcome State Fault Refusal :=
  .next (fixWord (.idot4 h d a b c sa sb) h 4 (fun s l => one d (dot4 sa sb (rd s l a) (rd s l b) (rd s l c))) s)

/-- The smaller of two values, natural or signed (R427). -/
def intMin (nat : Bool) (a b : W32) : W32 :=
  if nat then (if b.toNat < a.toNat then b else a) else (if b.toInt < a.toInt then b else a)

/-- The larger of two values, natural or signed (R427). -/
def intMax (nat : Bool) (a b : W32) : W32 :=
  if nat then (if a.toNat < b.toNat then b else a) else (if a.toInt < b.toInt then b else a)

/-- IMIN (R427). -/
def execImin (h : Hdr) (d a b : Code) (nat : Bool) (s : State) : Host.Outcome State Fault Refusal :=
  .next (fixWord (.imin h d a b nat) h 2 (fun s l => one d (intMin nat (rd s l a) (rd s l b))) s)

/-- IMIN with an immediate: signed (R427). -/
def execIminImm (h : Hdr) (d a : Code) (imm : W32) (s : State) : Host.Outcome State Fault Refusal :=
  .next (fixWord (.iminImm h d a imm) h 2 (fun s l => one d (intMin false (rd s l a) imm)) s)

/-- IMAX (R427). -/
def execImax (h : Hdr) (d a b : Code) (nat : Bool) (s : State) : Host.Outcome State Fault Refusal :=
  .next (fixWord (.imax h d a b nat) h 2 (fun s l => one d (intMax nat (rd s l a) (rd s l b))) s)

/-- IMAX with an immediate: signed (R427). -/
def execImaxImm (h : Hdr) (d a : Code) (imm : W32) (s : State) : Host.Outcome State Fault Refusal :=
  .next (fixWord (.imaxImm h d a imm) h 2 (fun s l => one d (intMax false (rd s l a) imm)) s)

/-- IABS (R420). -/
def execIabs (h : Hdr) (d a : Code) (s : State) : Host.Outcome State Fault Refusal :=
  .next (fixWord (.iabs h d a) h 2 (fun s l => one d (BitVec.ofNat 32 (rd s l a).toInt.natAbs)) s)

/-- INEG (R420). -/
def execIneg (h : Hdr) (d a : Code) (s : State) : Host.Outcome State Fault Refusal :=
  .next (fixWord (.ineg h d a) h 2 (fun s l => one d (0#32 - rd s l a)) s)

/-- ICMP (R424). -/
def execIcmp (h : Hdr) (d a b : Code) (cc : BitVec 4) (s : State) : Host.Outcome State Fault Refusal :=
  .next (fixWord (.icmp h d a b cc) h 2 (fun s l => oneP d (icmpTrue cc (rd s l a) (rd s l b))) s)

/-- ICMP with an immediate of 28 bits, sign-extended (R424). -/
def execIcmpImm (h : Hdr) (d a : Code) (cc : BitVec 4) (imm : BitVec 28) (s : State) : Host.Outcome State Fault Refusal :=
  .next (fixWord (.icmpImm h d a cc imm) h 2 (fun s l => oneP d (icmpTrue cc (rd s l a) (imm.signExtend 32))) s)

end Sys2Proof.Machine
end

