-- ==== Sys2Proof/Machine/Lanes.lean ====
section
/-!
DEFINITION. Cross-lane instructions: LSHFL, LBCST, LVOTE, LREDX, LSCAN, LMATCH, LELECT, SPK24, VCOMPACT, and WSYNC (R40, R41,
R127 to R132, R203, R204, R433, R434, R488, R489, R509 to R511).
-/

namespace Sys2Proof.Machine

/-- A cross-lane word: what each active lane writes, from every active lane's operands at issue (R433). -/
def laneWord (i : Instr) (h : Hdr) (f : State → List Lane → Lane → List (Nat × W32)) (s : State) : State :=
  runWord i s fun s c =>
    let act := active s c h
    advance (putFix s c 6 (act.flatMap fun l => (f s act l).map fun v => (l.id, v))) c

/-- The active lane with a number. -/
def actLane (act : List Lane) (j : Int) : Option Lane := act.find? fun l => (l.id : Int) == j

/-- The value of a source lane, or the lane's own when the source is inactive or out of range (R41). -/
def fromLane (s : State) (act : List Lane) (a : Code) (l : Lane) (j : Int) : W32 :=
  rd s ((actLane act j).getD l) a

/-- The source lane of LSHFL (R434). -/
def shuffleSource (mode : BitVec 2) (k : Nat) (l : Nat) (b : W32) : Int :=
  match mode.toNat with
  | 0 => (l ^^^ (32 / 2 ^ k) : Nat)
  | 1 => (l : Int) - (32 / 2 ^ k : Nat)
  | 2 => (l : Int) + (32 / 2 ^ k : Nat)
  | _ => b.toNat

/-- LSHFL (R434); a K outside 1 to 5 raises RANGE (R40). -/
def execLshfl (h : Hdr) (d a b : Code) (k : BitVec 3) (mode : BitVec 2) (s : State) : Host.Outcome State Fault Refusal :=
  .next (runWord (.lshfl h d a b k mode) s fun s c =>
    if mode != 3#2 && (k == 0#3 || 5 < k.toNat) then trapWord s c cRange c.p.mask
    else
      let act := active s c h
      advance (putFix s c 6 (act.map fun l =>
        (l.id, d.toNat, fromLane s act a l (shuffleSource mode k.toNat l.id (rd s l b))))) c)

/-- LBCST (R434). -/
def execLbcst (h : Hdr) (d a b : Code) (first : Bool) (s : State) : Host.Outcome State Fault Refusal :=
  .next (laneWord (.lbcst h d a b first) h (fun s act l =>
    match act.head? with
    | none => []
    | some f => one d (fromLane s act a l (if first then (f.id : Int) else ((rd s f b).toNat : Int)))) s)

/-- The mask of the active lanes that satisfy a condition. -/
def ballot (act : List Lane) (p : Lane → Bool) : W32 := maskOf ((act.filter p).map (·.id))

/-- LVOTE (R434). -/
def execLvote (h : Hdr) (d a : Code) (mode : BitVec 2) (s : State) : Host.Outcome State Fault Refusal :=
  .next (laneWord (.lvote h d a mode) h (fun s act l =>
    match mode.toNat with
    | 0 => one d (ballot act fun j => rdP s j a)
    | 1 => oneP d (act.any fun j => rdP s j a)
    | 2 => oneP d (act.all fun j => rdP s j a)
    | _ => oneP d (act.all fun j => rd s j a == rd s l a)) s)

/-- The 32 values of a reduction: the active lanes' sources, the identity elsewhere (R128). -/
def reduceValues (s : State) (act : List Lane) (fp : W32) (op : BitVec 4) (a : Code) : List W32 :=
  (List.range 32).map fun j =>
    match act.find? fun l => l.id == j with
    | some l => opSource fp op (rd s l a)
    | none => opIdentity fp op

/-- FPCTL of the lowest active lane (R131). -/
def actFpctl (act : List Lane) : W32 := (act.head?.map (·.fpctl)).getD 8#32

/-- LREDX (R128). -/
def execLredx (h : Hdr) (d a : Code) (op : BitVec 4) (s : State) : Host.Outcome State Fault Refusal :=
  .next (laneWord (.lredx h d a op) h (fun s act _ =>
    one d (treeReduce (actFpctl act) op 5 (reduceValues s act (actFpctl act) op a))) s)

/-- The sequential fold over the first `n` values, the identity for none (R129); the values are those that `opSource` gives (DEDUCED, log
16). -/
def scanFold (fp : W32) (op : BitVec 4) (v : List W32) (n : Nat) : W32 :=
  match v.take n with
  | [] => opIdentity fp op
  | x :: r => r.foldl (combine fp op) x

/-- LSCAN (R129). -/
def execLscan (h : Hdr) (d a : Code) (op : BitVec 4) (excl : Bool) (s : State) : Host.Outcome State Fault Refusal :=
  .next (laneWord (.lscan h d a op excl) h (fun s act l =>
    one d (scanFold (actFpctl act) op (reduceValues s act (actFpctl act) op a) (if excl then l.id else l.id + 1))) s)

/-- LMATCH (R434). -/
def execLmatch (h : Hdr) (d a : Code) (w64 : Bool) (s : State) : Host.Outcome State Fault Refusal :=
  .next (laneWord (.lmatch h d a w64) h (fun s act l =>
    one d (ballot act fun j => if w64 then rd64 s j a == rd64 s l a else rd s j a == rd s l a)) s)

/-- LELECT (R434). -/
def execLelect (h : Hdr) (d : Code) (hi : Bool) (s : State) : Host.Outcome State Fault Refusal :=
  .next (laneWord (.lelect h d hi) h (fun _ act l =>
    oneP d (some l.id == if hi then act.getLast?.map (·.id) else act.head?.map (·.id))) s)

/-! ### SPK24 (R488) -/

/-- The bits of an element of SPK24. -/
def spkBits (fmt : BitVec 2) (v : W32) : Nat := if fmt == 0#2 then v.toNat % 65536 else v.toNat % 256

/-- The rank of an element's magnitude: a NaN above every number. -/
def spkMag (fmt : BitVec 2) (x : Nat) : Nat :=
  match fmt.toNat with
  | 0 => x % 32768
  | 1 => if x == 128 then 2 ^ 20 else m8Mag (x % 128)
  | _ => (signedN 8 x).natAbs

/-- BF16 magnitudes rank by their bits, every NaN as one value above infinity. -/
def spkRank (fmt : BitVec 2) (x : Nat) : Nat :=
  if fmt == 0#2 && 0x7F80 < x % 32768 then 0x7F81 else spkMag fmt x

/-- The position of the highest ranked element among some positions, the lower first on a tie. -/
def spkBest (fmt : BitVec 2) (xs : List Nat) (ps : List Nat) : Nat :=
  ps.foldl (fun b p =>
    if b == 4 then p else if spkRank fmt (xs.getD b 0) < spkRank fmt (xs.getD p 0) then p else b) 4

/-- What the lane at position `i` of a group receives (R488). -/
def spkResult (fmt : BitVec 2) (xs : List Nat) (i : Nat) : Nat :=
  let p := spkBest fmt xs [0, 1, 2, 3]
  let q := spkBest fmt xs ([0, 1, 2, 3].filter (· != p))
  match i with
  | 0 => xs.getD (min p q) 0
  | 1 => xs.getD (max p q) 0
  | _ => max p q * 4 + min p q

/-- SPK24 (R488). -/
def execSpk24 (h : Hdr) (d a : Code) (fmt : BitVec 2) (s : State) : Host.Outcome State Fault Refusal :=
  .next (laneWord (.spk24 h d a fmt) h (fun s act l =>
    let xs := (List.range 4).map fun i =>
      match actLane act ((l.id / 4 * 4 + i : Nat) : Int) with
      | some j => spkBits fmt (rd s j a)
      | none => 0
    one d (BitVec.ofNat 32 (spkResult fmt xs (l.id % 4)))) s)

/-! ### VCOMPACT (R510) -/

/-- VCOMPACT (R510, R132). -/
def execVcompact (h : Hdr) (d a b cc : Code) (nc : Bool) (s : State) : Host.Outcome State Fault Refusal :=
  .next (runWord (.vcompact h d a b cc nc) s fun s c =>
    let act := active s c h
    match act with
    | [] => advance s c
    | f :: _ =>
      let kept := act.filter fun l => rdPN s l cc nc
      let base := (rd s f b).toNat % 65536
      let next := min (base + kept.length) 65535
      let vals := act.zipIdx.flatMap fun (l, j) =>
        let got := j < kept.length && base + j ≤ 65535
        (if got then [(l.id, d.toNat, rd s (kept.getD j l) a)] else []) ++
          [(l.id, d.toNat + 1, BitVec.ofNat 32 (next + j * 65536 + (if got then 2 ^ 23 else 0)))]
      let s := if 65535 < base + kept.length then s.setSticky c.w.ctx stCmpovf else s
      advance (putFix s c 6 vals) c)

/-! ### WSYNC (R204) -/

/-- The last lane of a phase has taken part: the phase is complete, and releases at the end of the run. A lane that takes part from then on
begins a new phase, also before that end (DESIGN CHOICE, log 104). -/
def closePhase (ph : SyncPhase) (w : Warp) : Warp := { w with phase := none, closing := w.closing ++ [ph.took] }

/-- WSYNC: the lanes take part at issue, and a phase that they complete releases at their run end (R197); a mask that breaks R204 raises
WSYNCMASK for every lane of the phase. -/
def execWsync (h : Hdr) (a : Code) (s : State) : Host.Outcome State Fault Refusal :=
  .next (runWord (.wsync h a) s fun s c =>
    let act := active s c h
    match act with
    | [] => advance s c
    | f :: _ =>
      let m := activeMask s c h
      let ph := c.w.phase.getD ⟨rd s f a, 0⟩
      let all : SyncPhase := ⟨ph.mask, ph.took ||| m⟩
      if act.all fun l => rd s l a == ph.mask && ph.mask.getLsbD l.id then
        if (lanesOf all.mask).all (syncMet c.w all) then
          advance (noteEff (noteEff (syncEdges (s.modWarp c.key (closePhase all)) c.key all) c (.sync m)) c (.release all.took)) c
        else
          advance (noteEff (s.modWarp c.key fun w => { w with phase := some all }) c (.sync m)) c
      else
        popIssue (raiseWord (s.modWarp c.key fun w => endPhase w all) (raiseHere c cWsyncmask all.took [])))

end Sys2Proof.Machine
end

