-- ==== Sys2Proof/Machine/Special.lean ====
section
/-!
DEFINITION. The special functions (R125, R126). Their exact cases are defined. Elsewhere the part returns one of the values
within a bound around the exact value; which one is `Config.pick` (log 4). The exact value is computed in fixed point to
some 250 bits, far below the half ulp of any binary32 value that the bound could admit or refuse (log 5).
-/

namespace Sys2Proof.Machine

/-! ### Fixed point with 256 fraction bits -/

/-- One in fixed point. -/
def fxOne : Int := 2 ^ 256

/-- Product of two fixed-point numbers. -/
def fxMul (a b : Int) : Int := a * b / fxOne

/-- A magnitude `n` × 2^`e` in fixed point, downward. -/
def fxOf (n : Nat) (e : Int) : Int := n * 2 ^ (e + 256).toNat / 2 ^ (-(e + 256)).toNat

/-- The sum of a power series: term k + 1 is term k times `x`, divided by what `f` gives for k. -/
def fxSeries (x : Int) (f : Nat → Int) (n : Nat) (first : Int) : Int :=
  ((List.range n).foldl (fun (a : Int × Int) k =>
    let t := fxMul a.2 x / f k
    (a.1 + t, t)) (first, first)).1

/-- e^x for a small x. -/
def fxExp (x : Int) : Int := fxSeries x (fun k => k + 1) 80 fxOne

/-- sin x for |x| up to some 4. -/
def fxSin (x : Int) : Int := fxSeries (-(fxMul x x)) (fun k => (2 * k + 2) * (2 * k + 3)) 60 x

/-- cos x for |x| up to some 4. -/
def fxCos (x : Int) : Int := fxSeries (-(fxMul x x)) (fun k => (2 * k + 1) * (2 * k + 2)) 60 fxOne

/-- 2 atanh z for |z| up to 1/3. -/
def fxAtanh2 (z : Int) : Int :=
  let q := fxMul z z
  2 * ((List.range 90).foldl (fun (a : Int × Int) (k : Nat) => (a.1 + a.2 / (2 * (k : Int) + 1), fxMul a.2 q)) (0, z)).1

/-- ln 2. -/
def fxLn2 : Int := fxAtanh2 (fxOne / 3)

/-- atan(1/n). -/
def fxAtanInv (n : Int) : Int :=
  ((List.range 120).foldl (fun (a : Int × Int) (k : Nat) =>
    (a.1 + (if k % 2 == 0 then a.2 / (2 * (k : Int) + 1) else -(a.2 / (2 * (k : Int) + 1))), a.2 / (n * n))) (0, fxOne / n)).1

/-- 2π. -/
def fxTwoPi : Int := 8 * (4 * fxAtanInv 5 - fxAtanInv 239)

/-- 2^x as a fixed-point number in [1, 2) and an exponent. -/
def fxExp2 (x : Int) : Int × Int := (fxExp (fxMul (x % fxOne) fxLn2), x / fxOne)

/-- log2 of `n` × 2^`e`, `n` not 0. -/
def fxLog2 (n : Nat) (e : Int) : Int :=
  let l := n.log2
  let m := fxOf n (-(l : Int))
  ((l : Int) + e) * fxOne + fxAtanh2 ((m - fxOne) * fxOne / (m + fxOne)) * fxOne / fxLn2

/-- tanh x for 0 ≤ x < 10. -/
def fxTanh (x : Int) : Int :=
  let (m, k) := fxExp2 (2 * x * fxOne / fxLn2)
  let t := m * 2 ^ k.toNat
  (t - fxOne) * fxOne / (t + fxOne)

/-- The integer square root, by bits. -/
def isqrt (n : Nat) : Nat :=
  ((List.range 320).reverse).foldl (fun r i => if (r + 2 ^ i) * (r + 2 ^ i) ≤ n then r + 2 ^ i else r) 0

/-! ### The values within a bound (R125) -/

/-- The binary32 value with an order key, the inverse of `floatKey`. -/
def ofKey (k : Int) : W32 := if k < 0 then BitVec.ofNat 32 ((-k - 1).toNat + 2 ^ 31) else BitVec.ofNat 32 k.toNat

/-- Exponent of the ulp at a magnitude `n` × 2^`q` (R125). -/
def ulpExp (n : Nat) (q : Int) : Int := if n == 0 then -149 else max ((n.log2 : Int) + q - 23) (-149)

/-- A signed exact value as a float value. -/
def fvalOf (v q : Int) : FVal := .num (v < 0) v.natAbs q

/-- One of the binary32 values within `k` × 2^`u` of `v` × 2^`q`, chosen by function `fn` and input `x` (R125); where no value is, because the
exact one is beyond the format, the infinity of its sign. -/
def within (fn : Nat) (x : W32) (v q k u : Int) (bounded : Bool) : W32 :=
  let m := min q u
  let a := v * 2 ^ (q - m).toNat
  let b := k * 2 ^ (u - m).toNat
  let lo := floatKey (pack32 2 false (fvalOf (a - b) m))
  let hi := floatKey (pack32 3 false (fvalOf (a + b) m))
  let lo := if bounded then max lo (floatKey 0xBF800000#32) else lo
  let hi := if bounded then min hi (floatKey 0x3F800000#32) else hi
  if hi < lo then pack32 0 false (fvalOf v q) else ofKey (lo + (Config.pick fn x % ((hi - lo).toNat + 1) : Nat))

/-- One of the values within `k` ulp of `v` × 2^`q`. -/
def withinUlp (fn : Nat) (x : W32) (v q k : Int) (bounded : Bool) : W32 :=
  within fn x v q k (ulpExp v.natAbs q) bounded

/-! ### The functions (R126) -/

/-- A power of two `n` × 2^`e`. -/
def isPow2 (n : Nat) : Bool := n == 2 ^ n.log2

/-- RCP of an input. -/
def rcpOf (x : W32) : FVal → W32
  | .nan => dNaN
  | .inf s => if s then 0x80000000#32 else 0#32
  | .num s n e =>
    if n == 0 then (if s then 0xFF800000#32 else 0x7F800000#32)
    else if isPow2 n then pack32 0 false (.num s 1 (-(n.log2 : Int) - e))
    else withinUlp 0 x (if s then -(2 ^ 300 / n : Int) else 2 ^ 300 / n) (-300 - e) 1 false

/-- RSQ of an input. -/
def rsqOf (x : W32) : FVal → W32
  | .nan => dNaN
  | .inf s => if s then dNaN else 0#32
  | .num s n e =>
    if n == 0 then (if s then 0xFF800000#32 else 0x7F800000#32)
    else if s then dNaN
    else
      let (n, e) := if e % 2 == 0 then (n, e) else (2 * n, e - 1)
      withinUlp 1 x (isqrt (2 ^ 600 / n)) (-300 - e / 2) 1 false

/-- SQRT of an input. -/
def sqrtOf (x : W32) : FVal → W32
  | .nan => dNaN
  | .inf s => if s then dNaN else 0x7F800000#32
  | .num s n e =>
    if n == 0 then (if s then 0x80000000#32 else 0#32)
    else if s then dNaN
    else
      let (n, e) := if e % 2 == 0 then (n, e) else (2 * n, e - 1)
      let r := isqrt n
      if r * r == n then pack32 0 false (.num false r (e / 2))
      else withinUlp 2 x (isqrt (n * 2 ^ 400)) (e / 2 - 200) 1 false

/-- EX2 of an input. -/
def ex2Of (x : W32) : FVal → W32
  | .nan => dNaN
  | .inf s => if s then 0#32 else 0x7F800000#32
  | .num s n e =>
    if n == 0 then 0x3F800000#32
    else
      let m := fxOf n e
      let y := if s then -m else m
      if 128 * fxOne ≤ y then 0x7F800000#32
      else if y ≤ -150 * fxOne then 0#32
      else if y % fxOne == 0 then pack32 0 false (.num false 1 (y / fxOne))
      else withinUlp 3 x (fxExp2 y).1 ((fxExp2 y).2 - 256) 1 false

/-- LG2 of an input. -/
def lg2Of (x : W32) : FVal → W32
  | .nan => dNaN
  | .inf s => if s then dNaN else 0x7F800000#32
  | .num s n e =>
    if n == 0 then 0xFF800000#32
    else if s then dNaN
    else if isPow2 n then pack32 0 false (fvalOf ((n.log2 : Int) + e) 0)
    else withinUlp 4 x (fxLog2 n e) (-256) 1 false

/-- sin x for |x| up to some 4: nearer to 0 than x, as it is for x other than 0, so that its ulp is that of its own magnitude. -/
def fxSinIn (x : Int) : Int :=
  let a := min (fxSin x.natAbs) (x.natAbs - 1)
  if x < 0 then -a else a

/-- cos x for |x| up to some 4 and other than 0: below 1. -/
def fxCosIn (x : Int) : Int := min (fxCos x) (fxOne - 1)

/-- SIN or COS of a nonzero finite input, from the fixed-point function (R125). -/
def trigOf (fn : Nat) (f : Int → Int) (x : W32) (s : Bool) (n : Nat) (e : Int) : W32 :=
  let m := fxOf n e
  if 32768 * fxOne < m then within fn x 0 0 1 0 true
  else
    let t := m % fxTwoPi
    let t := if fxTwoPi < 2 * t then t - fxTwoPi else t
    let v := f (if s then -t else t)
    if 2 * m ≤ fxTwoPi then withinUlp fn x v (-256) 2 true else within fn x v (-256) 1 (-21) true

/-- SIN of an input. -/
def sinOf (x : W32) : FVal → W32
  | .nan => dNaN
  | .inf _ => dNaN
  | .num s n e => if n == 0 then (if s then 0x80000000#32 else 0#32) else trigOf 5 fxSinIn x s n e

/-- COS of an input. -/
def cosOf (x : W32) : FVal → W32
  | .nan => dNaN
  | .inf _ => dNaN
  | .num s n e => if n == 0 then 0x3F800000#32 else trigOf 6 fxCosIn x s n e

/-- TANH of an input. The result for 3 × 2^−149 is the one that the table of R497 prints (DEDUCED, log 17). -/
def tanhOf (x : W32) : FVal → W32
  | .nan => dNaN
  | .inf s => if s then 0xBF800000#32 else 0x3F800000#32
  | .num s n e =>
    if n == 0 then (if s then 0x80000000#32 else 0#32)
    else
      let m := fxOf n e
      if 10 * fxOne ≤ m then (if s then 0xBF800000#32 else 0x3F800000#32)
      else if x == 3#32 then 3#32
      else
        let v := min (fxTanh m) (m - 1)
        withinUlp 7 x (if s then -v else v) (-256) 2 true

/-- A special function under an FPCTL word: FTZ on input and output (R112, R125) (PRESUMED, log 5). -/
def special (f : W32 → FVal → W32) (fp x : W32) : W32 :=
  let x := ftzIn (ftzOf fp) x
  ftzIn (ftzOf fp) (f x (unpack32 false x))

/-- RCP (R456). -/
def execRcp (h : Hdr) (d a : Code) (s : State) : Host.Outcome State Fault Refusal :=
  .next (mathWord (.rcp h d a) h d true (fun s l => special rcpOf l.fpctl (rd s l a)) s)

/-- RSQ (R456). -/
def execRsq (h : Hdr) (d a : Code) (s : State) : Host.Outcome State Fault Refusal :=
  .next (mathWord (.rsq h d a) h d true (fun s l => special rsqOf l.fpctl (rd s l a)) s)

/-- SQRT (R490). -/
def execSqrt (h : Hdr) (d a : Code) (s : State) : Host.Outcome State Fault Refusal :=
  .next (mathWord (.sqrt h d a) h d true (fun s l => special sqrtOf l.fpctl (rd s l a)) s)

/-- EX2 (R403). -/
def execEx2 (h : Hdr) (d a : Code) (s : State) : Host.Outcome State Fault Refusal :=
  .next (mathWord (.ex2 h d a) h d true (fun s l => special ex2Of l.fpctl (rd s l a)) s)

/-- LG2 (R441). -/
def execLg2 (h : Hdr) (d a : Code) (s : State) : Host.Outcome State Fault Refusal :=
  .next (mathWord (.lg2 h d a) h d true (fun s l => special lg2Of l.fpctl (rd s l a)) s)

/-- SIN (R484). -/
def execSin (h : Hdr) (d a : Code) (s : State) : Host.Outcome State Fault Refusal :=
  .next (mathWord (.sin h d a) h d true (fun s l => special sinOf l.fpctl (rd s l a)) s)

/-- COS (R391). -/
def execCos (h : Hdr) (d a : Code) (s : State) : Host.Outcome State Fault Refusal :=
  .next (mathWord (.cos h d a) h d true (fun s l => special cosOf l.fpctl (rd s l a)) s)

/-- TANH (R497). -/
def execTanh (h : Hdr) (d a : Code) (s : State) : Host.Outcome State Fault Refusal :=
  .next (mathWord (.tanh h d a) h d true (fun s l => special tanhOf l.fpctl (rd s l a)) s)

end Sys2Proof.Machine
end

