-- ==== Sys2Proof/Machine/System.lean ====
section
/-!
DEFINITION. System words: TRAP, BKPT, TRAPRET, CSRR, CSRW, CLOCK, ICINV, and the barriers BAR, BARA, BARW (R93 to R95, R107,
R198 to R200, R324, R379, R380, R383, R388, R396, R423, R505, R506).
-/

namespace Sys2Proof.Machine

/-- The lanes of a mask that are no participants of a helper body (R383, R505). -/
def outsideBody (c : Cur) (m : Mask) : Mask := m &&& ~~~maskOf ((bodyOf c).map (·.id))

/-- A trap that resumes at the word after; participants of a body go on with the run. -/
def raiseAfter (c : Cur) (cause : Nat) (tl : Mask) : Raise :=
  { raiseHere c cause tl [] with
    mask := outsideBody c c.p.mask
    resume := (c.lanes.filter fun l => (outsideBody c c.p.mask).getLsbD l.id).map fun l => (l.id, resumeNext c) }

/-- The participants of a body that share the path go on past the word. -/
def goOnInBody (s : State) (c : Cur) : State :=
  match bodyOf c with
  | [] => popIssue s
  | l :: r =>
    let m := maskOf ((l :: r).map (·.id))
    advance s { c with lane0 := lowLane m, p := { c.p with mask := m }, lanes := l :: r }

/-- TRAP (R505). -/
def execTrap (h : Hdr) (code : BitVec 16) (s : State) : Host.Outcome State Fault Refusal :=
  .next (runWord (.trap h code) s fun s c =>
    let m := outsideBody c (activeMask s c h)
    if m == 0 then advance s c else goOnInBody (raiseWord s (raiseAfter c cTrap m)) c)

/-- BKPT: a trap, or under DBGCTL.BKHALT a halt with reason 1 (R342, R383). -/
def execBkpt (h : Hdr) (code : BitVec 16) (s : State) : Host.Outcome State Fault Refusal :=
  .next (runWord (.bkpt h code) s fun s c =>
    let m := outsideBody c (activeMask s c h)
    if m == 0 then advance s c
    else if bkHalt s c.w then goOnInBody (haltLanes s c 1 (raiseAfter c cBkpt m)) c
    else goOnInBody (raiseWord s (raiseAfter c cBkpt m)) c)

/-- TRAPRET (R324, R506): it acts at its run end when its guard is true in a handler lane. -/
def execTrapret (h : Hdr) (s : State) : Host.Outcome State Fault Refusal :=
  .next (runWord (.trapret h) s fun s c =>
    let m := activeMask s c h
    if m == 0 then advance s c else advance (noteTransfer s c (.trapret m)) c)

/-! ### Control and status registers (R93 to R96) -/

/-- What CSRR reads in a lane (R95, R96, R350). -/
def readCsr (s : State) (c : Cur) (l : Lane) (n : Nat) : W32 :=
  match csrInfo n with
  | some (.part, _) =>
    if n == 0 then 32#32
    else if (s.ctxFor c.key.core c.w.ctx).priv || (s.ctxFor c.key.core c.w.ctx).pmap then s.profAt c.key.core c.key.part n
    else 0#32
  | some (.thread, _) =>
    if n == 1 then l.wid.setWidth 32
    else if n == 2 then (l.wid >>> 32).setWidth 32
    else if n == 6 then BitVec.ofNat 32 (l.flags % 2 ^ 32)
    else if n == 7 then BitVec.ofNat 32 (l.flags / 2 ^ 32)
    else if n == 0x10 then l.fpctl
    else if n == 0x28 then BitVec.ofNat 32 (if c.p.handler then 128 else l.slim)
    else BitVec.ofNat 32 (if c.p.handler then l.hsdepth else l.sdepth)
  | some (.warp, _) => if n == 3 then placeWord c.key else if n == 5 then c.w.wstat else c.w.helpctl
  | some (.context, _) => (s.ctxFor c.key.core c.w.ctx).readCsr n
  | none => 0#32

/-- CSRR (R95). -/
def execCsrr (h : Hdr) (d : Code) (num : BitVec 12) (s : State) : Host.Outcome State Fault Refusal :=
  .next (runWord (.csrr h d num) s fun s c =>
    advance (putFix s c 4 ((active s c h).map fun l => (l.id, d.toNat, readCsr s c l num.toNat))) c)

/-- A CSRW that R93 refuses: of an RO register, or of a TW register outside the handler path. -/
def csrwPerm (c : Cur) (n : Nat) : Bool :=
  match csrInfo n with
  | some (_, .ro) => true
  | some (_, .tw) => !c.p.handler
  | _ => false

/-- CSRW: the values are read at issue and written at the run end (R93, R94). -/
def execCsrw (h : Hdr) (a : Code) (num : BitVec 12) (s : State) : Host.Outcome State Fault Refusal :=
  .next (runWord (.csrw h a num) s fun s c =>
    if csrwPerm c num.toNat then trapWord s c cPerm c.p.mask
    else advance (noteEff s c (.csrw num.toNat ((active s c h).map fun l => (l.id, rd s l a)))) c)

/-- CLOCK: the global timestamp at issue (R388). -/
def execClock (h : Hdr) (d : Code) (s : State) : Host.Outcome State Fault Refusal :=
  .next (fixWord (.clock h d) h 4 (fun s _ => pair d (BitVec.ofNat 64 s.ts)) s)

/-- ICINV (R107, R423). -/
def execIcinv (h : Hdr) (s : State) : Host.Outcome State Fault Refusal :=
  .next (runWord (.icinv h) s fun s c => advance (noteEff s c (.icinv (activeMask s c h))) c)

/-! ### Barriers (R198 to R200, R379, R380) -/

/-- An earlier word of the run arrives at the same barrier (R380). -/
def arrivedBefore (c : Cur) (lvl : BitVec 2) (num : BitVec 4) : Bool :=
  (c.r.words.take c.r.idx).any fun w =>
    match decode w with
    | .ok (.bar _ l n) => l == lvl && n == num
    | .ok (.bara _ l n) => l == lvl && n == num
    | _ => false

/-- A barrier word: RANGE for a barrier that the launch record does not list, ILLOP for a second arrival in the run; its arrival and
wait fall at the run end. -/
def barWord (i : Instr) (h : Hdr) (kind : Nat) (lvl : BitVec 2) (num : BitVec 4) (s : State) : State :=
  runWord i s fun s c =>
    if kind < 2 && arrivedBefore c lvl num then trapWord s c cIllop c.p.mask
    else if !(s.launchOf c.w).hasBar lvl.toNat num.toNat then trapWord s c cRange c.p.mask
    else advance (noteEff s c (.bar kind lvl.toNat num.toNat (activeMask s c h))) c

/-- BAR (R379). -/
def execBar (h : Hdr) (lvl : BitVec 2) (num : BitVec 4) (s : State) : Host.Outcome State Fault Refusal :=
  .next (barWord (.bar h lvl num) h 0 lvl num s)

/-- BARA (R379). -/
def execBara (h : Hdr) (lvl : BitVec 2) (num : BitVec 4) (s : State) : Host.Outcome State Fault Refusal :=
  .next (barWord (.bara h lvl num) h 1 lvl num s)

/-- BARW (R379). -/
def execBarw (h : Hdr) (lvl : BitVec 2) (num : BitVec 4) (s : State) : Host.Outcome State Fault Refusal :=
  .next (barWord (.barw h lvl num) h 2 lvl num s)

end Sys2Proof.Machine
end

