-- ==== Sys2Proof/Machine/Dispatch.lean ====
section
/-!
DEFINITION. The meaning of every step of the part: one arm per constructor of `Instr`.
-/

namespace Sys2Proof.Machine

/-- One instruction word or one event, executed. -/
def exec (i : Instr) (s : State) : Host.Outcome State Fault Refusal :=
  match i with
  | .iadd h d a b sat => Sys2Proof.Machine.execIadd h d a b sat s
  | .iaddImm h d a imm => Sys2Proof.Machine.execIaddImm h d a imm s
  | .isub h d a b sat => Sys2Proof.Machine.execIsub h d a b sat s
  | .isubImm h d a imm => Sys2Proof.Machine.execIsubImm h d a imm s
  | .imul h d a b sat => Sys2Proof.Machine.execImul h d a b sat s
  | .imulImm h d a imm => Sys2Proof.Machine.execImulImm h d a imm s
  | .imulh h d a b nat => Sys2Proof.Machine.execImulh h d a b nat s
  | .imad h d a b c => Sys2Proof.Machine.execImad h d a b c s
  | .idiv h d a b signed rem => Sys2Proof.Machine.execIdiv h d a b signed rem s
  | .idot4 h d a b c sa sb => Sys2Proof.Machine.execIdot4 h d a b c sa sb s
  | .imin h d a b nat => Sys2Proof.Machine.execImin h d a b nat s
  | .iminImm h d a imm => Sys2Proof.Machine.execIminImm h d a imm s
  | .imax h d a b nat => Sys2Proof.Machine.execImax h d a b nat s
  | .imaxImm h d a imm => Sys2Proof.Machine.execImaxImm h d a imm s
  | .iabs h d a => Sys2Proof.Machine.execIabs h d a s
  | .ineg h d a => Sys2Proof.Machine.execIneg h d a s
  | .and h d a b => Sys2Proof.Machine.execAnd h d a b s
  | .andImm h d a imm => Sys2Proof.Machine.execAndImm h d a imm s
  | .or h d a b => Sys2Proof.Machine.execOr h d a b s
  | .orImm h d a imm => Sys2Proof.Machine.execOrImm h d a imm s
  | .xor h d a b => Sys2Proof.Machine.execXor h d a b s
  | .xorImm h d a imm => Sys2Proof.Machine.execXorImm h d a imm s
  | .not h d a => Sys2Proof.Machine.execNot h d a s
  | .shl h d a b => Sys2Proof.Machine.execShl h d a b s
  | .shlImm h d a imm => Sys2Proof.Machine.execShlImm h d a imm s
  | .shr h d a b => Sys2Proof.Machine.execShr h d a b s
  | .shrImm h d a imm => Sys2Proof.Machine.execShrImm h d a imm s
  | .sar h d a b => Sys2Proof.Machine.execSar h d a b s
  | .sarImm h d a imm => Sys2Proof.Machine.execSarImm h d a imm s
  | .rot h d a b right => Sys2Proof.Machine.execRot h d a b right s
  | .rotImm h d a imm => Sys2Proof.Machine.execRotImm h d a imm s
  | .clz h d a => Sys2Proof.Machine.execClz h d a s
  | .popc h d a => Sys2Proof.Machine.execPopc h d a s
  | .brev h d a => Sys2Proof.Machine.execBrev h d a s
  | .bfx h d a b signed => Sys2Proof.Machine.execBfx h d a b signed s
  | .bfi h d a b c => Sys2Proof.Machine.execBfi h d a b c s
  | .icmp h d a b cc => Sys2Proof.Machine.execIcmp h d a b cc s
  | .icmpImm h d a cc imm => Sys2Proof.Machine.execIcmpImm h d a cc imm s
  | .sel h d a b c nc => Sys2Proof.Machine.execSel h d a b c nc s
  | .mov h d a w64 => Sys2Proof.Machine.execMov h d a w64 s
  | .movi h d imm => Sys2Proof.Machine.execMovi h d imm s
  | .movhi h d a imm => Sys2Proof.Machine.execMovhi h d a imm s
  | .lea h d cbr imm => Sys2Proof.Machine.execLea h d cbr imm s
  | .fadd h d a b => Sys2Proof.Machine.execFadd h d a b s
  | .faddImm h d a imm => Sys2Proof.Machine.execFaddImm h d a imm s
  | .fsub h d a b => Sys2Proof.Machine.execFsub h d a b s
  | .fsubImm h d a imm => Sys2Proof.Machine.execFsubImm h d a imm s
  | .fmul h d a b => Sys2Proof.Machine.execFmul h d a b s
  | .fmulImm h d a imm => Sys2Proof.Machine.execFmulImm h d a imm s
  | .ffma h d a b c => Sys2Proof.Machine.execFfma h d a b c s
  | .fmin h d a b => Sys2Proof.Machine.execFmin h d a b s
  | .fminImm h d a imm => Sys2Proof.Machine.execFminImm h d a imm s
  | .fmax h d a b => Sys2Proof.Machine.execFmax h d a b s
  | .fmaxImm h d a imm => Sys2Proof.Machine.execFmaxImm h d a imm s
  | .fcmp h d a b cc => Sys2Proof.Machine.execFcmp h d a b cc s
  | .fcmpImm h d a cc imm => Sys2Proof.Machine.execFcmpImm h d a cc imm s
  | .fabs h d a => Sys2Proof.Machine.execFabs h d a s
  | .fneg h d a => Sys2Proof.Machine.execFneg h d a s
  | .frnd h d a => Sys2Proof.Machine.execFrnd h d a s
  | .cvt h d a sr dst src => Sys2Proof.Machine.execCvt h d a sr dst src s
  | .rcp h d a => Sys2Proof.Machine.execRcp h d a s
  | .rsq h d a => Sys2Proof.Machine.execRsq h d a s
  | .sqrt h d a => Sys2Proof.Machine.execSqrt h d a s
  | .ex2 h d a => Sys2Proof.Machine.execEx2 h d a s
  | .lg2 h d a => Sys2Proof.Machine.execLg2 h d a s
  | .sin h d a => Sys2Proof.Machine.execSin h d a s
  | .cos h d a => Sys2Proof.Machine.execCos h d a s
  | .tanh h d a => Sys2Proof.Machine.execTanh h d a s
  | .lshfl h d a b k mode => Sys2Proof.Machine.execLshfl h d a b k mode s
  | .lbcst h d a b first => Sys2Proof.Machine.execLbcst h d a b first s
  | .lvote h d a mode => Sys2Proof.Machine.execLvote h d a mode s
  | .lredx h d a op => Sys2Proof.Machine.execLredx h d a op s
  | .lscan h d a op excl => Sys2Proof.Machine.execLscan h d a op excl s
  | .lmatch h d a w64 => Sys2Proof.Machine.execLmatch h d a w64 s
  | .lelect h d hi => Sys2Proof.Machine.execLelect h d hi s
  | .spk24 h d a fmt => Sys2Proof.Machine.execSpk24 h d a fmt s
  | .vcompact h d a b c nc => Sys2Proof.Machine.execVcompact h d a b c nc s
  | .pand h d a b na nb => Sys2Proof.Machine.execPand h d a b na nb s
  | .por h d a b na nb => Sys2Proof.Machine.execPor h d a b na nb s
  | .pxor h d a b na nb => Sys2Proof.Machine.execPxor h d a b na nb s
  | .pnot h d a => Sys2Proof.Machine.execPnot h d a s
  | .wsync h a => Sys2Proof.Machine.execWsync h a s
  | .ld h d a b m => Sys2Proof.Machine.execLd h d a b m s
  | .st h d a b m => Sys2Proof.Machine.execSt h d a b m s
  | .pref h a b m => Sys2Proof.Machine.execPref h a b m s
  | .atom h d a b m => Sys2Proof.Machine.execAtom h d a b m s
  | .cas h d a b m => Sys2Proof.Machine.execCas h d a b m s
  | .red h d a m => Sys2Proof.Machine.execRed h d a m s
  | .stt h d a b m => Sys2Proof.Machine.execStt h d a b m s
  | .retract h d a m => Sys2Proof.Machine.execRetract h d a m s
  | .commit h a m => Sys2Proof.Machine.execCommit h a m s
  | .fenceFull h scope cache => Sys2Proof.Machine.execFenceFull h scope cache s
  | .fenceWb h a b scope cache => Sys2Proof.Machine.execFenceWb h a b scope cache s
  | .mwait h d a b m => Sys2Proof.Machine.execMwait h d a b m s
  | .enter h n => Sys2Proof.Machine.execEnter h n s
  | .leave h => Sys2Proof.Machine.execLeave h s
  | .nop h => Sys2Proof.Machine.execNop h s
  | .bra h woff => Sys2Proof.Machine.execBra h woff s
  | .brc h neg idx woff => Sys2Proof.Machine.execBrc h neg idx woff s
  | .brx h a => Sys2Proof.Machine.execBrx h a s
  | .call h woff => Sys2Proof.Machine.execCall h woff s
  | .callx h a => Sys2Proof.Machine.execCallx h a s
  | .ret h => Sys2Proof.Machine.execRet h s
  | .joinh h n => Sys2Proof.Machine.execJoinh h n s
  | .exit h => Sys2Proof.Machine.execExit h s
  | .yield h => Sys2Proof.Machine.execYield h s
  | .trap h code => Sys2Proof.Machine.execTrap h code s
  | .trapret h => Sys2Proof.Machine.execTrapret h s
  | .bkpt h code => Sys2Proof.Machine.execBkpt h code s
  | .csrr h d num => Sys2Proof.Machine.execCsrr h d num s
  | .csrw h a num => Sys2Proof.Machine.execCsrw h a num s
  | .clock h d => Sys2Proof.Machine.execClock h d s
  | .icinv h => Sys2Proof.Machine.execIcinv h s
  | .bar h lvl num => Sys2Proof.Machine.execBar h lvl num s
  | .bara h lvl num => Sys2Proof.Machine.execBara h lvl num s
  | .barw h lvl num => Sys2Proof.Machine.execBarw h lvl num s
  | .launch h d a b => Sys2Proof.Machine.execLaunch h d a b s
  | .cpy h d a b => Sys2Proof.Machine.execCpy h d a b s
  | .cpyg h d a b c mq slot => Sys2Proof.Machine.execCpyg h d a b c mq slot s
  | .cpyt h d a b c mq slot => Sys2Proof.Machine.execCpyt h d a b c mq slot s
  | .mseat h d a b c i4 sp => Sys2Proof.Machine.execMseat h d a b c i4 sp s
  | .mmul h d a b c p arm slot => Sys2Proof.Machine.execMmul h d a b c p arm slot s
  | .mprom h d c => Sys2Proof.Machine.execMprom h d c s
  | .mread h d a b c => Sys2Proof.Machine.execMread h d a b c s
  | .mclr h d c => Sys2Proof.Machine.execMclr h d c s
  | .mstat h d => Sys2Proof.Machine.execMstat h d s
  | .tdset h a b => Sys2Proof.Machine.execTdset h a b s
  | .tdget h d a => Sys2Proof.Machine.execTdget h d a s
  | .ftest h d a => Sys2Proof.Machine.execFtest h d a s
  | .ftestRaw h d a => Sys2Proof.Machine.execFtestRaw h d a s
  | .fwait h d a => Sys2Proof.Machine.execFwait h d a s
  | .fcancel h a => Sys2Proof.Machine.execFcancel h a s
  | .fcancelRaw h a => Sys2Proof.Machine.execFcancelRaw h a s
  | .snew h d far => Sys2Proof.Machine.execSnew h d far s
  | .sfree h d a => Sys2Proof.Machine.execSfree h d a s
  | .sins h d a b c => Sys2Proof.Machine.execSins h d a b c s
  | .sdel h d a b c => Sys2Proof.Machine.execSdel h d a b c s
  | .smemb h d a b => Sys2Proof.Machine.execSmemb h d a b s
  | .scard h d a => Sys2Proof.Machine.execScard h d a s
  | .sunion h d a b snap => Sys2Proof.Machine.execSunion h d a b snap s
  | .sinter h d a b snap => Sys2Proof.Machine.execSinter h d a b snap s
  | .sdiff h d a b snap => Sys2Proof.Machine.execSdiff h d a b snap s
  | .senum h d a b c => Sys2Proof.Machine.execSenum h d a b c s
  | .srep h d a b => Sys2Proof.Machine.execSrep h d a b s
  | .scost h d a b op snap => Sys2Proof.Machine.execScost h d a b op snap s
  | .tqload h d a => Sys2Proof.Machine.execTqload h d a s
  | .tqry h d a => Sys2Proof.Machine.execTqry h d a s
  | .tqfree h d a => Sys2Proof.Machine.execTqfree h d a s
  | .ired h d a => Sys2Proof.Machine.execIred h d a s
  | .recruit h d a imm => Sys2Proof.Machine.execRecruit h d a imm s
  | .hldr h d a => Sys2Proof.Machine.execHldr h d a s
  | .hrelease h => Sys2Proof.Machine.execHrelease h s
  | .hjoin h d a op => Sys2Proof.Machine.execHjoin h d a op s
  | .partitionIssueClk core part => Sys2Proof.Machine.execPartitionIssueClk core part s
  | .runFetchComplete core part ctx pc => Sys2Proof.Machine.execRunFetchComplete core part ctx pc s
  | .runEnd w lane => Sys2Proof.Machine.execRunEnd w lane s
  | .joinhHoldExpiry w lane => Sys2Proof.Machine.execJoinhHoldExpiry w lane s
  | .yieldExpiry w lane => Sys2Proof.Machine.execYieldExpiry w lane s
  | .longLatencyComplete id => Sys2Proof.Machine.execLongLatencyComplete id s
  | .engineForkRelease core slot => Sys2Proof.Machine.execEngineForkRelease core slot s
  | .engineOpComplete core slot => Sys2Proof.Machine.execEngineOpComplete core slot s
  | .rangeEntryRetire core entry => Sys2Proof.Machine.execRangeEntryRetire core entry s
  | .pageWalkComplete ctx vpage => Sys2Proof.Machine.execPageWalkComplete ctx vpage s
  | .homeAccess r => Sys2Proof.Machine.execHomeAccess r s
  | .l1LineExpiry core line => Sys2Proof.Machine.execL1LineExpiry core line s
  | .stackFillComplete w lane => Sys2Proof.Machine.execStackFillComplete w lane s
  | .mwaitWake id => Sys2Proof.Machine.execMwaitWake id s
  | .barrierRelease b => Sys2Proof.Machine.execBarrierRelease b s
  | .barrierMessage b rank => Sys2Proof.Machine.execBarrierMessage b rank s
  | .trapEntry w => Sys2Proof.Machine.execTrapEntry w s
  | .watchdogTick ctx => Sys2Proof.Machine.execWatchdogTick ctx s
  | .watchdogDeadlock ctx => Sys2Proof.Machine.execWatchdogDeadlock ctx s
  | .linkLost rank => Sys2Proof.Machine.execLinkLost rank s
  | .matrixCommandAccept core slot => Sys2Proof.Machine.execMatrixCommandAccept core slot s
  | .setKeyAppend core slot => Sys2Proof.Machine.execSetKeyAppend core slot s
  | .foldIdleStart ctx idx => Sys2Proof.Machine.execFoldIdleStart ctx idx s
  | .foldPublish ctx idx => Sys2Proof.Machine.execFoldPublish ctx idx s
  | .bucketItemGrant stack => Sys2Proof.Machine.execBucketItemGrant stack s
  | .stackActivationAlert stack ctx table ops lost => Sys2Proof.Machine.execStackActivationAlert stack ctx table ops lost s
  | .remoteRequestReceive port r => Sys2Proof.Machine.execRemoteRequestReceive port r s
  | .remoteErrorResponse id cause => Sys2Proof.Machine.execRemoteErrorResponse id cause s
  | .portSendRound port => Sys2Proof.Machine.execPortSendRound port s
  | .queueDoorbell q tail => Sys2Proof.Machine.execQueueDoorbell q tail s
  | .queueRestart q => Sys2Proof.Machine.execQueueRestart q s
  | .signalWordCheck q => Sys2Proof.Machine.execSignalWordCheck q s
  | .dispatchPlaceBlock => Sys2Proof.Machine.execDispatchPlaceBlock s
  | .placementWaitExpiry launch => Sys2Proof.Machine.execPlacementWaitExpiry launch s
  | .contextSaveComplete blk => Sys2Proof.Machine.execContextSaveComplete blk s
  | .blockRestore blk => Sys2Proof.Machine.execBlockRestore blk s
  | .kilnConeRead rs => Sys2Proof.Machine.execKilnConeRead rs s
  | .launchForward q key rec origin => Sys2Proof.Machine.execLaunchForward q key rec origin s
  | .rankDoneMessage launch rank ok => Sys2Proof.Machine.execRankDoneMessage launch rank ok s
  | .halt w => Sys2Proof.Machine.execHalt w s
  | .resume w => Sys2Proof.Machine.execResume w s
  | .step w path => Sys2Proof.Machine.execStep w path s
  | .stepAll w => Sys2Proof.Machine.execStepAll w s
  | .debugCsrWrite ctx num v => Sys2Proof.Machine.execDebugCsrWrite ctx num v s
  | .create x => Sys2Proof.Machine.execCreate x s
  | .update x => Sys2Proof.Machine.execUpdate x s
  | .destroy x => Sys2Proof.Machine.execDestroy x s
  | .tlbinv x => Sys2Proof.Machine.execTlbinv x s
  | .rekey => Sys2Proof.Machine.execRekey s
  | .setdroop => Sys2Proof.Machine.execSetdroop s
  | .setbucket => Sys2Proof.Machine.execSetbucket s
  | .fwupdate => Sys2Proof.Machine.execFwupdate s
  | .attest => Sys2Proof.Machine.execAttest s
  | .kcmdInvalid => Sys2Proof.Machine.execKcmdInvalid s
  | .hostBar2Access write off bytes v => Sys2Proof.Machine.execHostBar2Access write off bytes v s
  | .registerWrite off v => Sys2Proof.Machine.execRegisterWrite off v s
  | .kilnLogMirror => Sys2Proof.Machine.execKilnLogMirror s
  | .cxlPortError port poison => Sys2Proof.Machine.execCxlPortError port poison s
  | .reset fail => Sys2Proof.Machine.execReset fail s
  | .remoteAcceptance id data => Sys2Proof.Machine.execRemoteAcceptance id data s
  | .writeBackReachedDram line => Sys2Proof.Machine.execWriteBackReachedDram line s
  | .mmulRowTimeElapsed core => Sys2Proof.Machine.execMmulRowTimeElapsed core s
  | .tableCopyRebuilt stack ctx table => Sys2Proof.Machine.execTableCopyRebuilt stack ctx table s

end Sys2Proof.Machine
end

