-- ==== Sys2Proof/Machine/Sched.lean ====
section
/-!
DEFINITION. The order of events that the model takes of itself when the agenda is empty (log 1): one of the orders that the spec allows,
with every delay that is not architectural as short as it can be.
-/

namespace Sys2Proof.Machine

/-- The first event of some lists. -/
def firstOf : List (List Instr) → Option Instr
  | [] => none
  | [] :: r => firstOf r
  | (i :: _) :: _ => some i

/-! ### Host and watchdog -/

/-- Actions that CTL asks for, the Kiln's command in hand, ticks, deadlocks and lost links. -/
def hostEvents (s : State) : List Instr :=
  (s.ctxs.flatMap fun c =>
    (if tickReady s c.num then [.watchdogTick c.num] else []) ++
    (if deadlockReady s c.num then [.watchdogDeadlock c.num] else []) ++
    (if c.ctl.getLsbD 0 then [.create c.num] else []) ++
    (if c.ctl.getLsbD 1 && (c.old.isEmpty || updateSettles s c) then [.update c.num] else []) ++
    (if c.ctl.getLsbD 3 then [.tlbinv c.num] else []) ++
    (if c.ctl.getLsbD 2 && (!c.live || !c.stopped || destroyReady s c.num) then [.destroy c.num] else [])) ++
  (if (smGet 0#64 s.bar0 0x38).getLsbD 0 then
    match (smGet 0#64 s.bar0 0x20).toNat with
    | 1 => [.rekey]
    | 2 => [.setdroop]
    | 3 => [.setbucket]
    | 4 => [.fwupdate]
    | 5 => [.attest]
    | _ => [.kcmdInvalid]
  else []) ++
  (s.lostRanks.filter fun r => s.warps.any fun w => !(s.ctxAt w.ctx).stopped && waitsOnLost s r w).map .linkLost

/-! ### Threads -/

/-- Run ends and trap entries that may come. -/
def runEvents (s : State) : List Instr :=
  s.warps.flatMap fun w =>
    (w.paths.filterMap fun p =>
      match p.ending with
      | some e => if runEndReady s w p e then some (Instr.runEnd w.key (lowLane p.mask)) else none
      | none => none) ++
    (if w.trapReq.isSome && entryReady s w then [.trapEntry w.key] else [])

/-- The runs that paths of a partition could start if they stood in its run buffer. -/
def missingRuns (s : State) (core part : Nat) : List (Nat × W64) :=
  distinct ((warpsIn s core part).flatMap fun w =>
    (w.paths.filter fun p => readyBase s w p && (runOf? s w p).isNone).map fun p => (w.ctx, p.runPc))

/-- The fetch of a partition: into room, or in place of another run when nothing can start and none was fetched in this clk. -/
def fetchEvent (s : State) (core part : Nat) : List Instr :=
  let ms := missingRuns s core part
  let x := s.partAt core part
  if x.runbuf.length < 8 || (x.lastFetch < s.clk && (pickWarp s core part).isNone) then
    match ms[s.clk % max 1 ms.length]? with
    | some m => [.runFetchComplete core part m.1 m.2]
    | none => []
  else []

/-- Stack fills that a word waits for. -/
def fillEvents (s : State) : List Instr :=
  s.warps.flatMap fun w => w.paths.flatMap fun p =>
    match p.inRun with
    | none => []
    | some r =>
      if fillWait w p r then ((w.lanesIn p.mask).filter (needsFill p.handler)).map fun l => Instr.stackFillComplete w.key l.id else []

/-- Walks, results, accesses and waits on words. -/
def memEvents (s : State) : List Instr :=
  (s.walks.filter (·.active)).map (fun w => .pageWalkComplete w.ctx w.page) ++ s.maths.map (fun m => .longLatencyComplete m.id) ++
  (s.accesses.filter (mayLand s)).map (fun a => .longLatencyComplete a.id) ++
  (s.accesses.filter (canPerform s)).map (fun a => .homeAccess (.thread a.id)) ++
  (s.accesses.filter fun a => wakeReady s a && (match a.loc with | .mem _ => true | _ => false)).map (fun a => .mwaitWake a.id)

/-- The barriers at which some lane has arrived. -/
def barKeys (s : State) : List BarKey :=
  distinct ((s.warps ++ s.saved.flatMap (·.warps)).flatMap fun w =>
    let b := s.blockAt w.blk
    w.lanes.flatMap fun l => l.arrived.map fun a =>
      ⟨a.1, b.launch, if a.1 == 0 then b.id else if a.1 == 1 then b.cluster else 0, a.2.1⟩)

/-- Barriers whose phase is complete or may release. -/
def barEvents (s : State) : List Instr :=
  (((s.barDue.map (·.1)).filter (barReady s)) ++
    (barKeys s).filter fun b => (barDueAt? s b).isNone && barComplete s b).map .barrierRelease

/-! ### Engines -/

/-- Steps of engine commands. -/
def opEvents (s : State) : List Instr :=
  s.ops.flatMap fun o =>
    (if forkReady s o then [.engineForkRelease o.core o.slot] else []) ++
    (if isMatrix o.kind && o.state == .queued && acceptMatrix s o != s then [.matrixCommandAccept o.core o.slot] else []) ++
    (if opReady s o then [.engineOpComplete o.core o.slot] else []) ++
    (openSectors s o).map (fun sec => .homeAccess (.sector o.core o.slot sec)) ++
    (if o.kind == .mmul && o.state == .running && o.prog < (rowsNamed o).2 then [.mmulRowTimeElapsed (engCore s o)] else []) ++
    (if keyReady s o then [.setKeyAppend o.core o.slot] else [])

/-- Folds, buckets, tables and range-scoreboard entries. -/
def unitEvents (s : State) : List Instr :=
  (s.ctxs.flatMap fun c => c.sets.flatMap fun e =>
    (if foldDone e then [.foldPublish c.num e.idx] else []) ++ (if foldIdle s e then [.foldIdleStart c.num e.idx] else [])) ++
  (s.hbm.flatMap fun k =>
    (if itemReady s k then [.bucketItemGrant k.id] else []) ++ k.rebuilding.map fun t => .tableCopyRebuilt k.id t.1 t.2) ++
  s.cores.flatMap fun c => (c.ranges.filter (entryDone s)).map fun e => .rangeEntryRetire c.id e.id

/-! ### Lines, ports, dispatch -/

/-- Write-backs, L1 lines at the end of their life, ports with requests or reports. -/
def lineEvents (s : State) : List Instr :=
  s.writeBacks.map (fun l => .writeBackReachedDram l) ++
  (s.cores.flatMap fun c =>
    (c.l1.filter fun e => e.kind != .S && e.filled + Config.l1Life ≤ s.clk).map fun e => .l1LineExpiry c.id e.line) ++
  ((List.range 8).filter fun p =>
    s.reports.any (fun r => r.owner == portOwner p) || (smGet [] s.ports p).any fun t => !t.reqs.isEmpty).map .portSendRound

/-- Queues, placement, waits for cores, saves. -/
def dispatchEvents (s : State) : List Instr :=
  (s.queues.filter (signalReady s)).map (fun q => .signalWordCheck q.id) ++
  (if dispatchReady s then [.dispatchPlaceBlock] else []) ++
  (s.launches.filter fun l => expiryReady s l.id).map (fun l => .placementWaitExpiry l.id) ++
  (s.blocks.filter (saveReady s)).map fun b => .contextSaveComplete b.id

/-- The partition whose clk comes next: one with a resident warp that has not had this clk, else the first. -/
def clkEvent (s : State) : Instr :=
  let ps := residentParts s
  match ps.find? fun p => (s.partAt p.1 p.2).served != some s.clk with
  | some p => .partitionIssueClk p.1 p.2
  | none => (ps.head?.map fun p => Instr.partitionIssueClk p.1 p.2).getD (.partitionIssueClk 0 0)

/-- The event that the model takes of itself (DESIGN CHOICE, log 84). -/
def nextInternal (s : State) : Instr :=
  (firstOf [hostEvents s, runEvents s, (residentParts s).flatMap (fun p => fetchEvent s p.1 p.2), memEvents s, fillEvents s,
    barEvents s, opEvents s, unitEvents s, lineEvents s, dispatchEvents s]).getD (clkEvent s)

end Sys2Proof.Machine
end

