-- ==== Sys2Proof/Machine/Step.lean ====
section
/-!
DEFINITION. One step of the part, and the state in which a given word is the next one to issue (log 1, log 2).
-/

namespace Sys2Proof.Machine

/-- The word whose turn it is, decoded; a word that does not decode raises ILLOP (R88, R89). -/
def issueStep (s : State) : Host.Outcome State Fault Refusal :=
  match cur? s with
  | none => .next (popIssue s)
  | some c =>
    match decode (nextWord c.r) with
    | .error _ => .next (trapWord s c cIllop c.p.mask)
    | .ok i => exec i s

/-- One step: the words that are due in this clk, in their order; else the first event of the agenda; else the event that the model takes of
itself (DESIGN CHOICE, log 1). -/
def step (s : State) : Host.Outcome State Fault Refusal :=
  match s.issueQ with
  | _ :: _ => issueStep s
  | [] =>
    match s.agenda with
    | i :: r => if i.isEvent then exec i { s with agenda := r } else .fault .wordInAgenda
    | [] => exec (nextInternal s) s

/-- The warp slot in which `withFetchWord` places its warp. -/
abbrev fetchKey : WarpKey := ⟨0, 0, 0⟩

/-- A run of one word that has started. -/
def fetchRun (w : W64) : InRun where
  base := 0
  first := 0
  fence := none
  words := [w]
  trailer := trailerFor w
  idx := 0
  dp := 0
  slots := 256
  effs := []
  transfer := .fall

/-- A warp of one thread inside the run of one word. -/
def fetchWarp (w : W64) : Warp :=
  { blankWarp fetchKey with
    nreg := 128
    lanes := [{ blankLane 0 with slim := 4096 }]
    paths := [{ newPath 0 1#32 with inRun := some (fetchRun w) }] }

/-- The state in which a word is the next to issue: the word stands in a started run of the one thread of a warp, whose block, launch and
context run; it stands for a launch that has placed a block and fetched the run (log 2). -/
def State.withFetchWord (s : State) (_nbits w : Nat) : State :=
  { s with
    issueQ := [(fetchKey, 0)]
    warps := fetchWarp (BitVec.ofNat 64 w) :: s.warps.filter (fun v => v.key != fetchKey)
    ctxs := { blankCtx 0 with live := true } :: s.ctxs.filter (fun c => c.num != 0)
    blocks := { blankBlock with warps := [fetchKey], retired := false } :: s.blocks.filter (fun b => b.id != 0)
    launches := { blankLaunch with started := true, placed := 1, liveBlks := 1 } :: s.launches.filter (fun l => l.id != 0) }

end Sys2Proof.Machine
end

