-- ==== Sys2Proof/Safety.lean ====
section
/-!
DEFINITION. What counts as a safe state and a safe step, and the terms in which claims speak of a word's issue: that a word issues, what
its issue leaves alone, and what a word that writes registers after a fixed latency leaves.
-/

namespace Sys2Proof.Machine

/-- Byte storage is in canonical form (log 3). -/
abbrev State.Inv (s : State) : Prop := Memory.wf s.mem = true

/-- The step answers a next state: no fault and no refusal. -/
def runsOn (s : State) : Prop := ∃ t, step s = Host.Outcome.next t

/-- The input of the model is in order: no instruction word stands in the agenda. -/
def agendaOk (s : State) : Prop := ∀ i ∈ s.agenda, i.isEvent = true

/-- A warp has a lane with a number. -/
def Warp.hasLane (w : Warp) (n : Nat) : Prop := ∃ l ∈ w.lanes, l.id = n

/-- A word is the next to issue, with its warp, path, run and lanes, and it passes every check of R89. -/
structure Issues (i : Instr) (s : State) (c : Cur) : Prop where
  cur : cur? s = some c
  ok : wordCheck c i = none

/-- A lane is as before, but for its results in flight and the mark that a watchpoint hit left at the word: every register, predicate,
flag counter, pending register, fault bit and stack entry stands. -/
def LaneKept (l l' : Lane) : Prop := l' = { l with inflight := l'.inflight, noMatch := l'.noMatch }

/-- What the issue of a word leaves of the warps when the run of its path stands at `r` before the path moves on: every other warp is as
before, and of its own warp only lanes and paths change, the path moves past the word, every path without its lanes stands, and each lane
is related to what it was by `R`. -/
structure Issued (s t : State) (c : Cur) (r : InRun) (R : Lane → Lane → Prop) : Prop where
  others : ∀ k, k ≠ c.key → t.warpAt? k = s.warpAt? k
  warp : ∃ w, t.warpAt? c.key = some w ∧ w = { c.w with lanes := w.lanes, paths := w.paths }
  path : (t.warpAt c.key).pathOf? c.lane0 = some (stepRun s.clk { c.p with inRun := some r })
  otherPaths : ∀ n p, c.w.pathOf? n = some p → p.mask.getLsbD c.lane0 = false → (t.warpAt c.key).pathOf? n = some p
  lanes : ∀ n, R (s.laneAt c.key n) (t.laneAt c.key n)

/-- Everything but the warps, after a word that touches nothing else: the queue of due words and the counter of free values. -/
def OnlyWarps (s t : State) : Prop :=
  t = { s with warps := t.warps, issueQ := s.issueQ.drop 1, free := s.free + 1 }

/-- A row of a family of words that write registers: DIST and PRED, the latency, and what an executing lane writes, by operand code and
value (R84). -/
structure Row where
  hdr : Hdr
  lat : Nat
  out : State → Cur → Lane → List (Nat × W32)

/-- The results of a row are in flight: each executing lane has gained exactly what the row gives it, to be written after the latency, and
kept what it had; every other lane has what it had. -/
structure InFlight (s t : State) (c : Cur) (r : Row) : Prop where
  new : ∀ l ∈ active s c r.hdr, ∀ v ∈ r.out s c l, ⟨v.1, v.2, s.clk, s.clk + r.lat⟩ ∈ (t.laneAt c.key l.id).inflight
  old : ∀ n, ∀ x ∈ (s.laneAt c.key n).inflight, x ∈ (t.laneAt c.key n).inflight
  only : ∀ n, ∀ x ∈ (t.laneAt c.key n).inflight, x ∈ (s.laneAt c.key n).inflight ∨
    ∃ l ∈ active s c r.hdr, l.id = n ∧ ∃ v ∈ r.out s c l, x = ⟨v.1, v.2, s.clk, s.clk + r.lat⟩

/-- A word completes as its row says: a next state in which its results are in flight and nothing else of the machine has changed. -/
def Completes (i : Instr) (s : State) (c : Cur) (r : Row) : Prop :=
  ∃ t, exec i s = Host.Outcome.next t ∧ OnlyWarps s t ∧ Issued s t c c.r LaneKept ∧ InFlight s t c r

end Sys2Proof.Machine
end

