-- ==== Sys2Proof/Certificates/Slice0/Obligations.lean ====
section
/-!
DEFINITION. The statements about the model, each `Obligations.<Name> : Prop`, and the tables from which they take what a word computes,
written from the spec's entries with plain word arithmetic.
-/

namespace Sys2Proof.Claims

open Sys2Proof.Machine

/-! ### What register words compute -/

/-- A result under SAT: the wrapped one, or the exact one of signed or of natural operands clamped to the type (R422). -/
def satResult (sat : BitVec 2) (wrapped : W32) (signed natural : Int) : W32 :=
  if sat = 1#2 then BitVec.ofInt 32 (max (-2147483648) (min signed 2147483647))
  else if sat = 2#2 then BitVec.ofInt 32 (max 0 (min natural 4294967295))
  else wrapped

/-- Bits [63:32] of a product of two registers taken as natural or signed numbers (R422). -/
def highProduct (nat : Bool) (x y : W32) : W32 :=
  if nat then ((x.setWidth 64 * y.setWidth 64) >>> 32).setWidth 32
  else ((x.signExtend 64 * y.signExtend 64) >>> 32).setWidth 32

/-- Byte `i` of a register, sign-extended or not. -/
def byteOf (signed : Bool) (x : W32) (i : Nat) : W32 :=
  if signed then (x.extractLsb' (8 * i) 8).signExtend 32 else (x.extractLsb' (8 * i) 8).setWidth 32

/-- The truth of "x cc y" (R424). -/
def compares (cc : BitVec 4) (x y : W32) : Bool :=
  match cc.toNat with
  | 0 => x == y
  | 1 => x != y
  | 2 => x.slt y
  | 3 => x.sle y
  | 4 => y.slt x
  | 5 => y.sle x
  | 6 => x.ult y
  | 7 => x.ule y
  | 8 => y.ult x
  | 9 => y.ule x
  | _ => false

/-- A predicate result as the bit that is written. -/
def bit (b : Bool) : W32 := if b then 1#32 else 0#32

/-- One register or predicate written. -/
def reg (d : Code) (v : W32) : List (Nat × W32) := [(d.toNat, v)]

/-- A pair written, low word first (R7). -/
def regs (d : Code) (lo hi : W32) : List (Nat × W32) := [(d.toNat, lo), (d.toNat + 1, hi)]

/-- Integer arithmetic of fixed latency (R420, R422, R424, R426, R427). -/
def intRow : Instr → Option Row
  | .iadd h d a b sat => some ⟨h, 2, fun s _ l =>
      let x := rd s l a
      let y := rd s l b
      reg d (satResult sat (x + y) (x.toInt + y.toInt) (x.toNat + y.toNat))⟩
  | .iaddImm h d a imm => some ⟨h, 2, fun s _ l => reg d (rd s l a + imm)⟩
  | .isub h d a b sat => some ⟨h, 2, fun s _ l =>
      let x := rd s l a
      let y := rd s l b
      reg d (satResult sat (x - y) (x.toInt - y.toInt) ((x.toNat : Int) - y.toNat))⟩
  | .isubImm h d a imm => some ⟨h, 2, fun s _ l => reg d (rd s l a - imm)⟩
  | .imul h d a b sat => some ⟨h, 4, fun s _ l =>
      let x := rd s l a
      let y := rd s l b
      reg d (satResult sat (x * y) (x.toInt * y.toInt) (x.toNat * y.toNat))⟩
  | .imulImm h d a imm => some ⟨h, 4, fun s _ l => reg d (rd s l a * imm)⟩
  | .imulh h d a b nat => some ⟨h, 4, fun s _ l => reg d (highProduct nat (rd s l a) (rd s l b))⟩
  | .imad h d a b c => some ⟨h, 4, fun s _ l => reg d (rd s l a * rd s l b + rd s l c)⟩
  | .idot4 h d a b c sa sb => some ⟨h, 4, fun s _ l =>
      let x := byteOf sa (rd s l a)
      let y := byteOf sb (rd s l b)
      reg d (x 0 * y 0 + x 1 * y 1 + x 2 * y 2 + x 3 * y 3 + rd s l c)⟩
  | .imin h d a b nat => some ⟨h, 2, fun s _ l =>
      let x := rd s l a
      let y := rd s l b
      reg d (if (if nat then y.ult x else y.slt x) then y else x)⟩
  | .iminImm h d a imm => some ⟨h, 2, fun s _ l => reg d (if imm.slt (rd s l a) then imm else rd s l a)⟩
  | .imax h d a b nat => some ⟨h, 2, fun s _ l =>
      let x := rd s l a
      let y := rd s l b
      reg d (if (if nat then x.ult y else x.slt y) then y else x)⟩
  | .imaxImm h d a imm => some ⟨h, 2, fun s _ l => reg d (if (rd s l a).slt imm then imm else rd s l a)⟩
  | .iabs h d a => some ⟨h, 2, fun s _ l => reg d (if (rd s l a).msb then -(rd s l a) else rd s l a)⟩
  | .ineg h d a => some ⟨h, 2, fun s _ l => reg d (-(rd s l a))⟩
  | .icmp h d a b cc => some ⟨h, 2, fun s _ l => reg d (bit (compares cc (rd s l a) (rd s l b)))⟩
  | .icmpImm h d a cc imm => some ⟨h, 2, fun s _ l => reg d (bit (compares cc (rd s l a) (imm.signExtend 32)))⟩
  | _ => none

/-- The field of BFX: `len` bits from `pos`, sign-extended or not (R382). -/
def fieldOf (signed : Bool) (x : W32) (pos len : Nat) : W32 :=
  let ones := BitVec.ofNat 32 (2 ^ len - 1)
  let f := (x >>> pos) &&& ones
  if len = 0 then 0#32 else if signed && f.getLsbD (len - 1) then f ||| ~~~ones else f

/-- POS and LEN of a control word, the length limited to the register (R381, R382). -/
def posOf (ctl : W32) : Nat := (ctl.extractLsb' 0 5).toNat
/-- LEN of a control word. -/
def lenOf (ctl : W32) : Nat := min (ctl.extractLsb' 8 6).toNat (32 - posOf ctl)

/-- Bit operations, shifts, moves, addresses and selection (R374, R382, R387, R439, R445, R449, R450, R453, R467, R478, R483, R513). -/
def bitRow : Instr → Option Row
  | .and h d a b => some ⟨h, 2, fun s _ l => reg d (rd s l a &&& rd s l b)⟩
  | .andImm h d a imm => some ⟨h, 2, fun s _ l => reg d (rd s l a &&& imm)⟩
  | .or h d a b => some ⟨h, 2, fun s _ l => reg d (rd s l a ||| rd s l b)⟩
  | .orImm h d a imm => some ⟨h, 2, fun s _ l => reg d (rd s l a ||| imm)⟩
  | .xor h d a b => some ⟨h, 2, fun s _ l => reg d (rd s l a ^^^ rd s l b)⟩
  | .xorImm h d a imm => some ⟨h, 2, fun s _ l => reg d (rd s l a ^^^ imm)⟩
  | .not h d a => some ⟨h, 2, fun s _ l => reg d (~~~(rd s l a))⟩
  | .shl h d a b => some ⟨h, 2, fun s _ l =>
      reg d (if 32 ≤ (rd s l b).toNat then 0#32 else rd s l a <<< rd s l b)⟩
  | .shlImm h d a imm => some ⟨h, 2, fun s _ l => reg d (if 32 ≤ imm.toNat then 0#32 else rd s l a <<< imm)⟩
  | .shr h d a b => some ⟨h, 2, fun s _ l =>
      reg d (if 32 ≤ (rd s l b).toNat then 0#32 else rd s l a >>> rd s l b)⟩
  | .shrImm h d a imm => some ⟨h, 2, fun s _ l => reg d (if 32 ≤ imm.toNat then 0#32 else rd s l a >>> imm)⟩
  | .sar h d a b => some ⟨h, 2, fun s _ l => reg d ((rd s l a).sshiftRight (min (rd s l b).toNat 31))⟩
  | .sarImm h d a imm => some ⟨h, 2, fun s _ l => reg d ((rd s l a).sshiftRight (min imm.toNat 31))⟩
  | .rot h d a b right => some ⟨h, 2, fun s _ l =>
      let k := (rd s l b).toNat % 32
      reg d (if right then (rd s l a).rotateRight k else (rd s l a).rotateLeft k)⟩
  | .rotImm h d a imm => some ⟨h, 2, fun s _ l => reg d ((rd s l a).rotateLeft (imm.toNat % 32))⟩
  | .clz h d a => some ⟨h, 2, fun s _ l => reg d (rd s l a).clz⟩
  | .popc h d a => some ⟨h, 2, fun s _ l => reg d (rd s l a).cpop⟩
  | .brev h d a => some ⟨h, 2, fun s _ l => reg d (rd s l a).reverse⟩
  | .bfx h d a b signed => some ⟨h, 2, fun s _ l =>
      reg d (fieldOf signed (rd s l a) (posOf (rd s l b)) (lenOf (rd s l b)))⟩
  | .bfi h d a b c => some ⟨h, 2, fun s _ l =>
      let mask := BitVec.ofNat 32 (2 ^ lenOf (rd s l c) - 1) <<< posOf (rd s l c)
      reg d ((rd s l a &&& ~~~mask) ||| ((rd s l b <<< posOf (rd s l c)) &&& mask))⟩
  | .sel h d a b c nc => some ⟨h, 2, fun s _ l => reg d (if ((rd s l c).getLsbD 0 ^^ nc) then rd s l a else rd s l b)⟩
  | .mov h d a w64 => some ⟨h, 2, fun s _ l =>
      if w64 then (if a = 0x88#8 then regs d 0#32 0#32 else regs d (rd s l a) (rd s l (a + 1#8))) else reg d (rd s l a)⟩
  | .movi h d imm => some ⟨h, 2, fun _ _ _ => reg d imm⟩
  | .movhi h d a imm => some ⟨h, 2, fun s _ l => regs d (rd s l a) imm⟩
  | .lea h d cbr imm => some ⟨h, 2, fun s c _ =>
      let v : W64 := (if cbr then BitVec.ofNat 64 (s.ctxAt c.w.ctx).cbrBase else c.pc) + imm.signExtend 64
      regs d (v.extractLsb' 0 32) (v.extractLsb' 32 32)⟩
  | _ => none

/-- Predicate logic (R452). -/
def predRow : Instr → Option Row
  | .pand h d a b na nb => some ⟨h, 1, fun s _ l => reg d (bit ((rdP s l a ^^ na) && (rdP s l b ^^ nb)))⟩
  | .por h d a b na nb => some ⟨h, 1, fun s _ l => reg d (bit ((rdP s l a ^^ na) || (rdP s l b ^^ nb)))⟩
  | .pxor h d a b na nb => some ⟨h, 1, fun s _ l => reg d (bit ((rdP s l a ^^ na) ^^ (rdP s l b ^^ nb)))⟩
  | .pnot h d a => some ⟨h, 1, fun s _ l => reg d (bit (!rdP s l a))⟩
  | _ => none

/-- Float words of fixed latency, each lane under its own FPCTL (R98, R397 to R399, R406, R407, R411, R412, R415). -/
def floatRow : Instr → Option Row
  | .fadd h d a b => some ⟨h, 4, fun s _ l => reg d (fadd32 l.fpctl (rd s l a) (rd s l b))⟩
  | .faddImm h d a imm => some ⟨h, 4, fun s _ l => reg d (fadd32 l.fpctl (rd s l a) imm)⟩
  | .fsub h d a b => some ⟨h, 4, fun s _ l => reg d (fsub32 l.fpctl (rd s l a) (rd s l b))⟩
  | .fsubImm h d a imm => some ⟨h, 4, fun s _ l => reg d (fsub32 l.fpctl (rd s l a) imm)⟩
  | .fmul h d a b => some ⟨h, 4, fun s _ l => reg d (fmul32 l.fpctl (rd s l a) (rd s l b))⟩
  | .fmulImm h d a imm => some ⟨h, 4, fun s _ l => reg d (fmul32 l.fpctl (rd s l a) imm)⟩
  | .ffma h d a b c => some ⟨h, 4, fun s _ l => reg d (ffma32 l.fpctl (rd s l a) (rd s l b) (rd s l c))⟩
  | .fmin h d a b => some ⟨h, 2, fun s _ l => reg d (fmin32 l.fpctl (rd s l a) (rd s l b))⟩
  | .fminImm h d a imm => some ⟨h, 2, fun s _ l => reg d (fmin32 l.fpctl (rd s l a) imm)⟩
  | .fmax h d a b => some ⟨h, 2, fun s _ l => reg d (fmax32 l.fpctl (rd s l a) (rd s l b))⟩
  | .fmaxImm h d a imm => some ⟨h, 2, fun s _ l => reg d (fmax32 l.fpctl (rd s l a) imm)⟩
  | .fcmp h d a b cc => some ⟨h, 2, fun s _ l => reg d (bit (fcmpTrue l.fpctl cc (rd s l a) (rd s l b)))⟩
  | .fcmpImm h d a cc imm => some ⟨h, 2, fun s _ l =>
      reg d (bit (fcmpTrue l.fpctl cc (rd s l a) (imm.setWidth 32 <<< 4)))⟩
  | .fabs h d a => some ⟨h, 2, fun s _ l => reg d (0#1 ++ (rd s l a).extractLsb' 0 31)⟩
  | .fneg h d a => some ⟨h, 2, fun s _ l => reg d (BitVec.ofBool (!(rd s l a).msb) ++ (rd s l a).extractLsb' 0 31)⟩
  | .frnd h d a => some ⟨h, 4, fun s _ l => reg d (frnd32 l.fpctl (rd s l a))⟩
  | .cvt h d a sr dst src => some ⟨h, 4, fun s c l =>
      let x : W64 := if cvtWide src then rd64 s l a else (rd s l a).setWidth 64
      let y := convert l.fpctl dst src x
      if sr then reg d (srConvert s (active s c h) (dst == 2#4) a l)
      else if cvtWide dst then regs d (y.extractLsb' 0 32) (y.extractLsb' 32 32) else reg d (y.extractLsb' 0 32)⟩
  | _ => none

/-- A word whose bit `j` is what `p` says of lane `j`. -/
def bitsOf (p : Nat → Bool) : W32 := BitVec.ofBoolListLE ((List.range 32).map p)

/-- What an active lane reads from lane `j`, or its own operand when that lane is not active or there is none (R41). -/
def shuffled (s : State) (act : List Lane) (a : Code) (l : Lane) (j : Int) : W32 :=
  match act.find? fun x => (x.id : Int) == j with
  | some x => rd s x a
  | none => rd s l a

/-- Cross-lane words (R434, R488): in terms of the active lanes of the path. -/
def laneRow : Instr → Option Row
  | .lbcst h d a b first => some ⟨h, 6, fun s c l =>
      match active s c h with
      | [] => []
      | f :: r => reg d (shuffled s (f :: r) a l (if first then (f.id : Int) else ((rd s f b).toNat : Int)))⟩
  | .lvote h d a mode => some ⟨h, 6, fun s c l =>
      let act := active s c h
      match mode.toNat with
      | 0 => reg d (bitsOf fun j => act.any fun x => x.id == j && rdP s x a)
      | 1 => reg d (bit (act.any fun x => rdP s x a))
      | 2 => reg d (bit (act.all fun x => rdP s x a))
      | _ => reg d (bit (act.all fun x => rd s x a == rd s l a))⟩
  | .lredx h d a op => some ⟨h, 6, fun s c _ =>
      let act := active s c h
      reg d (treeReduce (actFpctl act) op 5 (reduceValues s act (actFpctl act) op a))⟩
  | .lscan h d a op excl => some ⟨h, 6, fun s c l =>
      let act := active s c h
      reg d (scanFold (actFpctl act) op (reduceValues s act (actFpctl act) op a) (if excl then l.id else l.id + 1))⟩
  | .lmatch h d a w64 => some ⟨h, 6, fun s c l =>
      reg d (bitsOf fun j => (active s c h).any fun x =>
        x.id == j && if w64 then rd64 s x a == rd64 s l a else rd s x a == rd s l a)⟩
  | .lelect h d hi => some ⟨h, 6, fun s c l =>
      let act := active s c h
      reg d (bit (some l.id == if hi then act.getLast?.map (·.id) else act.head?.map (·.id)))⟩
  | .spk24 h d a fmt => some ⟨h, 6, fun s c l =>
      let xs := (List.range 4).map fun i =>
        match (active s c h).find? fun x => x.id == l.id / 4 * 4 + i with
        | some x => spkBits fmt (rd s x a)
        | none => 0
      reg d (BitVec.ofNat 32 (spkResult fmt xs (l.id % 4)))⟩
  | _ => none

/-- Flag counters of a lane from F`first` on, four bits each (R96). -/
def counters (l : Lane) (first n : Nat) : W32 := BitVec.ofNat 32 (sumN ((List.range n).map fun i => l.flag (first + i) % 16 * 16 ^ i))

/-- WSTAT: serial and trap mode, the number of split entries, HALT (R100). -/
def warpStat (w : Warp) : W32 :=
  BitVec.setWidth 32 (BitVec.ofBool w.halt ++ BitVec.ofNat 4 (if w.serial then 0 else w.paths.length) ++ BitVec.ofBool w.trapMode ++
    BitVec.ofBool w.serial)

/-- What a CSR number reads in a lane: the table of R96, with R100 for WSTAT, R346 for the watchpoint and debug registers and R350 for the
counters of the partition. A context-held one reads as the lane's core sees its context, which an UPDATE reaches at a run boundary (R360, log
39), and the counter of clks with no eligible path is the rest of the clks that the other bins leave (R350, log 70). -/
def csrValue (s : State) (c : Cur) (l : Lane) (n : Nat) : W32 :=
  let x := s.ctxFor c.key.core c.w.ctx
  let profile := (0x120 ≤ n ∧ n ≤ 0x130) ∨ (0x140 ≤ n ∧ n ≤ 0x148)
  if n = 0x000 then 32#32
  else if n = 0x001 then l.wid.extractLsb' 0 32
  else if n = 0x002 then l.wid.extractLsb' 32 32
  else if n = 0x003 then BitVec.ofNat 32 (c.key.core + 256 * c.key.part + 1024 * c.key.slot)
  else if n = 0x004 then BitVec.ofNat 32 (x.num % 64 + 256 * x.tkey)
  else if n = 0x005 then warpStat c.w
  else if n = 0x006 then counters l 0 8
  else if n = 0x007 then counters l 8 4
  else if n = 0x010 then l.fpctl
  else if n = 0x012 then c.w.helpctl
  else if n = 0x018 then BitVec.ofNat 32 x.cbrBase
  else if n = 0x019 then BitVec.ofNat 32 (x.cbrBase / 2 ^ 32)
  else if n = 0x028 then BitVec.ofNat 32 (if c.p.handler then 128 else l.slim)
  else if n = 0x029 then BitVec.ofNat 32 (if c.p.handler then l.hsdepth else l.sdepth)
  else if profile then
    (if x.priv = false ∧ x.pmap = false then 0#32
     else if n = 0x120 then s.profAt c.key.core c.key.part n
     else smGet 0#32 (s.partAt c.key.core c.key.part).prof n)
  else if n ∈ [0x011, 0x013, 0x014, 0x015, 0x016, 0x01A, 0x01B, 0x01C, 0x01D, 0x01E, 0x01F, 0x020, 0x021, 0x022, 0x023, 0x024, 0x110, 0x111] ∨
      (0x100 ≤ n ∧ n < 0x110 ∧ n % 4 ≠ 3) then x.csrOf n
  else 0#32

/-- The magnitude by which SPK24 ranks an element: of BF16 by its bits without the sign, of M8 and .s8 by its value, a NaN above every number
(R488). -/
def magnitude (fmt : BitVec 2) (x : Nat) : Nat :=
  if fmt = 0#2 then (if 0x7F80 < x % 32768 then 0x7F81 else x % 32768)
  else if fmt = 1#2 then (if x = 0x80 then 2 ^ 20 else m8Mag (x % 128))
  else (signedN 8 x).natAbs

/-- A position of a group of four is kept: fewer than two others have a larger magnitude, or the same one at a lower position (R488). -/
def keeps (fmt : BitVec 2) (xs : List Nat) (p : Nat) : Prop :=
  (([0, 1, 2, 3].filter fun j => decide (magnitude fmt (xs.getD p 0) < magnitude fmt (xs.getD j 0) ∨
    (magnitude fmt (xs.getD p 0) = magnitude fmt (xs.getD j 0) ∧ j < p))).length) < 2

/-- Words that read the machine's own registers into general ones (R95, R96, R211, R388, R416, R500). -/
def readRow : Instr → Option Row
  | .csrr h d num => some ⟨h, 4, fun s c l => reg d (csrValue s c l num.toNat)⟩
  | .clock h d => some ⟨h, 4, fun s _ _ =>
      let v := BitVec.ofNat 64 s.ts
      regs d (v.extractLsb' 0 32) (v.extractLsb' 32 32)⟩
  | .hldr h d a => some ⟨h, 6, fun s _ l => reg d (rd s l a)⟩
  | .ftest h d a => some ⟨h, 2, fun s _ l => reg d (bit (!(gLane s l).pend.any fun e => e.1 == a.toNat))⟩
  | .tdget h d a => some ⟨h, 4, fun s c l =>
      (List.range 16).map fun i => (d.toNat + i, (descFor s c l (rd s l a).toNat).extractLsb' (32 * i) 32)⟩
  | _ => none

/-- Long-latency arithmetic: the guard, the destination, whether it is a special function, which is queued (R77, R319), and the result (R125,
R126, R425). -/
structure LongRow where
  hdr : Hdr
  dst : Code
  queued : Bool
  val : State → Lane → W32

/-- Quotient or remainder of IDIV (R425). -/
def divided (signed rem : Bool) (x y : W32) : W32 :=
  if y = 0#32 then (if rem then x else 0xFFFFFFFF#32)
  else if signed then (if rem then x.srem y else x.sdiv y)
  else (if rem then x.umod y else x.udiv y)

/-- The words of long-latency arithmetic. -/
def longRow : Instr → Option LongRow
  | .idiv h d a b signed rem => some ⟨h, d, false, fun s l => divided signed rem (rd s l a) (rd s l b)⟩
  | .rcp h d a => some ⟨h, d, true, fun s l => special rcpOf l.fpctl (rd s l a)⟩
  | .rsq h d a => some ⟨h, d, true, fun s l => special rsqOf l.fpctl (rd s l a)⟩
  | .sqrt h d a => some ⟨h, d, true, fun s l => special sqrtOf l.fpctl (rd s l a)⟩
  | .ex2 h d a => some ⟨h, d, true, fun s l => special ex2Of l.fpctl (rd s l a)⟩
  | .lg2 h d a => some ⟨h, d, true, fun s l => special lg2Of l.fpctl (rd s l a)⟩
  | .sin h d a => some ⟨h, d, true, fun s l => special sinOf l.fpctl (rd s l a)⟩
  | .cos h d a => some ⟨h, d, true, fun s l => special cosOf l.fpctl (rd s l a)⟩
  | .tanh h d a => some ⟨h, d, true, fun s l => special tanhOf l.fpctl (rd s l a)⟩
  | _ => none

/-- A lane before a long-latency result of it lands: while its warp waits at trap entry for them, with every fixed-latency result of the
lane written, in the order of their completion (R85, R319). -/
def atEntry (w : Warp) (l : Lane) : Lane :=
  if w.trapReq.isSome ∧ ∀ p ∈ w.paths, p.inRun = none ∧ p.ending = none then
    l.inflight.foldl (fun l f => l.write f.code f.val) { l with inflight := [] }
  else l

/-- A lane as before but for its flag counters: a bound flag of a lane in which the word executes has gone up by one (R78). -/
structure FlagUp (s : State) (c : Cur) (h : Hdr) (flag : Option Nat) (l l' : Lane) : Prop where
  rest : l' = { l with f := l'.f, frel := l'.frel, noMatch := l'.noMatch }
  count : ∀ i, l'.flag i = l.flag i + (if flag = some i ∧ (activeMask s c h).getLsbD l.id = true then 1 else 0)

/-- What a memory word is (R205, R206, R375 to R377, R389, R436, R446, R461, R465, R493, R496): its guard, its form, and each lane's
address, stored data and compare value. -/
structure MemRow where
  hdr : Hdr
  form : MemForm
  addr : State → Lane → W64
  data : State → Lane → W128
  cmp : State → Lane → W64

/-- Bytes of an access by TYPE for LD, ST and the words that take a .b32 or .b64 value (R66). -/
def sizeOf (ty : BitVec 4) : Nat :=
  if ty.toNat < 2 then 1 else if ty.toNat < 4 then 2 else if ty = 4#4 then 4 else if ty = 5#4 then 8 else 16

/-- Bytes of the operand of ATOM and RED (R205): BF16 addition takes 2, the 64-bit forms 8, every other 4. -/
def operandSize (ty : BitVec 4) : Nat := if ty = 10#4 then 2 else if ty = 12#4 ∨ ty = 13#4 then 8 else 4

/-- The form of a memory word: what it does at the home, what it needs of its page, the ACC of its fault records, its size, its fields,
its destination, whether it is bound to a flag, and whether it is a store to watchpoints, an atomic, a tentative word. -/
def formOf (kind : AccKind) (need : Need) (acc n : Nat) (m : MFld) (dst : Nat) (flagged store atomic tent : Bool) : MemForm :=
  ⟨kind, need, acc, n, m, dst, flagged, store, atomic, tent⟩

/-- base + index + signed offset × size, modulo 2^64 (R436). -/
def address (base : W64) (index : W32) (off : BitVec 11) (n : Nat) : W64 :=
  base + index.setWidth 64 + off.signExtend 64 * BitVec.ofNat 64 n

/-- A register, or a pair for 8 bytes, as data. -/
def operand (n : Nat) (b : Code) (s : State) (l : Lane) : W128 :=
  if n = 8 then (rd64 s l b).setWidth 128 else (rd s l b).setWidth 128

/-- Four registers as 16 bytes, lowest first; ZERO is 0. -/
def quad (d : Code) (s : State) (l : Lane) : W128 :=
  if d = 0x88#8 then 0#128 else rd s l (d + 3#8) ++ rd s l (d + 2#8) ++ rd s l (d + 1#8) ++ rd s l d

/-- The memory words that make an access in each executing lane. -/
def memRow : Instr → Option MemRow
  | .ld h d a b m => some ⟨h, formOf .ld .rd 1 (sizeOf m.ty) m d.toNat true false false false,
      fun s l => address (rd64 s l a) (rd s l b) m.off (sizeOf m.ty), fun _ _ => 0, fun _ _ => 0⟩
  | .st h d a b m => some ⟨h, formOf .st .wr 2 (sizeOf m.ty) m 0 false true false false,
      fun s l => address (rd64 s l a) (rd s l b) m.off (sizeOf m.ty),
      fun s l => if sizeOf m.ty = 16 then quad d s l else operand (sizeOf m.ty) d s l, fun _ _ => 0⟩
  | .atom h d a b m => some ⟨h, formOf .atom .rdwr 3 (operandSize m.ty) m d.toNat true true true false,
      fun s l => address (rd64 s l a) 0 m.off (operandSize m.ty), operand (operandSize m.ty) b, fun _ _ => 0⟩
  | .cas h d a b m => some ⟨h, formOf .cas .rdwr 3 (sizeOf m.ty) m d.toNat true true true false,
      fun s l => address (rd64 s l a) 0 m.off (sizeOf m.ty), operand (sizeOf m.ty) b,
      fun s l => (operand (sizeOf m.ty) d s l).setWidth 64⟩
  | .red h d a m => some ⟨h, formOf .red .wr 3 (operandSize m.ty) m 0 false true true false,
      fun s l => address (rd64 s l a) 0 m.off (operandSize m.ty), operand (operandSize m.ty) d, fun _ _ => 0⟩
  | .stt h d a b m => some ⟨h, formOf .stt .wr 4 (sizeOf m.ty) m d.toNat true true false true,
      fun s l => address (rd64 s l a) 0 m.off (sizeOf m.ty), operand (sizeOf m.ty) b, fun _ _ => 0⟩
  | .retract h d a m => some ⟨h, formOf .retract .wr 4 (sizeOf m.ty) m d.toNat true true false true,
      fun s l => address (rd64 s l a) 0 m.off (sizeOf m.ty), fun _ _ => 0, fun _ _ => 0⟩
  | .commit h a m => some ⟨h, formOf .commit .wr 4 (sizeOf m.ty) m 0 false true false true,
      fun s l => address (rd64 s l a) 0 m.off (sizeOf m.ty), fun _ _ => 0, fun _ _ => 0⟩
  | .mwait h d a b m => some ⟨h, formOf .mwait .rd 1 (sizeOf m.ty) m d.toNat true false true false,
      fun s l => address (rd64 s l a) (rd s l b) m.off (sizeOf m.ty), fun _ _ => 0,
      fun s l => (operand (sizeOf m.ty) d s l).setWidth 64⟩
  | _ => none

/-- The pieces of a lane's access: its offset and size. A 16-byte access is two halves (R163). -/
def pieces (n : Nat) (ls : List Lane) : List (Lane × Nat × Nat) :=
  ls.flatMap fun l => if n = 16 then [(l, 0, 8), (l, 8, 8)] else [(l, 0, n)]

/-- An access of the memory system is what a lane's word asks for, at an offset of the lane's address and in a number of bytes. -/
structure Asks (s : State) (c : Cur) (r : MemRow) (piece : Lane × Nat × Nat) (a : Access) : Prop where
  who : a.w = c.key ∧ a.lane = piece.1.id ∧ a.ctx = c.w.ctx ∧ a.wid = piece.1.wid ∧ a.pc = c.pc
  what : a.kind = r.form.kind ∧ a.sem = r.form.fld.sem ∧ a.scope = r.form.fld.scope ∧ a.ty = r.form.fld.ty
  place : ∃ p, checkAccess s c.w r.form piece.1 (r.addr s piece.1).toNat = .ok p ∧ a.page = p.kind ∧ a.loc = p.loc.plus piece.2.1
  addr : a.va = r.addr s piece.1 + BitVec.ofNat 64 piece.2.1 ∧ a.bytes = piece.2.2
  data : a.data.toNat % 256 ^ piece.2.2 = (r.data s piece.1).toNat / 256 ^ piece.2.1 % 256 ^ piece.2.2 ∧ a.cmp = r.cmp s piece.1
  result : a.dst = r.form.dst + piece.2.1 / 4 ∧ a.flag = if r.form.flagged then curFlag c else none
  state : a.st = .pending ∨ (r.form.kind = .stt ∧ a.st = .performed ∧ a.result = 0)

/-- A memory word goes through in every executing lane: no watchpoint matches a store, and every lane passes the checks of its address. -/
def Passes (s : State) (c : Cur) (r : MemRow) : Prop :=
  ∀ l ∈ active s c r.hdr,
    (r.form.store = true → l.noMatch ≠ some c.pc → watchHit (s.ctxAt c.w.ctx) 16 (r.addr s l).toNat r.form.bytes = none) ∧
    ∃ p, checkAccess s c.w r.form l (r.addr s l).toNat = .ok p

/-! ### Run-end words, branches and the stack -/

/-- A word that only leaves a note in its run: when it does, and the run after it. -/
structure NoteRow where
  ok : State → Cur → Prop
  run : State → Cur → InRun

/-- An effect at the run's end (R76). -/
def atEnd (c : Cur) (e : RunEff) : InRun := { c.r with effs := c.r.effs ++ [e] }
/-- The run's control transfer (R75). -/
def goesBy (c : Cur) (t : Transfer) : InRun := { c.r with transfer := t }

/-- The words whose effect falls at the run end: their guards, operands and values are taken at issue (R75, R76, R93, R94, R107, R199, R379,
R380, R404, R430, R448, R457, R506, R514). -/
def noteRow : Instr → Option NoteRow
  | .exit h => some ⟨fun _ _ => True, fun s c => goesBy c (.exit (activeMask s c h))⟩
  | .joinh h n => some ⟨fun _ _ => True, fun s c =>
      if activeMask s c h = 0#32 ∨ c.p.handler = true ∨ bodyOf c ≠ [] then c.r else atEnd c (.joinh n.toNat)⟩
  | .yield h => some ⟨fun _ _ => True, fun s c => if activeMask s c h = 0#32 then c.r else atEnd c .yield⟩
  | .nop _ => some ⟨fun _ _ => True, fun _ c => c.r⟩
  | .trapret h => some ⟨fun _ _ => True, fun s c =>
      if activeMask s c h = 0#32 then c.r else goesBy c (.trapret (activeMask s c h))⟩
  | .csrw h a num => some ⟨fun _ c => csrwPerm c num.toNat = false, fun s c =>
      atEnd c (.csrw num.toNat ((active s c h).map fun l => (l.id, rd s l a)))⟩
  | .icinv h => some ⟨fun _ _ => True, fun s c => atEnd c (.icinv (activeMask s c h))⟩
  | .bar h lvl num => some ⟨fun s c => arrivedBefore c lvl num = false ∧ (s.launchOf c.w).hasBar lvl.toNat num.toNat = true,
      fun s c => atEnd c (.bar 0 lvl.toNat num.toNat (activeMask s c h))⟩
  | .bara h lvl num => some ⟨fun s c => arrivedBefore c lvl num = false ∧ (s.launchOf c.w).hasBar lvl.toNat num.toNat = true,
      fun s c => atEnd c (.bar 1 lvl.toNat num.toNat (activeMask s c h))⟩
  | .barw h lvl num => some ⟨fun s c => (s.launchOf c.w).hasBar lvl.toNat num.toNat = true,
      fun s c => atEnd c (.bar 2 lvl.toNat num.toNat (activeMask s c h))⟩
  | .recruit h d a imm => some ⟨fun _ _ => True, fun s c =>
      goesBy c (.recruit c.p.mask d.toNat ((active s c h).map fun l => (l.id, rd s l a)) (c.pc + imm.signExtend 64 * 8))⟩
  | .hrelease h => some ⟨fun _ _ => True, fun s c => goesBy c (.hrelease (activeMask s c h))⟩
  | .hjoin h d a op => some ⟨fun _ _ => True, fun s c => goesBy c (.hjoin (activeMask s c h) d.toNat a.toNat op.toNat)⟩
  | _ => none

/-- A branch or stack word: when a lane takes it without a fault, the lane after it, and its target if it has one. -/
structure StackRow where
  hdr : Hdr
  ok : State → Cur → Lane → Prop
  after : State → Cur → Lane → Lane
  target : State → Cur → Lane → Option W64

/-- The branch target of a word offset (R385). -/
def branch (c : Cur) (woff : W32) : W64 := c.pc + woff.signExtend 64 * 8
/-- A return entry is pushed: 16 bytes that hold the address of the word after the run's trailer (R158, R159). -/
def pushed (c : Cur) (l : Lane) : Lane :=
  setStack c.p.handler true
    (entriesOf c.p.handler l ++ [⟨depthOf c.p.handler l, true, c.r.base + BitVec.ofNat 64 (8 * (c.r.words.length + 1)), false, false⟩])
    (depthOf c.p.handler l + 16) l
/-- A push of `n` bytes fits under the stack's limit (R159). -/
def fits (c : Cur) (l : Lane) (n : Nat) : Prop := depthOf c.p.handler l + n ≤ limitOf c.p.handler l
/-- The lowest depth that LEAVE may reach: in a helper body, that of the recruitment (R402). -/
def floorOf (l : Lane) : Nat := match l.helper with | some h => if h.inBody then h.sd0 else 0 | none => 0
/-- The top entry of the stack is known, with its kind. -/
def topIs (c : Cur) (l : Lane) (ret : Bool) (e : CtlEntry) : Prop :=
  depthOf c.p.handler l ≠ 0 ∧ (entriesOf c.p.handler l).getLast? = some e ∧ e.anyKind = false ∧ e.clobbered = false ∧ e.ret = ret

/-- Branches, calls, returns and frames (R159, R385, R386, R400 to R402, R440, R463). -/
def stackRow : Instr → Option StackRow
  | .bra h woff => some ⟨h, fun _ _ _ => True, fun _ _ l => l, fun _ c _ => some (branch c woff)⟩
  | .brc h neg idx woff => some ⟨h, fun _ _ _ => True, fun _ _ l => l, fun s c l =>
      if rdP s l (0x90#8 + idx.setWidth 8) != neg then some (branch c woff) else none⟩
  | .brx h a => some ⟨h, fun s _ l => (rd64 s l a).toNat % 8 = 0, fun _ _ l => l, fun s _ l => some (rd64 s l a)⟩
  | .call h woff => some ⟨h, fun _ c l => fits c l 16, fun _ c l => pushed c l, fun _ c _ => some (branch c woff)⟩
  | .callx h a => some ⟨h, fun s c l => fits c l 16 ∧ (rd64 s l a).toNat % 8 = 0, fun _ c l => pushed c l, fun s _ l => some (rd64 s l a)⟩
  | .ret h => some ⟨h, fun _ c l => ∃ e, topIs c l true e ∧ e.val.toNat % 8 = 0,
      fun _ c l => setStack c.p.handler false ((entriesOf c.p.handler l).filter fun e => e.off < depthOf c.p.handler l - 16)
        (depthOf c.p.handler l - 16) l,
      fun _ c l => (entriesOf c.p.handler l).getLast?.map (·.val)⟩
  | .enter h n => some ⟨h, fun _ c l => fits c l (16 + 16 * n.toNat),
      fun _ c l => setStack c.p.handler true
        (entriesOf c.p.handler l ++ [⟨depthOf c.p.handler l, false, BitVec.ofNat 64 (16 * n.toNat), false, false⟩])
        (depthOf c.p.handler l + 16 + 16 * n.toNat) l,
      fun _ _ _ => none⟩
  | .leave h => some ⟨h, fun _ c l => ∃ e, topIs c l false e ∧ floorOf l ≤ depthOf c.p.handler l - (16 + e.val.toNat),
      fun _ c l =>
        let d := depthOf c.p.handler l - (16 + ((entriesOf c.p.handler l).getLast?.map fun e => e.val.toNat).getD 0)
        setStack c.p.handler false ((entriesOf c.p.handler l).filter fun e => e.off < d) d l,
      fun _ _ _ => none⟩
  | _ => none

/-- What a branch or stack word leaves of a lane: in an executing lane the stack of its row, and nothing else. -/
def StackStep (s : State) (c : Cur) (r : StackRow) (l l' : Lane) : Prop :=
  let m := match (active s c r.hdr).find? (fun x => x.id == l.id) with | some x => r.after s c x | none => l
  l' = { l with
    stk := m.stk
    sdepth := m.sdepth
    cached := m.cached
    hstk := m.hstk
    hsdepth := m.hsdepth
    noMatch := l'.noMatch }

/-- The cause that a memory or stack word raises in a lane (R136, R147, R159, R386). -/
structure FaultRow where
  hdr : Hdr
  store : Bool
  cause : State → Cur → Lane → Nat → Prop

/-- The words that raise causes per lane, with conditions under which a lane faults. -/
def faultRow (i : Instr) : Option FaultRow :=
  match memRow i with
  | some r => some ⟨r.hdr, r.form.store, fun s c l k => ∃ va, checkAccess s c.w r.form l (r.addr s l).toNat = .error (k, va)⟩
  | none =>
    match i with
    | .brx h a => some ⟨h, false, fun s _ l k => (rd64 s l a).toNat % 8 ≠ 0 ∧ k = cMisalign⟩
    | .call h _ => some ⟨h, false, fun _ c l k => ¬ fits c l 16 ∧ k = cStack⟩
    | .callx h a => some ⟨h, false, fun s c l k =>
        (¬ fits c l 16 ∧ k = cStack) ∨ (fits c l 16 ∧ (rd64 s l a).toNat % 8 ≠ 0 ∧ k = cMisalign)⟩
    | .enter h n => some ⟨h, false, fun _ c l k => ¬ fits c l (16 + 16 * n.toNat) ∧ k = cStack⟩
    | .ret h => some ⟨h, false, fun _ c l k =>
        (depthOf c.p.handler l = 0 ∨ ∃ e, topIs c l false e) ∧ k = cStack⟩
    | .leave h => some ⟨h, false, fun _ c l k =>
        (depthOf c.p.handler l = 0 ∨ ∃ e, topIs c l true e) ∧ k = cStack⟩
    | _ => none

/-! ### Traps -/

/-- The effects of a run as its trap notes them: each for the lanes that it names (R90). -/
def noted (r : InRun) : List RunEff := r.effs.map (clipEff 0xFFFFFFFF#32)

/-- Everything but the warps, after a word that traps or halts; and of the blocks, those of the warp's cluster that were stopped for
migration are no longer, but stay where they are (R331, R345, log 44). -/
def WarpsAndStay (s t : State) (blk : Nat) : Prop :=
  t = { s with warps := t.warps, issueQ := s.issueQ.drop 1, free := s.free + 1, blocks := t.blocks } ∧
  t.blocks = s.blocks.map fun b =>
    if b.launch = (s.blockAt blk).launch ∧ b.cluster = (s.blockAt blk).cluster ∧ b.saving = some true ∧ b.saved = false then
      { b with saving := none, target := none }
    else b

/-- TRAPBASE and FAULTMODE as the warp's core sees its context. -/
def hasHandler (s : State) (k : WarpKey) (w : Warp) : Prop := (s.ctxFor k.core w.ctx).csr64 0x1C ≠ 0
/-- FAULTMODE is STOP. -/
def faultStops (s : State) (k : WarpKey) (w : Warp) : Prop := ((s.ctxFor k.core w.ctx).csrOf 0x13).getLsbD 0 = false
/-- FBHEAD of the warp's context. -/
def fbHead (s : State) (w : Warp) : W32 := (s.ctxAt w.ctx).csrOf 0x23

/-- The watchpoint `wp` of a context matches byte `b` of its range, for `n` bytes written at an address in a way that bit `kind` of WPnCTL
enables (R346, R347). -/
def Matches (x : Ctx) (kind va n wp b : Nat) : Prop :=
  let base := (x.csrOf (0x100 + 4 * wp)).toNat / 16 * 16 + (x.csrOf (0x101 + 4 * wp)).toNat % 2 ^ 25 * 2 ^ 32
  b < 16 ∧ (x.csrOf (0x102 + 4 * wp)).getLsbD kind = true ∧ (x.csrOf (0x102 + 4 * wp)).getLsbD b = true ∧ va ≤ base + b ∧ base + b < va + n

/-- The lanes of a store word that match a watchpoint, each with the first one and its first byte; a lane that hit at this word does not
match again (R347, R348). -/
def hitLanes (s : State) (c : Cur) (r : MemRow) : List (Nat × Nat × Nat) :=
  (active s c r.hdr).filterMap fun l =>
    if l.noMatch = some c.pc then none
    else (watchHit (s.ctxAt c.w.ctx) 16 (r.addr s l).toNat r.form.bytes).map fun m => (l.id, m)

/-- The warp of a word is halted with a reason, or has the halt to come; it is halted when every path of it stands where the word leaves
it. Its lanes stand at a PC in no run, and no trap has been raised (R341, R342, R344). -/
def Halts (t : State) (c : Cur) (reason : Nat) (pc : W64) : Prop :=
  let w := t.warpAt c.key
  w.trapReq = c.w.trapReq ∧ w.deferred = c.w.deferred ∧
  (c.w.halt = false → c.w.haltReq = none → (w.halt = true ∧ w.reason = reason) ∨ (w.halt = false ∧ w.haltReq = some reason)) ∧
  (c.w.halt = false → c.w.haltReq = none → c.w.paths = [c.p] → w.halt = true ∧ w.reason = reason) ∧
  (c.w.halt = true → c.w.haltReq = none → w.halt = true ∧ w.reason = reason) ∧
  ∀ n, c.w.hasLane n → c.p.mask.getLsbD n = true → (t.laneAt c.key n).pc = pc ∧ (t.laneAt c.key n).run = 0#64

/-- A CSR number's value as it is stored: reserved bits dropped, a field out of its range at its nearest limit (R94, with the fields of R96
to R98 and R346); the low five bits of FBLO are no part of the ring base (log 86). -/
def storedAs (n : Nat) (v : W32) : W32 :=
  if n = 0x010 then v &&& 0x1F#32
  else if n = 0x012 ∨ n = 0x013 then v &&& 1#32
  else if n = 0x014 then BitVec.ofNat 32 (max 4 (v.toNat % 256))
  else if n = 0x020 then v &&& 0xFFFFFFE0#32
  else if n = 0x022 then BitVec.ofNat 32 (min 16 (max 4 (v.toNat % 32)))
  else if n ∈ [0x100, 0x104, 0x108, 0x10C] then v &&& 0xFFFFFFF0#32
  else if n ∈ [0x101, 0x105, 0x109, 0x10D] then v &&& 0x01FFFFFF#32
  else if n ∈ [0x102, 0x106, 0x10A, 0x10E] then v &&& 0x0007FFFF#32
  else if n = 0x110 then v &&& 3#32
  else v

/-- The context-held registers that only trap mode writes (R93, R96, R346). -/
def trapModeCsrs : List Nat :=
  [0x014, 0x015, 0x01A, 0x01B, 0x01C, 0x01D, 0x01E, 0x01F, 0x020, 0x021, 0x022, 0x100, 0x101, 0x102, 0x104, 0x105, 0x106, 0x108, 0x109, 0x10A,
    0x10C, 0x10D, 0x10E, 0x110]

/-- An access alone in its word, in a run of a path that is no handler's, of a warp outside helper mode and trap mode that has no trap to
enter, with a handler and FAULTMODE STOP: a cause raised at the word traps. -/
structure TrapsAlone (s : State) (a : Access) (w : Warp) (p : Path) (r : InRun) : Prop where
  alone : s.accesses.filter (fun b => b.grp == a.grp) = [a]
  warp : s.warpAt? a.w = some w
  path : w.pathOf? a.lane = some p
  run : p.inRun = some r
  lane : a.lane < 32
  plain : p.handler = false ∧ (∀ l ∈ w.lanes, l.helper = none) ∧ w.trapMode = false ∧ w.trapReq = none
  handler : hasHandler s a.w w
  stops : faultStops s a.w w

/-- The word of a refused access has trapped by a cause: its access is over, and the trap waits for its entry (R329, R437). -/
def Refused (s t : State) (a : Access) (w : Warp) (r : InRun) (cause : Nat) : Prop :=
  (∀ b ∈ t.accesses, b.grp ≠ a.grp) ∧
  (t.warpAt a.w).trapReq = some ⟨cause, 0, a.pc, 0, maskOf [a.lane], 0, 0, 0, 1, fbHead s w, noted r⟩

/-! ### Run ends -/

/-- What the run end of a path finds: the warp, the lane's path, its ending, and that it may act. -/
structure Ends (s : State) (k : WarpKey) (n : Nat) (w : Warp) (p : Path) (e : Ending) : Prop where
  warp : s.warpAt? k = some w
  path : w.pathOf? n = some p
  ending : p.ending = some e
  ready : runEndReady s w p e = true

/-- The state in which a run's effects have been applied: the lanes wait for the flags of the run's WAIT, kept effects are spent, and every
effect of the run has acted, and an UPDATE of the context applies on the core (R76, R79, R90, R360). -/
def effected (s : State) (k : WarpKey) (w : Warp) (p : Path) (e : Ending) : State :=
  endUpdate (applyEffs (s.modWarp k fun w => w.mapLanes p.mask fun l =>
    { l with
      kept := if p.handler then l.kept else []
      waitF := e.waitF }) k p.mask (endEffs w p e)) k.core w.ctx

/-- The state in which a trap's frame is written: fixed-latency results are in the registers of every lane, and the run-end effects of the
interrupted run have been settled (R85, R90, R319). -/
def settled (s : State) (k : WarpKey) (r : TrapReq) : State :=
  (oneCsrw 0xFFFFFFFF#32 r.effs).foldl (fun s e => settleEff s k e) (s.modWarp k fun w => w.eachLane Lane.commitAll)

/-! ### Engine words -/

/-- An engine word that sends one command per executing lane (R34, R393, R409, R431, R469, R472 to R481, R487, R491): its guard, its command,
the class of its handle where the spec gives one, Gd, the operands, the ECTL bits, and the tensor identifiers it names. -/
structure SendRow where
  hdr : Hdr
  kind : EngKind
  cls : Option Nat
  dst : Code
  ga : State → Lane → W64
  gb : State → Lane → W64
  gc : State → Lane → W64
  ectl : State → Cur → Nat
  tids : State → Lane → List Nat

/-- No operand. -/
def noOp (_ : State) (_ : Lane) : W64 := 0
/-- A register as a 64-bit operand. -/
def op32 (a : Code) (s : State) (l : Lane) : W64 := (rd s l a).setWidth 64
/-- A pair of registers as an operand. -/
def op64 (a : Code) (s : State) (l : Lane) : W64 := rd64 s l a
/-- No tensor identifier. -/
def noTids (_ : State) (_ : Lane) : List Nat := []
/-- The .mq and SLOT bits of a copy; bit 3 of the model tells that .mq stands in more than one lane (R392, R394). -/
def mqBits (h : Hdr) (mq : Bool) (slot : BitVec 2) (s : State) (c : Cur) : Nat :=
  (if mq then 1 else 0) + 2 * slot.toNat + if mq ∧ 1 < (active s c h).length then 8 else 0
/-- A set command. -/
def setRow (h : Hdr) (kind : EngKind) (d : Code) (ga gb gc : State → Lane → W64) (ectl : Nat) : SendRow :=
  ⟨h, kind, some 2, d, ga, gb, gc, fun _ _ => ectl, noTids⟩
/-- A command of the base dies, with the descriptor that its register names. -/
def stackRowOf (h : Hdr) (kind : EngKind) (cls : Nat) (d a : Code) : SendRow :=
  ⟨h, kind, some cls, d, op32 a, noOp, noOp, fun _ _ => 0, fun s l => [(rd s l a).toNat]⟩

/-- The engine words of one command per lane. -/
def sendRow : Instr → Option SendRow
  | .launch h d a b => some ⟨h, .launch, some 5, d, op64 a, op32 b, noOp, fun _ _ => 0, noTids⟩
  | .cpy h d a b => some ⟨h, .cpy, some 0, d, op32 a, op32 b, noOp, fun _ _ => 0, fun s l => [(rd s l a).toNat, (rd s l b).toNat]⟩
  | .cpyt h d a b c mq slot => some ⟨h, .cpyt, some 0, d, op32 a, op32 b, op32 c, mqBits h mq slot,
      fun s l => [(rd s l a).toNat, (rd s l a).toNat / 256]⟩
  | .cpyg h d a b c mq slot => some ⟨h, .cpyg, some 0, d, op32 a, op32 b, op32 c, mqBits h mq slot,
      fun s l => [(rd s l a).toNat, (rd s l a).toNat]⟩
  | .fwait h d a => some ⟨h, .fwait, none, d, op64 a, noOp, noOp, fun _ _ => 0, noTids⟩
  | .snew h d far => some (setRow h .snew d noOp noOp noOp (if far then 1 else 0))
  | .sfree h d a => some (setRow h .sfree d (op32 a) noOp noOp 0)
  | .sins h d a b c => some (setRow h .sins d (op32 a) (op64 b) (op32 c) 0)
  | .sdel h d a b c => some (setRow h .sdel d (op32 a) (op64 b) (op32 c) 0)
  | .scard h d a => some (setRow h .scard d (op32 a) noOp noOp 0)
  | .sunion h d a b snap => some (setRow h .sunion d (op32 a) (op32 b) noOp (if snap then 1 else 0))
  | .sinter h d a b snap => some (setRow h .sinter d (op32 a) (op32 b) noOp (if snap then 1 else 0))
  | .sdiff h d a b snap => some (setRow h .sdiff d (op32 a) (op32 b) noOp (if snap then 1 else 0))
  | .senum h d a b c => some (setRow h .senum d (op32 a) (op64 b) (op32 c) 0)
  | .srep h d a b => some (setRow h .srep d (op32 a) (op32 b) noOp 0)
  | .scost h d a b op snap => some (setRow h .scost d (op32 a) (op32 b) noOp (op.toNat + if snap then 4 else 0))
  | .tqload h d a => some (stackRowOf h .tqload 3 d a)
  | .tqry h d a => some (stackRowOf h .tqry 3 d a)
  | .tqfree h d a => some (stackRowOf h .tqfree 3 d a)
  | .ired h d a => some (stackRowOf h .ired 4 d a)
  | _ => none

/-- A command as its word sends it: in a free future slot of the core under the slot's next sequence number, for some lanes, with Gd and the
word's address, and held by the fork (R34, R37, R175). -/
structure Sent (s : State) (c : Cur) (kind : EngKind) (lanes : Mask) (dst : Code) (o : EngOp) : Prop where
  what : o.kind = kind ∧ o.lanes = lanes ∧ o.dst = dst.toNat ∧ o.epc = c.pc ∧ o.ctx = c.w.ctx ∧ o.w = c.key ∧ o.blk = c.w.blk
  slot : o.core = c.key.core ∧ o.slot < 256 ∧ s.opAt? o.core o.slot = none
  seq : o.seq = (smGet 0 (s.coreAt c.key.core).seqs o.slot + 1) % 65536

/-- A lane's command by its row. -/
structure Sends (s : State) (c : Cur) (r : SendRow) (l : Lane) (o : EngOp) : Prop where
  sent : Sent s c r.kind (maskOf [l.id]) r.dst o
  ops : o.ga = r.ga s l ∧ o.gb = r.gb s l ∧ o.gc = r.gc s l ∧ o.ectl = r.ectl s c
  descs : o.descs = (r.tids s l).map (descFor s c l)
  held : o.state = .held

/-- A handle: CLASS, slot and sequence number (R34). -/
def handle (cls : Nat) (o : EngOp) : W32 := BitVec.ofNat 4 cls ++ BitVec.ofNat 12 o.slot ++ BitVec.ofNat 16 o.seq

/-- The register of a lane holds the handle of a command, and is pending for it (R34, R35). -/
def Awaits (cls : Option Nat) (d : Code) (l : Lane) (o : EngOp) : Prop :=
  (d.toNat, (⟨o.core, o.slot, o.seq⟩ : FutRef)) ∈ l.pend ∧ ∃ k < 16, (∀ j, cls = some j → k = j) ∧ smGet 0#32 l.g d.toNat = handle k o

/-- What an engine word leaves of a lane: only Gd and the pending marks change, and those only where it executes. -/
def LaneSent (s : State) (c : Cur) (h : Hdr) (d : Code) (l l' : Lane) : Prop :=
  l' = { l with g := l'.g, pend := l'.pend, noMatch := l'.noMatch } ∧
  (∀ j, j ≠ d.toNat → smGet 0#32 l'.g j = smGet 0#32 l.g j) ∧ (∀ e ∈ l.pend, e ∈ l'.pend) ∧
  ((activeMask s c h).getLsbD l.id = false → l'.g = l.g ∧ l'.pend = l.pend)

/-- Everything but the warps, the commands, and the sequence numbers and range-scoreboard entries of the cores. -/
def OnlyEngines (s t : State) : Prop :=
  t = { s with
    warps := t.warps
    issueQ := s.issueQ.drop 1
    free := s.free + 1
    ops := t.ops
    cores := t.cores
    nextId := t.nextId } ∧
  ∀ k, t.coreAt k = { s.coreAt k with seqs := (t.coreAt k).seqs, ranges := (t.coreAt k).ranges }

/-- The future slots of the issuing core that no command holds. -/
def slotsLeft (s : State) (c : Cur) : Nat := ((List.range 256).filter fun i => (s.opAt? c.key.core i).isNone).length

/-- An engine word that sends one command per path, with the operands of the lowest executing lane (R37, R250, R261, R265, R442, R485). -/
structure PathRow where
  hdr : Hdr
  kind : EngKind
  cls : Nat
  dst : Code
  ga : State → Lane → W64
  gb : State → Lane → W64
  gc : State → Lane → W64
  ectl : Nat
  ok : State → Lane → Prop

/-- The engine words of one command per path; MSEAT under a condition that rules its duplicate trap out (R255), MMUL without .arm. -/
def pathRow : Instr → Option PathRow
  | .mseat h d a b c i4 sp => some ⟨h, .mseat, 1, d, op32 a, op32 b, op32 c, (if i4 then 1 else 0) + (if sp then 2 else 0),
      fun _ l => sp = false ∨ l.fpctl.getLsbD 4 = false⟩
  | .mmul h d a b c p arm slot =>
    if arm then none else some ⟨h, .mmul, 1, d, op32 a, op32 b, op32 c, p.toNat + 32 * slot.toNat, fun _ _ => True⟩
  | .mprom h d c => some ⟨h, .mprom, 1, d, noOp, noOp, op32 c, 0, fun _ _ => True⟩
  | .mclr h d c => some ⟨h, .mclr, 1, d, noOp, noOp, op32 c, 0, fun _ _ => True⟩
  | .mread h d a b c => some ⟨h, .mread, 1, d, op32 a, op32 b, op32 c, 0, fun _ _ => True⟩
  | .mstat h d => some ⟨h, .mstat, 1, d, noOp, noOp, noOp, 0, fun _ _ => True⟩
  | .smemb h d _ _ => some ⟨h, .smemb, 2, d, noOp, noOp, noOp, 0, fun _ _ => True⟩
  | _ => none

/-! ### The memory system -/

/-- An access of a thread that may be performed, at a word of byte storage. -/
structure AtHome (s : State) (a : Access) (key : Nat) : Prop where
  there : s.accesses.find? (fun x => x.id == a.id) = some a
  ready : canPerform s a = true
  loc : a.loc = .mem key
  port : failedPort? s a = none
  flat : isScratchKey key = false ∧ anyForeign s key a.bytes a.tkey = false

/-- The access has its result, and waits for its register. -/
def Answers (t : State) (a : Access) (v : Nat) : Prop := ∃ b ∈ t.accesses, b.id = a.id ∧ b.st = .performed ∧ b.result = BitVec.ofNat 128 v

/-- A tentative word of the access's thread. -/
def ownWord (a : Access) (key : Nat) (x : TentWord) : Prop := x.key = key ∧ x.ctx = a.ctx ∧ x.wid = a.wid

/-- What the result of an access leaves in its registers: sub-words of LD extended by TYPE, a pair for 8 bytes, one register else (R66,
R205, R436). -/
def arrived (a : Access) : List (Nat × W32) :=
  let v := a.result
  if a.kind = .ld ∧ a.ty = 1#4 then [(a.dst, (v.extractLsb' 0 8).signExtend 32)]
  else if a.kind = .ld ∧ a.ty = 3#4 then [(a.dst, (v.extractLsb' 0 16).signExtend 32)]
  else if a.bytes = 8 then [(a.dst, v.extractLsb' 0 32), (a.dst + 1, v.extractLsb' 32 32)]
  else if a.bytes = 1 then [(a.dst, (v.extractLsb' 0 8).setWidth 32)]
  else if a.bytes = 2 then [(a.dst, (v.extractLsb' 0 16).setWidth 32)]
  else [(a.dst, v.extractLsb' 0 32)]

/-! ### Logs and directory entries -/

/-- The log with an entry: it stands behind those of earlier events, before the last ones of its timestamp with a higher source, and the
newest 4,096 remain (R351, R369). -/
def Logged (l l' : List LogEntry) (e : LogEntry) : Prop :=
  ∃ a b, l = a ++ b ∧ l' = (a ++ e :: b).drop (l.length + 1 - 4096) ∧ (∀ x ∈ b, x.ts = e.ts ∧ e.src < x.src) ∧
    ∀ x, a.getLast? = some x → ¬ (x.ts = e.ts ∧ e.src < x.src)

/-- No byte changes but the 128 of a directory entry. -/
def EntryOnly (s t : State) (x heap idx : Nat) : Prop :=
  s.Inv → ∀ a, (∀ p, translate s (s.ctxAt x) (entryAt heap idx) .wr = .ok p → a < p.key ∨ p.key + 128 ≤ a) → memGet t.mem a = memGet s.mem a

/-- Of the sets of a context, only the entry of an index of a heap has changed. -/
def OneEntry (s t : State) (x heap idx : Nat) (e : SetEntry) : Prop :=
  e ∈ (t.ctxAt x).sets ∧ ∀ q ∈ (s.ctxAt x).sets, ¬ (q.heap = heap ∧ q.idx = idx) → q ∈ (t.ctxAt x).sets

/-- The commands of the engines are as before but for the spans for which they have waited for tokens (R278). -/
def SameOps (s t : State) : Prop := (t.ops.map fun o => { o with waits := [] }) = s.ops.map fun o => { o with waits := [] }

/-- A command has ended with a sub-cause, and nothing else has changed but the counter of free values and what a port of the second tier
that answered with an error has logged or used up (R368). -/
def EndsWith (s t : State) (o : EngOp) (sub : Nat) : Prop :=
  t = { s with ops := t.ops, kilnLog := t.kilnLog, cxlPoison := t.cxlPoison, free := s.free + 1 } ∧
  t.ops = (s.modOp o.core o.slot fun q => { q with state := .fault sub }).ops

/-- What a queue does that goes on as `Q` (R301, R305, R363, R518): one that may not run, or has no record to take, does nothing; TAIL too
far past HEAD stops it with code 6, and a record in hand lets it wait; a next record that cannot be read stops it with code 7, and one that
stands in this device is taken: it is rejected with the lowest code of a failed check, which stops the queue, or becomes a launch, which
starts or waits for its signal. -/
def GoesOn (s t : State) (q : Nat) (Q : Queue) : Prop :=
  let runs := Q.enable = true ∧ Q.stopped = false ∧ Q.head ≠ Q.tail ∧ (s.ctxAt Q.ctx).live = true ∧ (s.ctxAt Q.ctx).stopped = false
  let fits := (Q.tail - Q.head).toNat ≤ 2 ^ Q.log2n
  let becomes (R : Queue) := t = { s with queues := t.queues } ∧ t.queueAt q = R
  Q.forwards = [] →
    (¬ runs → becomes Q) ∧ (runs → ¬ fits → becomes { Q with stopped := true, cause := 6 }) ∧ (runs → fits → Q.cur.isSome = true → becomes Q) ∧
    (runs → fits → Q.cur = none → ∀ c, translate s (s.ctxAt Q.ctx) (recordVa Q Q.head.toNat) .rd = .error c →
      becomes { Q with stopped := true, cause := 7 }) ∧
    (runs → fits → Q.cur = none → Q.tail = Q.head + 1#32 →
      ∀ p r, translate s (s.ctxAt Q.ctx) (recordVa Q Q.head.toNat) .rd = .ok p → p.remote = none →
        readRecord s Q.ctx (recordVa Q Q.head.toNat) = .ok r →
        let l : Launch := { blankLaunch with ctx := Q.ctx, record := r }
        t.mem = s.mem ∧ (t.queueAt q).head = Q.head + 1#32 ∧ (t.queueAt q).tail = Q.tail ∧
        (∀ c, rejectCode s l = some c → (t.queueAt q).stopped = true ∧ (t.queueAt q).cause = c ∧ (t.queueAt q).cur = none ∧
          t.launches = s.launches) ∧
        (rejectCode s l = none → (t.queueAt q).stopped = false ∧
          (∃ m ∈ t.launches, m.id = s.nextId ∧ m.ctx = Q.ctx ∧ m.q = q ∧ m.record = r ∧ m.placed = 0 ∧ m.started = decide (l.sigAddr = 0)) ∧
          (l.sigAddr ≠ 0 → (t.queueAt q).cur = some s.nextId)))

end Sys2Proof.Claims

section
open Sys2Proof Sys2Proof.Machine Sys2Proof.Claims

/-- Integer arithmetic completes: in every state in which such a word issues and passes its checks, exec answers a next state in which each
executing lane has the result that its entry gives in flight for its latency, and nothing else of the machine has changed but that the path
has moved past the word. -/
def Obligations.IntegerWordsComplete : Prop :=
  ∀ (i : Instr) (r : Row) (s : State) (c : Cur), intRow i = some r → Issues i s c → Completes i s c r

/-- Bit operations, shifts, moves, LEA and SEL complete with the results of their entries. -/
def Obligations.BitWordsComplete : Prop :=
  ∀ (i : Instr) (r : Row) (s : State) (c : Cur), bitRow i = some r → Issues i s c → Completes i s c r

/-- The predicate operations complete with the results of R452. -/
def Obligations.PredicateWordsComplete : Prop :=
  ∀ (i : Instr) (r : Row) (s : State) (c : Cur), predRow i = some r → Issues i s c → Completes i s c r


/-- Float words of fixed latency complete with the results of their entries, each lane under its own FPCTL; and what these results are in
examples of each: exact sums and products under every FPCTL, 1 + 2^-24 in each rounding mode (R98, R109), subnormals under FTZ (R112), FRND,
and the conversions of the tables of R116, R118 and R121. -/
def Obligations.FloatWordsComplete : Prop :=
  (∀ (i : Instr) (r : Row) (s : State) (c : Cur), floatRow i = some r → Issues i s c → Completes i s c r) ∧
  (∀ fp : W32, fadd32 fp 0x3F800000#32 0x40000000#32 = 0x40400000#32 ∧ fsub32 fp 0x3F800000#32 0x40000000#32 = 0xBF800000#32 ∧
    fmul32 fp 0x40000000#32 0x40400000#32 = 0x40C00000#32 ∧ ffma32 fp 0x40000000#32 0x40400000#32 0x3F800000#32 = 0x40E00000#32 ∧
    fmul32 fp 0x00000001#32 0x3F800000#32 = (if fp.getLsbD 2 then 0#32 else 1#32) ∧
    fmul32 fp 0x80000001#32 0x3F800000#32 = (if fp.getLsbD 2 then 0x80000000#32 else 0x80000001#32) ∧
    fmin32 fp 0x3F800000#32 0xC0000000#32 = 0xC0000000#32 ∧ fmax32 fp 0x3F800000#32 0xC0000000#32 = 0x3F800000#32) ∧
  (∀ rm < 4,
    let fp := BitVec.ofNat 32 rm
    fadd32 fp 0x3F800000#32 0x33800000#32 = (if rm = 2 then 0x3F800001#32 else 0x3F800000#32) ∧
    fadd32 fp 0xBF800000#32 0xB3800000#32 = (if rm = 3 then 0xBF800001#32 else 0xBF800000#32) ∧
    frnd32 fp 0x40200000#32 = (if rm = 2 then 0x40400000#32 else 0x40000000#32)) ∧
  convert 0#32 2#4 0#4 0x40400000#64 = 0x38#64 ∧ convert 0#32 2#4 0#4 0x41700000#64 = 0x0C#64 ∧
  convert 0#32 2#4 0#4 0x3DCCCCCD#64 = 0x10#64 ∧ convert 0#32 2#4 0#4 0x43960000#64 = 0x0F#64 ∧
  convert 0#32 2#4 0#4 0xB727C5AC#64 = 0#64 ∧ convert 0#32 2#4 0#4 0xFF800000#64 = 0x8F#64 ∧
  convert 0#32 0#4 2#4 0x5A#64 = 0x3FB40000#64 ∧ convert 0#32 0#4 2#4 0x1E#64 = 0x41400000#64 ∧
  convert 0#32 0#4 2#4 0x95#64 = 0xBEA00000#64 ∧ convert 0#32 0#4 2#4 0x80#64 = 0x7FC00000#64 ∧
  convert 0#32 1#4 0#4 0x3F808000#64 = 0x3F80#64 ∧ convert 0#32 0#4 1#4 0x3F80#64 = 0x3F800000#64 ∧
  convert 0#32 3#4 0#4 0x43960000#64 = 127#64 ∧ convert 0#32 7#4 0#4 0xBF800000#64 = 0#64 ∧
  convert 0#32 5#4 0#4 0x7FC00000#64 = 0#64 ∧ convert 0#32 0#4 5#4 3#64 = 0x40400000#64

/-- NaNs and signed zeros in FMIN, FMAX and FCMP (R111). -/
def Obligations.FloatOrderOfNansAndZeros : Prop :=
  ∀ (fp a b : W32),
    ((isNan32 a = true ∨ isNan32 b = true) →
      fmin32 fp a b = 0x7FC00000#32 ∧ fmax32 fp a b = 0x7FC00000#32 ∧ ∀ cc, fcmpTrue fp cc a b = decide (cc = 1#4)) ∧
    fmin32 fp 0x80000000#32 0#32 = 0x80000000#32 ∧ fmin32 fp 0#32 0x80000000#32 = 0x80000000#32 ∧
    fmax32 fp 0x80000000#32 0#32 = 0#32 ∧ fmax32 fp 0#32 0x80000000#32 = 0#32

/-- Every arithmetic float result that is a NaN is the default NaN, with FP32 and with a conversion to BF16 (R110). -/
def Obligations.NanResultsAreTheDefaultNan : Prop :=
  ∀ (fp a b c : W32),
    (∀ r ∈ [fadd32 fp a b, fsub32 fp a b, fmul32 fp a b, ffma32 fp a b c, fmin32 fp a b, fmax32 fp a b, frnd32 fp a],
      isNan32 r = true → r = 0x7FC00000#32) ∧
    (isNan32 a = true → convert fp 1#4 0#4 (a.setWidth 64) = 0x7FC0#64)

/-- Cross-lane words complete: each active lane receives what its entry computes from the active lanes. What LREDX and LSCAN compute: the
operation's identity stands in the lanes that are not active, the integer operations of both give the plain sum, minimum, maximum or bitwise
result, and the float sums of R129's example differ as it says (R128, R129). What SPK24 keeps: the two positions of the group that rank first
(R488). -/
def Obligations.CrossLaneWordsComplete : Prop :=
  (∀ (i : Instr) (r : Row) (s : State) (c : Cur), laneRow i = some r → Issues i s c → Completes i s c r) ∧
  (∀ (s : State) (act : List Lane) (fp : W32) (op : BitVec 4) (a : Code), op ∈ [0#4, 2#4, 3#4, 4#4, 5#4, 8#4, 9#4, 10#4] →
    (reduceValues s act fp op a).length = 32 ∧ ∀ j < 32, (reduceValues s act fp op a)[j]? = some (
      match act.find? fun l => l.id == j with
      | some l => rd s l a
      | none => if op = 2#4 then 0x7FFFFFFF#32 else if op = 4#4 then 0x80000000#32
        else if op = 3#4 ∨ op = 8#4 then 0xFFFFFFFF#32 else 0#32)) ∧
  (∀ (fp : W32) (vs : List W32), vs.length = 32 →
    treeReduce fp 0#4 5 vs = vs.foldl (· + ·) 0#32 ∧ treeReduce fp 8#4 5 vs = vs.foldl (· &&& ·) 0xFFFFFFFF#32 ∧
    treeReduce fp 9#4 5 vs = vs.foldl (· ||| ·) 0#32 ∧ treeReduce fp 10#4 5 vs = vs.foldl (· ^^^ ·) 0#32 ∧
    (treeReduce fp 2#4 5 vs ∈ vs ∧ ∀ v ∈ vs, (treeReduce fp 2#4 5 vs).sle v = true) ∧
    (treeReduce fp 3#4 5 vs ∈ vs ∧ ∀ v ∈ vs, (treeReduce fp 3#4 5 vs).ule v = true) ∧
    (treeReduce fp 4#4 5 vs ∈ vs ∧ ∀ v ∈ vs, v.sle (treeReduce fp 4#4 5 vs) = true) ∧
    (treeReduce fp 5#4 5 vs ∈ vs ∧ ∀ v ∈ vs, v.ule (treeReduce fp 5#4 5 vs) = true) ∧
    ∀ n < 33,
      scanFold fp 0#4 vs n = (vs.take n).foldl (· + ·) 0#32 ∧ scanFold fp 8#4 vs n = (vs.take n).foldl (· &&& ·) 0xFFFFFFFF#32 ∧
      scanFold fp 9#4 vs n = (vs.take n).foldl (· ||| ·) 0#32 ∧ scanFold fp 10#4 vs n = (vs.take n).foldl (· ^^^ ·) 0#32 ∧
      (∀ v ∈ vs.take n, (scanFold fp 2#4 vs n).sle v = true ∧ (scanFold fp 3#4 vs n).ule v = true ∧
        v.sle (scanFold fp 4#4 vs n) = true ∧ v.ule (scanFold fp 5#4 vs n) = true) ∧
      (0 < n → ∀ op ∈ [2#4, 3#4, 4#4, 5#4], scanFold fp op vs n ∈ vs.take n)) ∧
  (∀ vs, vs = [0x3F800000#32, 0x4B800000#32, 0x3F800000#32] ++ List.replicate 29 0x80000000#32 →
    treeReduce 0#32 1#4 5 vs = 0x4B800001#32 ∧ scanFold 0#32 1#4 vs 3 = 0x4B800000#32 ∧ opIdentity 0#32 1#4 = 0x80000000#32) ∧
  ∀ (fmt : BitVec 2) (xs : List Nat) (p q : Nat), fmt ≠ 3#2 → xs.length = 4 → p < q → q < 4 → keeps fmt xs p → keeps fmt xs q →
    spkResult fmt xs 0 = xs.getD p 0 ∧ spkResult fmt xs 1 = xs.getD q 0 ∧ spkResult fmt xs 2 = 4 * q + p ∧ spkResult fmt xs 3 = 4 * q + p

/-- LSHFL: with K in range, or under .idx, each active lane receives its source lane's operand, or its own when that lane is inactive or
there is none; a K outside 1 to 5 raises RANGE at the word (R40, R41). -/
def Obligations.ShuffleReadsItsSourceLane : Prop :=
  ∀ (h : Hdr) (d a b : Code) (k : BitVec 3) (mode : BitVec 2) (s : State) (c : Cur), Issues (.lshfl h d a b k mode) s c →
    let src (l : Lane) : Int :=
      if mode = 0#2 then ((l.id ^^^ (32 >>> k.toNat) : Nat) : Int)
      else if mode = 1#2 then (l.id : Int) - ((32 >>> k.toNat : Nat) : Int)
      else if mode = 2#2 then (l.id : Int) + ((32 >>> k.toNat : Nat) : Int)
      else ((rd s l b).toNat : Int)
    (mode = 3#2 ∨ (1 ≤ k.toNat ∧ k.toNat ≤ 5) →
      Completes (.lshfl h d a b k mode) s c ⟨h, 6, fun s c l => reg d (shuffled s (active s c h) a l (src l))⟩) ∧
    (mode ≠ 3#2 → (k.toNat = 0 ∨ 5 < k.toNat) →
      exec (.lshfl h d a b k mode) s = .next (trapWord s c cRange c.p.mask))

/-- CSRR, CLOCK, HLDR, FTEST and TDGET complete with what they read, CSRR with the value that the tables of R96, R346 and R350 give its
number. A TDGET completes once every earlier acquire of its lanes is performed; while one is not, the word waits and nothing changes
(R166, R500). -/
def Obligations.ReadingWordsComplete : Prop :=
  (∀ (i : Instr) (r : Row) (s : State) (c : Cur), readRow i = some r → Issues i s c →
    (∀ h d a, i = .tdget h d a → ∀ l ∈ active s c h, acquireOpen s c l = false) → Completes i s c r) ∧
  ∀ (h : Hdr) (d a : Code) (s : State) (c : Cur), Issues (.tdget h d a) s c → (∃ l ∈ active s c h, acquireOpen s c l = true) →
    ∃ t, exec (.tdget h d a) s = .next t ∧ t = { s with issueQ := s.issueQ.drop 1, free := s.free + 1 }

/-- Long-latency arithmetic completes at issue: each executing lane has its result waiting, bound to the word's flag, which counts up in
that lane, and no register changes. The special functions have the exact values of the table of R126, under every FPCTL. -/
def Obligations.LongArithmeticIssues : Prop :=
  (∀ (i : Instr) (r : LongRow) (s : State) (c : Cur), longRow i = some r → Issues i s c →
    ∃ t, exec i s = .next t ∧
      t = { s with
        warps := t.warps
        issueQ := s.issueQ.drop 1
        free := s.free + 1
        maths := s.maths ++ (active s c r.hdr).zipIdx.map fun v =>
          ⟨s.nextId + v.2, c.key, v.1.id, r.dst.toNat, r.val s v.1, (curFlag c).getD 0, r.queued⟩
        nextId := s.nextId + (active s c r.hdr).length } ∧
      Issued s t c c.r (FlagUp s c r.hdr (curFlag c))) ∧
  ∀ fp : W32,
    (∀ x, isNan32 x = true → ∀ f ∈ [rcpOf, rsqOf, sqrtOf, ex2Of, lg2Of, sinOf, cosOf, tanhOf], special f fp x = 0x7FC00000#32) ∧
    (∀ x : W32, x.msb = true → 0x00800000 ≤ x.toNat % 2 ^ 31 → x.toNat % 2 ^ 31 < 0x7F800000 →
      ∀ f ∈ [rsqOf, sqrtOf, lg2Of], special f fp x = 0x7FC00000#32) ∧
    [rcpOf, rsqOf, sqrtOf, ex2Of, lg2Of, sinOf, cosOf, tanhOf].map (fun f => special f fp 0xFF800000#32) =
      [0x80000000#32, 0x7FC00000#32, 0x7FC00000#32, 0#32, 0x7FC00000#32, 0x7FC00000#32, 0x7FC00000#32, 0xBF800000#32] ∧
    [rcpOf, rsqOf, sqrtOf, ex2Of, lg2Of, sinOf, cosOf, tanhOf].map (fun f => special f fp 0x80000000#32) =
      [0xFF800000#32, 0xFF800000#32, 0x80000000#32, 0x3F800000#32, 0xFF800000#32, 0x80000000#32, 0x3F800000#32, 0x80000000#32] ∧
    [rcpOf, rsqOf, sqrtOf, ex2Of, lg2Of, sinOf, cosOf, tanhOf].map (fun f => special f fp 0#32) =
      [0x7F800000#32, 0x7F800000#32, 0#32, 0x3F800000#32, 0xFF800000#32, 0#32, 0x3F800000#32, 0#32] ∧
    [rcpOf, rsqOf, sqrtOf, ex2Of, lg2Of, sinOf, cosOf, tanhOf].map (fun f => special f fp 0x7F800000#32) =
      [0#32, 0#32, 0x7F800000#32, 0x7F800000#32, 0x7F800000#32, 0x7FC00000#32, 0x7FC00000#32, 0x3F800000#32] ∧
    (∀ k, 1 ≤ k → k ≤ 253 → special rcpOf fp (BitVec.ofNat 32 (k * 2 ^ 23)) = BitVec.ofNat 32 ((254 - k) * 2 ^ 23)) ∧
    special sqrtOf fp 0x41100000#32 = 0x40400000#32 ∧ special ex2Of fp 0x40400000#32 = 0x41000000#32 ∧
    special ex2Of fp 0xC0000000#32 = 0x3E800000#32 ∧ special ex2Of fp 0x43000000#32 = 0x7F800000#32 ∧
    special ex2Of fp 0xC3160000#32 = 0#32 ∧ special lg2Of fp 0x3F800000#32 = 0#32 ∧ special lg2Of fp 0x41000000#32 = 0x40400000#32 ∧
    special tanhOf fp 0x41200000#32 = 0x3F800000#32 ∧ special tanhOf fp 0xC1200000#32 = 0xBF800000#32

/-- LONG_LATENCY_COMPLETE of arithmetic writes the result into its register, counts the flag down, and changes nothing else (R78); while
its warp waits to enter a trap, the lane's fixed-latency results are written before it, and a result of IDIV comes after those of the
special functions (R319). -/
def Obligations.LongArithmeticLands : Prop :=
  ∀ (id : Nat) (m : MathOp) (s : State), s.maths.find? (fun x => x.id == id) = some m →
    (m.queued = true ∨ specialsFirst s m.w m.lane = false) →
    ∃ t, exec (.longLatencyComplete id) s = .next t ∧
      t = { s with maths := s.maths.filter (fun x => x.id != id), warps := t.warps } ∧
      (∀ k, k ≠ m.w → t.warpAt? k = s.warpAt? k) ∧
      (∀ n, n ≠ m.lane → t.laneAt m.w n = s.laneAt m.w n) ∧
      ((∃ w, s.warpAt? m.w = some w ∧ w.hasLane m.lane) → ∀ v, m.dst < 128 →
        let l := atEntry (s.warpAt m.w) (s.laneAt m.w m.lane)
        smGet v (t.laneAt m.w m.lane).g m.dst = m.val ∧
        (∀ j, j ≠ m.dst → smGet v (t.laneAt m.w m.lane).g j = smGet v l.g j) ∧
        (t.laneAt m.w m.lane).flag m.flag = l.flag m.flag - 1 ∧
        (∀ j, j ≠ m.flag → (t.laneAt m.w m.lane).flag j = l.flag j) ∧
        t.laneAt m.w m.lane = { l with g := (t.laneAt m.w m.lane).g, f := (t.laneAt m.w m.lane).f })

/-- Memory words issue: when no watchpoint matches and every executing lane passes the checks of its address, exec answers a next state in
which the memory system holds exactly the accesses that the word asks for, numbered in order after the earlier ones; memory, registers and
every other access are as before, and a bound flag has gone up in each executing lane. -/
def Obligations.MemoryWordsIssue : Prop :=
  ∀ (i : Instr) (r : MemRow) (s : State) (c : Cur), memRow i = some r → Issues i s c → Passes s c r →
    ∃ t new, exec i s = .next t ∧
      t = { s with
        warps := t.warps
        issueQ := s.issueQ.drop 1
        free := s.free + 1
        walks := t.walks
        accesses := s.accesses ++ new
        nextId := s.nextId + new.length } ∧
      List.Forall₂ (Asks s c r) (pieces r.form.bytes (active s c r.hdr)) new ∧
      new.map (·.id) = (List.range new.length).map (s.nextId + ·) ∧
      Issued s t c c.r (FlagUp s c r.hdr (if r.form.flagged then curFlag c else none))

/-- Alignment: the check of an address that is no multiple of the access size gives MISALIGN with that address, before the other causes of the
address check (R136, R147); a store that a watchpoint matches is not checked, since WATCH comes first (R348). -/
def Obligations.MisalignedAddressesRaiseMisalign : Prop :=
  ∀ (i : Instr) (r : MemRow) (s : State) (c : Cur) (l : Lane), memRow i = some r →
    (r.addr s l).toNat % r.form.bytes ≠ 0 →
    checkAccess s c.w r.form l (r.addr s l).toNat = .error (cMisalign, (r.addr s l).toNat)

/-- LD at the home: a plain load returns the bytes of the L1 line that holds them, else the home's, and an acquire the home's,
little-endian, but for bytes of the thread's control entries (R160); after an acquire of .cl or wider on a C or S page the core's L1 holds
no other C or U line; memory and registers are as before, and the result waits for its registers (R7, R162, R164, R165). Every load of its
word on the same bytes is answered with it, by the same bytes (R148), and of a 16-byte load of scratch both halves. That a load takes a line
which its L1 holds, where R162 and R165 allow it, and that an acquire of .wp or .bk reads the home, where R162 lets it keep the copy, are the
model's choice (log 14). -/
def Obligations.LoadsReadTheirBytes : Prop :=
  ∀ (s : State) (a : Access) (key : Nat),
    s.accesses.find? (fun x => x.id == a.id) = some a → canPerform s a = true → failedPort? s a = none →
    a.kind = .ld → a.loc = .mem key → anyForeign s key a.bytes a.tkey = false →
    (∀ h, otherHalf? s a = some h → h.kind = .ld ∧ failedPort? s h = none) →
    (∀ e ∈ (s.coreAt a.w.core).l1, e.line = lineOf key → ∀ i < a.bytes, foreignIn s e.tags (key + i) a.tkey = false) →
    let bytes :=
      if isScratchKey key = true ∨ a.sem.getLsbD 0 = true then memRead s.mem key a.bytes
      else match l1Find s a.w.core (lineOf key) a.page with
        | some e => if tentLine s (lineOf key) then memRead s.mem key a.bytes else memRead e.bytes key a.bytes
        | none => memRead s.mem key a.bytes
    ∃ t, exec (.homeAccess (.thread a.id)) s = .next t ∧ t.mem = s.mem ∧ t.warps = s.warps ∧
      (∀ b ∈ sameLoads s a, b.flag.isSome = true → (∀ x ∈ s.accesses, x.id = b.id → x = b) → Answers t b (hideControl s b bytes)) ∧
      (otherHalf? s a = none → ∀ x ∈ s.accesses, (∀ b ∈ sameLoads s a, x.id ≠ b.id) → x ∈ t.accesses) ∧
      (otherHalf? s a = none → a.sem.getLsbD 0 = true → a.page ≠ .U → 2 ≤ a.scope.toNat →
        ∀ e ∈ (t.coreAt a.w.core).l1, e.kind = .S ∨ e.line = lineOf key) ∧
      ∀ h key2, otherHalf? s a = some h → h.loc = .mem key2 → h.flag.isSome = true → isScratchKey key2 = true →
        (∀ x ∈ s.accesses, x.id = h.id → x = h) → (∀ b ∈ sameLoads s a, b.loc ≠ h.loc) →
        Answers t h (hideControl s h (memRead s.mem key2 h.bytes))

/-- ST at the home: its bytes hold the data, little-endian, and every other byte of memory is as before (R7, R164). -/
def Obligations.StoresWriteTheirBytes : Prop :=
  ∀ (s : State) (a : Access) (key : Nat),
    s.accesses.find? (fun x => x.id == a.id) = some a → otherHalf? s a = none → canPerform s a = true → failedPort? s a = none →
    a.kind = .st → a.loc = .mem key → s.Inv →
    ∃ t, exec (.homeAccess (.thread a.id)) s = .next t ∧
      (∀ x, memGet t.mem x = if key ≤ x ∧ x < key + a.bytes then BitVec.ofNat 8 (a.data.toNat / 256 ^ (x - key) % 256) else memGet s.mem x) ∧
      (stackOffset a.va.toNat = none → t.warps = s.warps) ∧
      (∀ x ∈ s.accesses, x.id ≠ a.id → x ∈ t.accesses)

/-- ATOM, RED and CAS at the home: they answer with the old value and write, as bytes, what the operation makes of it, CAS only when the old
value is the one compared with; every other byte is as before, and of the threads only what a CAS uses up of a FENCE and a control entry that
is written over (R160, R171); and the integer operations on 32 and 64 bits (R205, R206). -/
def Obligations.AtomicsReadModifyWrite : Prop :=
  (∀ (s : State) (a : Access) (key : Nat),
    s.accesses.find? (fun x => x.id == a.id) = some a → otherHalf? s a = none → canPerform s a = true → failedPort? s a = none →
    (a.kind = .atom ∨ a.kind = .red ∨ a.kind = .cas) → a.loc = .mem key → s.Inv →
    anyForeign s key a.bytes a.tkey = false →
    let old := hideControl s a (memRead s.mem key a.bytes)
    let new : Option Nat :=
      if a.kind = .cas then (if old = a.cmp.toNat % 256 ^ a.bytes then some a.data.toNat else none)
      else some (atomOp a.ty old a.data.toNat)
    ∃ t, exec (.homeAccess (.thread a.id)) s = .next t ∧
      (∀ x, memGet t.mem x = match new with
        | some v => if key ≤ x ∧ x < key + a.bytes then BitVec.ofNat 8 (v / 256 ^ (x - key) % 256) else memGet s.mem x
        | none => memGet s.mem x) ∧
      (a.flag.isSome = true → ∃ b ∈ t.accesses, b.id = a.id ∧ b.st = .performed ∧ b.result = BitVec.ofNat 128 old) ∧
      (stackOffset a.va.toNat = none → a.kind ≠ .cas → t.warps = s.warps) ∧
      (stackOffset a.va.toNat = none → ∀ k n, t.laneAt k n = { s.laneAt k n with frel := (t.laneAt k n).frel })) ∧
  ∀ (m v : W32) (x y : W64),
    atomOp 0#4 m.toNat v.toNat = (m + v).toNat ∧
    atomOp 1#4 m.toNat v.toNat = (if v.slt m then v else m).toNat ∧
    atomOp 2#4 m.toNat v.toNat = (if v.ult m then v else m).toNat ∧
    atomOp 3#4 m.toNat v.toNat = (if m.slt v then v else m).toNat ∧
    atomOp 4#4 m.toNat v.toNat = (if m.ult v then v else m).toNat ∧
    atomOp 5#4 m.toNat v.toNat = (m &&& v).toNat ∧
    atomOp 6#4 m.toNat v.toNat = (m ||| v).toNat ∧
    atomOp 7#4 m.toNat v.toNat = (m ^^^ v).toNat ∧
    atomOp 8#4 m.toNat v.toNat = v.toNat ∧
    atomOp 12#4 x.toNat y.toNat = (x + y).toNat ∧
    atomOp 13#4 x.toNat y.toNat = y.toNat

/-! ### Decoding, operands, results and the step -/

/-- A few words written out from the opcode map and the formats (R65 to R68, R86) decode to their instructions. -/
def Obligations.WordsDecodeAsEncodedInTheSpec : Prop :=
  let always : Hdr := ⟨0#3, false, 7#3⟩
  decode (0b000000000_000_0111_00000010_00000011_00000100_00000000_0000000000000001#64) = .ok (.iadd always 2#8 3#8 4#8 1#2) ∧
  decode (0b000100010_000_0111_00000100_00000010_00000000000000000000000000000011#64) = .ok (.imulImm always 4#8 2#8 3#32) ∧
  decode (0b100000001_000_0111_00000000_0_0000_000_11111111111111111111111111111101#64) = .ok (.bra always 0xFFFFFFFD#32) ∧
  decode (0b001000110_000_0111_00000010_00000011_00000000_00000000_0000000000000000#64) = .ok (.fabs always 2#8 3#8) ∧
  decode (0b110000000_000_0111_00000100_00000000_00000000_00000000_0000000000000001#64) = .ok (.snew always 4#8 true)

/-- Decoding inverts encoding: the word of every well-formed instruction, with each operand and field at any value its encoding admits,
decodes to that instruction. -/
def Obligations.DecodeInvertsEncode : Prop :=
  ∀ i : Instr, i.isEvent = false → i.legal = true → decode (encode i) = .ok i

/-- Encoding inverts decoding: a word that decodes is the one word of its instruction, which is well-formed and no event; so each valid word
has one meaning and no bit of it is ignored. -/
def Obligations.EncodeInvertsDecode : Prop :=
  ∀ (w : W64) (i : Instr), decode w = .ok i → encode i = w ∧ i.legal = true ∧ i.isEvent = false

/-- A step runs the decoded word: with a word due, the step is exec of the instruction its 64 bits decode to, or ILLOP at the word when they
decode to none; with no word due it is exec of the first event of the agenda, taken off it, or else of the event the model takes of
itself. -/
def Obligations.StepRunsTheDecodedWord : Prop :=
  ∀ s : State,
    (∀ c i, cur? s = some c → decode (nextWord c.r) = .ok i → step s = exec i s) ∧
    (∀ c e, cur? s = some c → decode (nextWord c.r) = .error e → step s = .next (trapWord s c cIllop c.p.mask)) ∧
    (∀ i r, s.issueQ = [] → s.agenda = i :: r → i.isEvent = true → step s = exec i { s with agenda := r }) ∧
    (s.issueQ = [] → s.agenda = [] → step s = exec (nextInternal s) s)

/-- The part never stops: exec answers a next state for every instruction and event in every state, and so does a step whose agenda holds
events only. -/
def Obligations.StepNeverStops : Prop :=
  (∀ (i : Instr) (s : State), ∃ t, exec i s = .next t) ∧ ∀ s, agendaOk s → runsOn s

/-- Operands: what each code reads in a lane outside helper mode that has nothing in flight, and the value of a guard; and in a helper body a
lent lane reads its recruiter's G registers and its own iteration index. -/
def Obligations.OperandsReadAsCoded : Prop :=
  (∀ (s : State) (l : Lane), l.helper = none → l.inflight = [] →
    (∀ n < 128, rd s l (BitVec.ofNat 8 n) = smGet 0#32 l.g n) ∧
    (∀ n < 8, l.tset.getLsbD n = true → rd s l (BitVec.ofNat 8 (0x80 + n)) = smGet 0#32 l.t n) ∧
    rd s l 0x88#8 = 0#32 ∧ rd s l 0x89#8 = BitVec.ofNat 32 l.id ∧ rd s l 0x8A#8 = 32#32 ∧ rd s l 0x8B#8 = 0#32 ∧
    (∀ n < 7, rdP s l (BitVec.ofNat 8 (0x90 + n)) = l.p.getLsbD n) ∧ rdP s l 0x97#8 = true ∧
    (∀ n < 8, rd s l (BitVec.ofNat 8 (0x98 + n)) = smGet 0#32 l.y n) ∧ rd64 s l 0x88#8 = 0#64 ∧
    (∀ n < 127, rd64 s l (BitVec.ofNat 8 n) = smGet 0#32 l.g (n + 1) ++ smGet 0#32 l.g n) ∧
    (∀ d : BitVec 3, guard s ⟨d, false, 7#3⟩ l = true ∧ guard s ⟨d, true, 7#3⟩ l = false) ∧
    (∀ (d ix : BitVec 3) (ng : Bool), ix ≠ 7#3 → guard s ⟨d, ng, ix⟩ l = (l.p.getLsbD ix.toNat != ng))) ∧
  ∀ (s : State) (l : Lane) (h : HelperPart) (t : Lent) (g : HelperGroup), l.helper = some h → h.lent = some t → h.inBody = true →
    s.groupAt? h.grp = some g → (s.laneAt g.w g.lane).inflight = [] →
    (∀ n < 128, rd s l (BitVec.ofNat 8 n) = smGet 0#32 (s.laneAt g.w g.lane).g n) ∧ rd s l 0x8B#8 = h.hidx

/-- Fixed-latency results: a read sees a result that is complete, unless a later one to the same register is in flight behind it; while
nothing of the register is complete it reads the old value or one of the values in flight (R82). A result enters flight behind every one
that completes before or with it, and what has completed is written in that order, so that the last to complete stands (R83). -/
def Obligations.ResultsAreSeen : Prop :=
  ∀ (clk free : Nat) (l : Lane),
    (∀ (pre post : List FixWrite) (f : FixWrite), l.inflight = pre ++ f :: post → f.due ≤ clk → (∀ x ∈ post, x.code ≠ f.code) →
      l.sees clk free f.code = f.val ∧ (f.code < 128 → smGet 0#32 (l.commit clk).g f.code = f.val)) ∧
    (∀ n, (∀ x ∈ l.inflight, x.code = n → clk < x.due) →
      l.sees clk free n = l.held free n ∨ ∃ x ∈ l.inflight, x.code = n ∧ l.sees clk free n = x.val) ∧
    (∀ n, (∀ x ∈ l.inflight, x.code = n → clk < x.due) → smGet 0#32 (l.commit clk).g n = smGet 0#32 l.g n) ∧
    (l.commit clk).inflight = l.inflight.filter (fun x => clk < x.due) ∧
    (∀ f : FixWrite, ∃ pre post, l.inflight = pre ++ post ∧ (l.launchFix f).inflight = pre ++ f :: post ∧
      (∀ x ∈ pre, x.due ≤ f.due) ∧ ∀ x ∈ post.head?, f.due < x.due)

/-! ### Checks and traps -/

/-- The checks of a word come first: a word that fails one does nothing but raise the first that fails, in the order ILLOP, ILLOPND, RANGE,
for every instruction (R13, R88, R89). -/
def Obligations.FailedChecksTrapInOrder : Prop :=
  ∀ (i : Instr) (s : State) (c : Cur) (cause : Nat) (m : Mask), i.isEvent = false → cur? s = some c → wordCheck c i = some (cause, m) →
    exec i s = .next (trapWord s c cause m) ∧
    (cause = cIllopnd → i.legal = true ∧ (i.classes = false ∨ bodyOf c ≠ [])) ∧
    (cause = cRange → i.legal = true ∧ i.classes = true ∧ outOfRange c i = true) ∧
    (cause = cIllop ∨ cause = cIllopnd ∨ cause = cRange)

/-- A cause raised at a word outside helper bodies: with a handler, the trap waits for its entry or, in trap mode or behind another, for its
turn; every lane of the path stands at the word with RUN at the run's first word when the word is not the first; every other lane and warp,
memory and every context are as before, and a block of the warp's cluster that was stopped for migration stays (R331, log 44). -/
def Obligations.WordCausesRaiseTheirTrap : Prop :=
  ∀ (s : State) (c : Cur) (cause : Nat), cur? s = some c → bodyOf c = [] → hasHandler s c.key c.w → c.p.handler = false →
    let t := trapWord s c cause c.p.mask
    let req : TrapReq := ⟨cause, 0, c.pc, 0, c.p.mask, 0, 0, 0, 0, fbHead s c.w, noted c.r⟩
    WarpsAndStay s t c.w.blk ∧
    (if c.w.trapMode = true ∨ c.w.trapReq.isSome = true then
      (t.warpAt c.key).trapReq = c.w.trapReq ∧ (t.warpAt c.key).deferred = c.w.deferred ++ [req]
     else (t.warpAt c.key).trapReq = some req ∧ (t.warpAt c.key).deferred = c.w.deferred) ∧
    (∀ n, c.w.hasLane n → t.laneAt c.key n =
      if c.p.mask.getLsbD n then
        { s.laneAt c.key n with pc := c.pc, run := if c.r.idx = 0 then 0#64 else c.r.base }
      else s.laneAt c.key n) ∧
    ∀ k, k ≠ c.key → t.warpAt? k = s.warpAt? k

/-- A cause raised at a word outside helper bodies stops the context when it has no handler, and a cause in the handler is a double trap: the
STATUS of the context then gives the cause, SUB 0x3F for a double trap, the core and the warp's window slot, and MSI-X vector x is sent
(R328 and R97 as the model reads them, with the state that they leave). -/
def Obligations.CausesStopTheirContext : Prop :=
  ∀ (s : State) (c : Cur) (cause : Nat), cur? s = some c → bodyOf c = [] →
    (¬ hasHandler s c.key c.w ∨ c.p.handler = true) → (s.ctxAt c.w.ctx).stopped = false →
    let t := trapWord s c cause c.p.mask
    let x := t.ctxAt c.w.ctx
    x.stopped = true ∧ t.msix = s.msix ++ [c.w.ctx] ∧ t.mem = s.mem ∧
    bitsN x.status.toNat 63 63 = 1 ∧ bitsN x.status.toNat 47 40 = cause % 256 ∧
    bitsN x.status.toNat 39 32 = (if (s.ctxFor c.key.core c.w.ctx).csr64 0x1C = 0 then 0 else 0x3F) ∧
    bitsN x.status.toNat 31 24 = c.key.core % 256 ∧ bitsN x.status.toNat 21 16 = winOf c.key % 64 ∧
    (∀ y, y ≠ c.w.ctx → t.ctxAt y = s.ctxAt y)

/-! ### Control -/

/-- The words that act at the run end issue by leaving their note in the run, and touch nothing else: EXIT, JOINH, YIELD, NOP, TRAPRET,
CSRW, ICINV, BAR, BARA, BARW, RECRUIT, HRELEASE and HJOIN. -/
def Obligations.RunEndWordsNote : Prop :=
  ∀ (i : Instr) (r : NoteRow) (s : State) (c : Cur), noteRow i = some r → Issues i s c → r.ok s c →
    ∃ t, exec i s = .next t ∧ OnlyWarps s t ∧ Issued s t c (r.run s c) LaneKept ∧
      ∀ n, (t.laneAt c.key n).inflight = (s.laneAt c.key n).inflight

/-- CSRW of a read-only register, or outside the handler path of a register that only trap mode writes, raises PERM (R93); a barrier word
raises ILLOP for a second arrival of its run at the barrier, else RANGE for a barrier that the launch does not list (R198, R380). -/
def Obligations.SystemWordsRefuse : Prop :=
  ∀ (s : State) (c : Cur),
    (∀ h a num, Issues (.csrw h a num) s c →
      ((csrInfo num.toNat).map (·.2) = some .ro ∨ ((csrInfo num.toNat).map (·.2) = some .tw ∧ c.p.handler = false)) →
      exec (.csrw h a num) s = .next (trapWord s c cPerm c.p.mask)) ∧
    (∀ h lvl num, ∀ i ∈ [Instr.bar h lvl num, Instr.bara h lvl num], Issues i s c → arrivedBefore c lvl num = true →
      exec i s = .next (trapWord s c cIllop c.p.mask)) ∧
    (∀ h lvl num, ∀ i ∈ [Instr.bar h lvl num, Instr.bara h lvl num, Instr.barw h lvl num], Issues i s c →
      arrivedBefore c lvl num = false → (s.launchOf c.w).hasBar lvl.toNat num.toNat = false →
      exec i s = .next (trapWord s c cRange c.p.mask))

/-- BRA, BRC, BRX, CALL, CALLX, RET, ENTER and LEAVE complete: when every executing lane meets its conditions, each gets the stack of its
row, the lanes with a target go there at the run end, and nothing else changes. -/
def Obligations.BranchAndStackWordsComplete : Prop :=
  ∀ (i : Instr) (r : StackRow) (s : State) (c : Cur), stackRow i = some r → Issues i s c → (∀ l ∈ active s c r.hdr, r.ok s c l) →
    let ts := (active s c r.hdr).filterMap fun l => (r.target s c l).map fun t => (l.id, t)
    ∃ t, exec i s = .next t ∧ OnlyWarps s t ∧
      Issued s t c (if ts = [] then c.r else { c.r with transfer := .goto ts }) (StackStep s c r)

/-- Causes raised per lane: when every executing lane of a memory or stack word faults, outside helper bodies, with a handler and FAULTMODE
STOP, the trap of the lowest lane's cause waits for its entry, its frame names the faulting lanes and counts their records, they stand at
the word and the other lanes of the path at the word after, and no access has been made. A store word that a watchpoint matches in some lanes
raises WATCH at the word instead, whatever checks the other lanes fail: no lane performs its access, WHIT names the lowest such lane's
watchpoint and byte, and the hit lanes do not match again at the word; under DBGCTL.BKHALT the warp halts there with reason 2 (R342, R347,
R348). -/
def Obligations.FaultingLanesTrap : Prop :=
  (∀ (i : Instr) (r : FaultRow) (s : State) (c : Cur) (l : Lane) (ls : List Lane) (k : Nat), faultRow i = some r → Issues i s c →
    active s c r.hdr = l :: ls → r.cause s c l k → (∀ x ∈ ls, ∃ j, r.cause s c x j) →
    (r.store = true → ∀ wp < 4, ((s.ctxAt c.w.ctx).csrOf (0x102 + 4 * wp)).getLsbD 16 = false) →
    bodyOf c = [] → hasHandler s c.key c.w → faultStops s c.key c.w → c.p.handler = false → c.w.trapMode = false → c.w.trapReq = none →
    ∃ t fb, exec i s = .next t ∧ t.accesses = s.accesses ∧ ((∀ x ∈ ls, l.id < x.id) → fb = fbHead s c.w) ∧
      (t.warpAt c.key).trapReq = some ⟨k, 0, c.pc, 0, activeMask s c r.hdr, 0, 0, 0, ls.length + 1, fb, noted c.r⟩ ∧
      ∀ n, c.w.hasLane n → c.p.mask.getLsbD n = true →
        (t.laneAt c.key n).pc = (if (activeMask s c r.hdr).getLsbD n then (resumeAt c).1 else (resumeNext c).1) ∧
        (t.laneAt c.key n).run = (if (activeMask s c r.hdr).getLsbD n then (resumeAt c).2 else (resumeNext c).2)) ∧
  (∀ (i : Instr) (r : MemRow) (s : State) (c : Cur) (n wp b : Nat) (rest : List (Nat × Nat × Nat)), memRow i = some r →
    r.form.store = true → Issues i s c → hitLanes s c r = (n, wp, b) :: rest → bodyOf c = [] →
    ∃ t, exec i s = .next t ∧ t.accesses = s.accesses ∧ t.mem = s.mem ∧
      (t.ctxAt c.w.ctx).csrOf 0x111 = BitVec.ofNat 32 (256 + 16 * b + wp) ∧
      (∀ e ∈ hitLanes s c r, c.w.hasLane e.1 → (t.laneAt c.key e.1).noMatch = some c.pc) ∧
      (((s.ctxAt c.w.ctx).csrOf 0x110).getLsbD 0 = false → hasHandler s c.key c.w → c.p.handler = false → c.w.trapMode = false →
        c.w.trapReq = none →
        (t.warpAt c.key).trapReq =
          some ⟨cWatch, 0, c.pc, 0, maskOf ((hitLanes s c r).map (·.1)), 0, 0, 0, 0, fbHead s c.w, noted c.r⟩ ∧
        ∀ m, c.w.hasLane m → c.p.mask.getLsbD m = true →
          (t.laneAt c.key m).pc = (resumeAt c).1 ∧ (t.laneAt c.key m).run = (resumeAt c).2) ∧
      (((s.ctxAt c.w.ctx).csrOf 0x110).getLsbD 0 = true → c.r.effs = [] → Halts t c 2 c.pc)) ∧
  ∀ (x : Ctx) (kind va n wp b : Nat), watchHit x kind va n = some (wp, b) ↔
    wp < 4 ∧ Matches x kind va n wp b ∧ (∀ q < wp, ∀ e, ¬ Matches x kind va n q e) ∧ ∀ e < b, ¬ Matches x kind va n wp e

/-- TRAP, and BKPT without DBGCTL.BKHALT, take their trap (R383, R505): with a handler and outside helper bodies it waits for its entry, its
frame names the lanes whose guard is true, and every lane of the path stands at the word after. With no such lane the word has no effect. BKPT
under DBGCTL.BKHALT halts its warp with reason 1, its lanes at the word after (R342). -/
def Obligations.TrapWordsTakeTheirTrap : Prop :=
  (∀ (i : Instr) (h : Hdr) (cause : Nat) (s : State) (c : Cur),
    ((∃ code, i = .trap h code ∧ cause = cTrap) ∨
      (∃ code, i = .bkpt h code ∧ cause = cBkpt ∧ ((s.ctxAt c.w.ctx).csrOf 0x110).getLsbD 0 = false)) →
    Issues i s c → bodyOf c = [] →
    ∃ t, exec i s = .next t ∧
      (activeMask s c h = 0#32 → OnlyWarps s t ∧ Issued s t c c.r LaneKept) ∧
      (activeMask s c h ≠ 0#32 → hasHandler s c.key c.w → c.p.handler = false → c.w.trapMode = false → c.w.trapReq = none →
        WarpsAndStay s t c.w.blk ∧
        (t.warpAt c.key).trapReq = some ⟨cause, 0, c.pc, 0, activeMask s c h, 0, 0, 0, 0, fbHead s c.w, noted c.r⟩ ∧
        (∀ n, c.w.hasLane n → t.laneAt c.key n =
          if c.p.mask.getLsbD n then { s.laneAt c.key n with pc := (resumeNext c).1, run := (resumeNext c).2 } else s.laneAt c.key n) ∧
        ∀ k, k ≠ c.key → t.warpAt? k = s.warpAt? k)) ∧
  ∀ (h : Hdr) (code : BitVec 16) (s : State) (c : Cur), Issues (.bkpt h code) s c → bodyOf c = [] → activeMask s c h ≠ 0#32 →
    ((s.ctxAt c.w.ctx).csrOf 0x110).getLsbD 0 = true → c.r.effs = [] →
    ∃ t, exec (.bkpt h code) s = .next t ∧ WarpsAndStay s t c.w.blk ∧ Halts t c 1 (resumeNext c).1


/-- TRAP_ENTRY takes the trap (R319 to R322): when the entry is ready, the frame's stores are made; if they all succeed the warp is in trap
mode, out of serial mode, and its lanes that are live stand in one handler path at TRAPBASE with their waits set aside and empty handler
stacks; if one fails the context stops with that cause and SUB 0x3F. An ENGINE trap's register reads all ones in those of its lanes that
have its fault bit (R327). -/
def Obligations.TrapEntryStartsTheHandler : Prop :=
  ∀ (k : WarpKey) (s : State) (w : Warp) (r : TrapReq), s.warpAt? k = some w → w.trapReq = some r → entryReady s w = true →
    let s1 := settled s k r
    let w1 := s1.warpAt k
    let base := BitVec.ofNat 64 ((s1.ctxFor k.core w1.ctx).csr64 0x1C)
    ∃ t, exec (.trapEntry k) s = .next t ∧
      (∀ s2, partStores s1 w1.ctx (frameStores s1 w1 r) = .ok s2 →
        t = { s2 with warps := t.warps, cores := t.cores, free := s2.free + 1 } ∧
        (t.warpAt k).trapMode = true ∧ (t.warpAt k).trapReq = none ∧ (t.warpAt k).serial = false ∧
        (∀ n < 32, ∀ l ∈ w1.lanes, l.id = n → laneState s1 w1 r l ∈ [0, 1, 2, 5, 6] →
          (t.laneAt k n).pc = base ∧ (t.laneAt k n).run = 0#64 ∧ (t.laneAt k n).waits = [] ∧
          (t.laneAt k n).heldWaits = (w1.laneAt n).waits ∧ (t.laneAt k n).hsdepth = 0 ∧ (t.laneAt k n).hstk = [] ∧
          (∃ q, (t.warpAt k).pathOf? n = some q ∧ q.handler = true ∧ q.pc = base ∧ q.run = 0#64 ∧ q.inRun = none)) ∧
        (∀ n j, w1.hasLane n → smGet 0#32 (t.laneAt k n).g j =
          if r.cause = cEngine ∧ r.tlanes.getLsbD n = true ∧ (smFind (w1.laneAt n).faults r.ereg).isSome = true ∧ j = r.ereg then 0xFFFFFFFF#32 else smGet 0#32 (w1.laneAt n).g j) ∧
        ∀ j, j ≠ k → t.warpAt? j = s1.warpAt? j) ∧
      (∀ cause, partStores s1 w1.ctx (frameStores s1 w1 r) = .error cause → (s1.ctxAt w1.ctx).stopped = false →
        (t.ctxAt w1.ctx).stopped = true ∧ bitsN (t.ctxAt w1.ctx).status.toNat 47 40 = cause % 256 ∧
        bitsN (t.ctxAt w1.ctx).status.toNat 39 32 = 0x3F ∧ (t.warpAt k).trapReq = none ∧ t.mem = s1.mem)

/-- The run end of TRAPRET returns from the trap (R324): with records that R506 accepts, trap mode ends, the next deferred trap waits, and
every lane whose STATE at entry was not 4 has the PC, RUN, SDEPTH, predicates and exit of its record; a lane that lives is in a path with
that PC and RUN that is no handler path. That a lane that had exited at entry lives again when its record says 0 is the model's reading
(log 48). -/
def Obligations.TrapReturnRestoresTheLanes : Prop :=
  ∀ (k : WarpKey) (n0 : Nat) (s : State) (w : Warp) (p : Path) (e : Ending) (m : Mask) (fs : List FrameLane), Ends s k n0 w p e →
    e.transfer = .trapret m →
    let s1 := effected s k w p e
    let w1 := s1.warpAt k
    w1.haltReq = none → (∀ a ∈ s.accesses, a.w = k → a.refusal = none) → w1.lanes.mapM (fun l => readFrameLane s1 w1 l.id) = .ok fs →
    (∀ f ∈ fs, stateOk (smGet (3, 0) w1.entryState f.lane).1 f.state = true) →
    (∃ f ∈ fs, f.state ≠ 3 ∧ (smGet (3, 0) w1.entryState f.lane).1 ≠ 4) →
    ∃ t, exec (.runEnd k n0) s = .next t ∧ t.mem = s1.mem ∧ (t.warpAt k).trapMode = false ∧ (t.warpAt k).trapReq = w1.deferred.head? ∧
      ∀ f ∈ fs, f.lane < 32 → (smGet (3, 0) w1.entryState f.lane).1 ≠ 4 →
        (t.laneAt k f.lane).pc = f.pc ∧ (t.laneAt k f.lane).run = f.run ∧ (t.laneAt k f.lane).sdepth = f.sdepth ∧
        (t.laneAt k f.lane).exited = decide (f.state = 3) ∧
        (∀ i < 7, (t.laneAt k f.lane).p.getLsbD i = f.preds.testBit i) ∧
        (f.state ≠ 3 → ∃ q, (t.warpAt k).pathOf? f.lane = some q ∧ q.pc = f.pc ∧ q.run = f.run ∧ q.handler = false ∧ q.inRun = none)

/-- The end of a run that falls through or branches (R15, R19, R75): the run's effects are applied, and each lane of the path stands, in no
run, in a path at its target: the one its branch gave it, else the word after the trailer. -/
def Obligations.RunEndsTransferControl : Prop :=
  ∀ (k : WarpKey) (n0 : Nat) (s : State) (w : Warp) (p : Path) (e : Ending) (ts : List (Nat × W64)), Ends s k n0 w p e →
    (e.transfer = .goto ts ∨ (e.transfer = .fall ∧ ts = [])) →
    let s1 := effected s k w p e
    let w1 := s1.warpAt k
    w1.haltReq = none → (∃ l ∈ w1.lanes, l.exited = false) →
    ∃ t, exec (.runEnd k n0) s = .next t ∧ t = { s1 with warps := t.warps, free := s1.free + 1 } ∧
      (∀ n, w1.hasLane n → t.laneAt k n =
        if p.mask.getLsbD n then { w1.laneAt n with pc := (smFind ts n).getD e.next, run := 0#64 } else w1.laneAt n) ∧
      (∀ n, p.mask.getLsbD n = true → ∃ q, (t.warpAt k).pathOf? n = some q ∧ q.pc = (smFind ts n).getD e.next ∧ q.run = 0#64 ∧
        q.inRun = none ∧ q.ending = none) ∧
      ∀ j, j ≠ k → t.warpAt? j = s1.warpAt? j

/-- The end of a run with EXIT (R404): its lanes have exited, with flags, waits and stack empty and results still to come discarded; the other
lanes of the path go on after the run; and the warp retires when every lane has exited, none is a helper and no trap waits (R33). -/
def Obligations.ExitsRetireTheirLanes : Prop :=
  ∀ (k : WarpKey) (n0 : Nat) (s : State) (w : Warp) (p : Path) (e : Ending) (m : Mask), Ends s k n0 w p e → e.transfer = .exit m →
    let s1 := effected s k w p e
    let w1 := s1.warpAt k
    w1.haltReq = none →
    ∃ t, exec (.runEnd k n0) s = .next t ∧ (∀ x ∈ t.maths, ¬ (x.w = k ∧ m.getLsbD x.lane = true)) ∧
      ((∃ l ∈ w1.lanes, l.exited = false ∧ m.getLsbD l.id = false) → ∀ n, w1.hasLane n →
        (m.getLsbD n = true → (t.laneAt k n).exited = true ∧ (∀ i, (t.laneAt k n).flag i = 0) ∧ (t.laneAt k n).waits = [] ∧
          (t.laneAt k n).sdepth = 0 ∧ (t.laneAt k n).stk = []) ∧
        (m.getLsbD n = false → p.mask.getLsbD n = true → (t.laneAt k n).pc = e.next ∧ (t.laneAt k n).run = 0#64)) ∧
      ((∀ l ∈ w1.lanes, (l.exited = true ∨ m.getLsbD l.id = true) ∧ l.helper = none) → w1.trapReq = none → t.warpAt? k = none)

/-- Effects at a run end: an arrival sets the arrived bit of the lanes that execute it, once (R199); BAR and BARW leave a lane that has
arrived waiting (R200, R379); CSRW writes FPCTL in each lane that executes it (R94, R98), and of a warp- or context-held register the value of
the highest lane that writes it in the run, whichever of its words that lane executes (R94, R396): HELPCTL, the RW registers, those of trap
mode in trap mode, and STICKY, whose bits clear where the value has ones, but for one that is set in the same clk (R99). A lane outside the
word's mask is as before. -/
def Obligations.RunEndEffectsAct : Prop :=
  ∀ (k : WarpKey) (s : State) (w : Warp) (within m : Mask) (n : Nat), s.warpAt? k = some w → w.hasLane n → within.getLsbD n = true →
    (∀ kind lvl num, kind < 2 → m.getLsbD n = true →
      let l := (applyEff s k within (.bar kind lvl num m)).laneAt k n
      (l.arrived.any (fun a => a.1 == lvl && a.2.1 == num)) = true ∧
      ((w.laneAt n).arrived.any (fun a => a.1 == lvl && a.2.1 == num) = false → l.arrived = (w.laneAt n).arrived ++ [(lvl, num, s.nextId)])) ∧
    (∀ kind lvl num, (kind = 0 ∨ kind = 2) → m.getLsbD n = true → (w.laneAt n).arrived.any (fun a => a.1 == lvl && a.2.1 == num) = true →
      ((applyWait s k within (.bar kind lvl num m)).laneAt k n).waits.any (fun b => b.lvl == lvl && b.num == num && b.at_.isNone) = true) ∧
    (∀ vals v, smFind (vals.filter fun v => within.getLsbD v.1) n = some v →
      ((applyEff s k within (.csrw 0x10 vals)).laneAt k n).fpctl = v &&& 0x1F#32) ∧
    (∀ (num : Nat) (xs ys : List (Nat × W32)) (v : W32), (xs.map (·.1)).Nodup → (ys.map (·.1)).Nodup →
      (∀ e ∈ xs ++ ys, within.getLsbD e.1 = true → e.1 ≤ n) → (smFind ys n = some v ∨ (smFind ys n = none ∧ smFind xs n = some v)) →
      let t := applyEffs s k within [.csrw num xs, .csrw num ys]
      (num = 0x012 → (t.warpAt k).helpctl = storedAs num v) ∧
      ((∀ e src, smFind (s.ctxAt w.ctx).csrBy num = some (e, src) → e ≠ s.ts ∨ src ≤ sourceOf k) →
        (num = 0x013 ∨ num = 0x024 ∨ (num ∈ trapModeCsrs ∧ w.trapMode = true)) → (t.ctxAt w.ctx).csrOf num = storedAs num v) ∧
      ∀ i < 32, num = 0x011 → xs = [] → (∀ e ∈ (s.ctxAt w.ctx).stickySet, e.1 = i → e.2 ≠ s.clk) →
        ((t.ctxAt w.ctx).csrOf num).getLsbD i = (((s.ctxAt w.ctx).csrOf num).getLsbD i && !v.getLsbD i)) ∧
    (∀ kind lvl num, m.getLsbD n = false →
      (applyEff s k within (.bar kind lvl num m)).laneAt k n = w.laneAt n ∧
      (applyWait s k within (.bar kind lvl num m)).laneAt k n = w.laneAt n)

/-! ### Lanes, fences, descriptors and engines -/

/-- WSYNC: when every executing lane supplies the phase's mask and is in it, the lanes take part and the wait is noted for the run end;
once every lane of its mask has taken part, or has exited and is not lent, the phase is complete and its release is noted for the same run
end (R197, R204); else, outside the handler and with one, the phase ends and every lane of it, taken or taking part, is trapped by
WSYNCMASK at the word (R204). -/
def Obligations.WsyncJoinsItsPhase : Prop :=
  ∀ (h : Hdr) (a : Code) (s : State) (c : Cur) (f : Lane) (ls : List Lane), Issues (.wsync h a) s c → active s c h = f :: ls →
    let mask := match c.w.phase with | some ph => ph.mask | none => rd s f a
    let took := (match c.w.phase with | some ph => ph.took | none => 0#32) ||| activeMask s c h
    let met (n : Nat) : Prop := (c.w.laneAt n).isLent = false ∧ (took.getLsbD n = true ∨ (c.w.laneAt n).exited = true ∨ ¬ c.w.hasLane n)
    let agree := ∀ l ∈ active s c h, rd s l a = mask ∧ mask.getLsbD l.id = true
    ∃ t, exec (.wsync h a) s = .next t ∧
      (agree → OnlyWarps s t ∧
        ((∀ n < 32, mask.getLsbD n = true → met n) →
          (t.warpAt c.key).phase = none ∧ (t.warpAt c.key).closing = c.w.closing ++ [took] ∧
          (t.warpAt c.key).pathOf? c.lane0 = some (stepRun s.clk { c.p with
            inRun := some { c.r with effs := c.r.effs ++ [.sync (activeMask s c h), .release took] } })) ∧
        ((∃ n < 32, mask.getLsbD n = true ∧ ¬ met n) →
          (t.warpAt c.key).phase = some ⟨mask, took⟩ ∧ (t.warpAt c.key).closing = c.w.closing ∧
          (t.warpAt c.key).pathOf? c.lane0 =
            some (stepRun s.clk { c.p with inRun := some (atEnd c (.sync (activeMask s c h))) })) ∧
        ∀ n, t.laneAt c.key n = { s.laneAt c.key n with
          edges := (t.laneAt c.key n).edges
          noMatch := (t.laneAt c.key n).noMatch }) ∧
      (¬ agree → bodyOf c = [] → hasHandler s c.key c.w → c.p.handler = false → c.w.trapMode = false → c.w.trapReq = none →
        WarpsAndStay s t c.w.blk ∧ (t.warpAt c.key).phase = none ∧
        (t.warpAt c.key).trapReq = some ⟨cWsyncmask, 0, c.pc, 0, took, 0, 0, 0, 0, fbHead s c.w, noted c.r⟩)

/-- VCOMPACT packs the kept elements: with at least one executing lane, lane j of them receives element base + j in Dlo when it is kept and
its position is at most 65,535, and NEXT, J and GOT in Dhi; CMPOVF is set when the count overflows (R132, R510, R511). -/
def Obligations.VcompactPacksKeptElements : Prop :=
  ∀ (h : Hdr) (d a b cc : Code) (nc : Bool) (s : State) (c : Cur) (f : Lane) (ls : List Lane),
    Issues (.vcompact h d a b cc nc) s c → active s c h = f :: ls →
    let act := active s c h
    let kept := act.filter fun l => rdP s l cc ^^ nc
    let base := ((rd s f b).extractLsb' 0 16).toNat
    let next := min (base + kept.length) 65535
    let got (j : Nat) : Bool := decide (j < kept.length ∧ base + j ≤ 65535)
    let out (l : Lane) : List (Nat × W32) := act.zipIdx.flatMap fun x =>
      if x.1 = l then
        (if got x.2 then [(d.toNat, rd s (kept.getD x.2 l) a)] else []) ++
          [(d.toNat + 1, BitVec.ofNat 32 (next + x.2 * 65536 + if got x.2 then 8388608 else 0))]
      else []
    ∃ t, exec (.vcompact h d a b cc nc) s = .next t ∧
      OnlyWarps (if 65535 < base + kept.length then s.setSticky c.w.ctx stCmpovf else s) t ∧
      Issued s t c c.r LaneKept ∧ InFlight s t c ⟨h, 6, fun _ _ l => out l⟩

/-- FENCE.full and FENCE.wb issue: the executing lanes' later accesses come after their earlier ones, their next write is a release of the
fence's scope, and the path stalls at the fence with the lanes' ranges; with no executing lane the word has no effect (R166, R171, R180,
R181). PREF issues without a fault, changes no register and at most fills a line of its core's L1 (R454, R455);
that the line which it asks for stands there at once is the model's reading (log 13). -/
def Obligations.FencesAndPrefetchesIssue : Prop :=
  (∀ (i : Instr) (h : Hdr) (scope : BitVec 3) (ranges : State → Cur → List (Nat × Nat × Nat)) (s : State) (c : Cur),
    ((∃ cache, i = .fenceFull h scope cache) ∧ ranges = (fun _ _ => []) ∨
      (∃ a b cache, i = .fenceWb h a b scope cache ∧
        ranges = fun s c => (active s c h).map fun l => (l.id, (rd64 s l a).toNat, (rd s l b).toNat))) →
    Issues i s c →
    let m := activeMask s c h
    ∃ t, exec i s = .next t ∧ OnlyWarps s t ∧
      Issued s t c (if m = 0#32 then c.r else { c.r with fence := some ⟨m, s.nextId, scope, ranges s c, none⟩ })
        (fun l l' => l' = { (if m.getLsbD l.id then
            { l with
              fcs := s.nextId
              fu := if 4 ≤ scope.toNat then s.nextId else l.fu
              frel := l.frel ++ [(scope.toNat + 1, s.nextId)] }
          else l) with noMatch := l'.noMatch })) ∧
  (∀ (h : Hdr) (a b : Code) (m : MFld) (s : State) (c : Cur), Issues (.pref h a b m) s c →
    ∃ t, exec (.pref h a b m) s = .next t ∧
      t = { s with warps := t.warps, issueQ := s.issueQ.drop 1, free := s.free + 1, cores := t.cores } ∧
      Issued s t c c.r LaneKept ∧
      (∀ k, t.coreAt k = if k = c.key.core then { s.coreAt k with l1 := (t.coreAt k).l1 } else s.coreAt k) ∧
      (∀ l p, active s c h = [l] → isAperture (address (rd64 s l a) (rd s l b) m.off 4).toNat = false →
        translate s (s.ctxAt c.w.ctx) (address (rd64 s l a) (rd s l b) m.off 4).toNat .rd = .ok p → p.remote = none →
        portDown s p = false → tentLine s (lineOf p.key) = false →
        ⟨lineOf p.key, lineCells s.mem (lineOf p.key), lineTags s.keyTags (lineOf p.key), p.kind, s.clk⟩ ∈ (t.coreAt c.key.core).l1))

/-- TDSET makes one store of each executing lane to its descriptor, of the 512 bits in its 16 registers, lowest first (R498, R499). FTEST.raw
writes the raw handle of the command for which Ga is pending, and retains its slot, or the done form (R212), whose CORE field, which R212 does
not give, the model writes as 0 (log 92). -/
def Obligations.DescriptorAndRawWordsComplete : Prop :=
  (∀ (h : Hdr) (a b : Code) (s : State) (c : Cur), Issues (.tdset h a b) s c →
    ∃ t new, exec (.tdset h a b) s = .next t ∧
      t = { s with
        warps := t.warps
        issueQ := s.issueQ.drop 1
        free := s.free + 1
        accesses := s.accesses ++ new
        nextId := s.nextId + new.length } ∧
      List.Forall₂ (fun l x => x.kind = .tdset ∧ x.w = c.key ∧ x.lane = l.id ∧ x.loc = .desc c.w.ctx ((rd s l a).toNat % 256) ∧
        x.st = .pending ∧ x.flag = none ∧ ∀ i < 16, x.wide.extractLsb' (32 * i) 32 = rd s l (b + BitVec.ofNat 8 i))
        (active s c h) new ∧
      new.map (·.id) = (List.range new.length).map (s.nextId + ·) ∧ Issued s t c c.r LaneKept) ∧
  (∀ (h : Hdr) (d a : Code) (s : State) (c : Cur), Issues (.ftestRaw h d a) s c →
    let ref (l : Lane) : Option FutRef := (((gLane s l).pend.filter fun e => e.1 == a.toNat).getLast?).map (·.2)
    ∃ t, exec (.ftestRaw h d a) s = .next t ∧
      t = { s with
        warps := t.warps
        issueQ := s.issueQ.drop 1
        free := s.free + 1
        ops := s.ops.map fun o =>
          if (active s c h).any (fun l => ref l == some ⟨o.core, o.slot, o.seq⟩) then { o with retained := true } else o } ∧
      Issued s t c c.r LaneKept ∧
      InFlight s t c ⟨h, 2, fun _ _ l =>
        let v : W64 := match (ref l).bind s.opOf? with
          | none => 0x80000000F0000000#64
          | some o => 1#1 ++ 0#23 ++ BitVec.ofNat 8 o.core ++ handle (classOf s.free o.kind) o
        regs d (v.extractLsb' 0 32) (v.extractLsb' 32 32)⟩)

/-- FCANCEL and FCANCEL.raw: a command that is not over is asked to stop, an armed one stops at once and its slot is empty (R156, R214),
and so does a command of the matrix engine that waits behind another block (R409); FCANCEL.raw lets the retained slot go, at once when its
command has resolved (R214); nothing else changes. -/
def Obligations.CancelWordsAskTheirCommands : Prop :=
  (∀ (h : Hdr) (a : Code) (s : State) (c : Cur), Issues (.fcancel h a) s c → (∀ l ∈ active s c h, pendRef? s l a = none) →
    ∃ t, exec (.fcancel h a) s = .next t ∧ OnlyWarps s t ∧ Issued s t c c.r LaneKept) ∧
  (∀ (h : Hdr) (a : Code) (s : State) (c : Cur), Issues (.fcancelRaw h a) s c →
    (∀ l ∈ active s c h, rawTarget? s c.w.ctx (rd64 s l a) = none) →
    ∃ t, exec (.fcancelRaw h a) s = .next t ∧ OnlyWarps s t ∧ Issued s t c c.r LaneKept) ∧
  (∀ (h : Hdr) (a : Code) (s : State) (c : Cur) (l : Lane) (r : FutRef) (o : EngOp), Issues (.fcancel h a) s c → active s c h = [l] →
    pendRef? s l a = some r → s.opOf? r = some o → o.over = false →
    ∃ t, exec (.fcancel h a) s = .next t ∧ t.mem = s.mem ∧
      (o.state ≠ .armed →
        t = { s with warps := t.warps, issueQ := s.issueQ.drop 1, free := s.free + 1, ops := t.ops } ∧
        Issued s t c c.r LaneKept ∧
        t.opOf? r = some (if behindOther s o then { o with state := .stopped } else { o with cancelReq := true })) ∧
      (∀ w k, o.state = .armed → opWarp? s o = some w → w.mq.find? (fun e => e.2 == r) = some (k, r) → smFind w.mq k = some r →
        t = { s with
          warps := t.warps
          issueQ := s.issueQ.drop 1
          free := t.free
          ops := t.ops
          cores := t.cores
          saved := t.saved } ∧
        t.opOf? r = some { o with state := .stopped } ∧ smFind (t.warpAt o.w).mq k = none)) ∧
  (∀ (h : Hdr) (a : Code) (s : State) (c : Cur) (l : Lane) (o : EngOp), Issues (.fcancelRaw h a) s c → active s c h = [l] →
    rawTarget? s c.w.ctx (rd64 s l a) = some o → s.ops.filter (fun q => q.ref == o.ref) = [o] → o.state ≠ .armed →
    ∃ t, exec (.fcancelRaw h a) s = .next t ∧
      t = { s with warps := t.warps, issueQ := s.issueQ.drop 1, free := s.free + 1, ops := t.ops } ∧
      Issued s t c c.r LaneKept ∧
      t.ops.filter (fun q => q.ref == o.ref) =
        (if o.resolved then []
         else if o.over = false ∧ behindOther s o = true then [{ o with state := .stopped, retained := false }]
         else [{ o with cancelReq := o.cancelReq || !o.over, retained := false }]))

/-- Engine words that send one command per lane complete at issue (R34 to R37): while future slots are free, each executing lane's command
stands in a slot of its own with the operands and descriptors of its entry, held by the fork, its handle stands in Gd, which is pending, and
memory, every other register and every other command are as before. -/
def Obligations.EngineLaneWordsIssue : Prop :=
  ∀ (i : Instr) (r : SendRow) (s : State) (c : Cur), sendRow i = some r → Issues i s c → (active s c r.hdr).length ≤ slotsLeft s c →
    ∃ t new, exec i s = .next t ∧ OnlyEngines s t ∧ t.ops = s.ops ++ new ∧
      List.Forall₂ (Sends s c r) (active s c r.hdr) new ∧ (new.map (·.slot)).Nodup ∧
      Issued s t c { c.r with slots := c.r.slots - new.length } (LaneSent s c r.hdr r.dst) ∧
      ∀ l ∈ active s c r.hdr, ∃ o ∈ new, o.lanes = maskOf [l.id] ∧ Awaits r.cls r.dst (t.laneAt c.key l.id) o

/-- Engine words that send one command per path complete at issue (R37, R250): with an executing lane and a free slot, one command for the
executing lanes, with the operands of the lowest of them, stands in a slot, and each of them has its handle and is pending; with none, the
word has no effect. An MMUL with .arm stands armed in the warp's matrix slot (R156). -/
def Obligations.EnginePathWordsIssue : Prop :=
  (∀ (i : Instr) (r : PathRow) (s : State) (c : Cur), pathRow i = some r → Issues i s c →
    (active s c r.hdr = [] → ∃ t, exec i s = .next t ∧ OnlyWarps s t ∧ Issued s t c c.r LaneKept) ∧
    ∀ l ls, active s c r.hdr = l :: ls → r.ok s l → 1 ≤ slotsLeft s c →
      ∃ t o, exec i s = .next t ∧ OnlyEngines s t ∧ t.ops = s.ops ++ [o] ∧ Sent s c r.kind (activeMask s c r.hdr) r.dst o ∧
        o.ga = r.ga s l ∧ o.gb = r.gb s l ∧ o.gc = r.gc s l ∧ o.ectl = r.ectl ∧ o.state = .held ∧
        (∀ h d a b, i = .smemb h d a b → o.laneArgs = (l :: ls).map fun x => (x.id, rd s x a, rd s x b)) ∧
        Issued s t c { c.r with slots := c.r.slots - 1 } (LaneSent s c r.hdr r.dst) ∧
        ∀ x ∈ l :: ls, Awaits (some r.cls) r.dst (t.laneAt c.key x.id) o) ∧
  (∀ (h : Hdr) (d a b cc : Code) (p : BitVec 4) (slot : BitVec 2) (s : State) (c : Cur), Issues (.mmul h d a b cc p true slot) s c →
    (active s c h = [] → ∃ t, exec (.mmul h d a b cc p true slot) s = .next t ∧ OnlyWarps s t ∧ Issued s t c c.r LaneKept) ∧
    ∀ l ls, active s c h = l :: ls → 1 ≤ slotsLeft s c →
      ∃ t o, exec (.mmul h d a b cc p true slot) s = .next t ∧ t.mem = s.mem ∧ o ∈ t.ops ∧
        Sent s c .mmul (activeMask s c h) d o ∧ o.state = .armed ∧ o.ga = op32 a s l ∧ o.gb = op32 b s l ∧ o.gc = op32 cc s l ∧
        smFind (t.warpAt c.key).mq slot.toNat = some o.ref ∧ (∀ q ∈ s.ops, q.state ≠ .armed → q ∈ t.ops) ∧
        ∀ x ∈ l :: ls, Awaits (some 1) d (t.laneAt c.key x.id) o)

/-! ### The memory system -/

/-- Tentative words at the home, of 32 and of 64 bits (R286, R288, R290): STT to words that are nobody's, with room on its core, writes
them, keeps their old values and answers 1; with no free line it writes nothing and answers 0, and so it does where a word is another
thread's; the owner's STT to its own words writes them, keeps the old values of the first, and answers 1. RETRACT of unobserved words of
the thread's own puts the old values back and answers 1; of observed ones, or when not all are its own, it answers 0 and memory stands;
where their line was evicted it answers 0, memory stands, and STICKY.EVICTED is set. RETRACT and COMMIT leave the thread no word there. Of
the threads nothing changes but that a FENCE's release may be used up (R171). -/
def Obligations.TentativeWordsAtHome : Prop :=
  ∀ (s : State) (a : Access) (key : Nat), AtHome s a key → (a.bytes = 4 ∨ a.bytes = 8) → key % a.bytes = 0 → s.Inv →
    (a.kind = .stt ∨ a.kind = .retract ∨ a.kind = .commit) →
    let words : List Nat := if a.bytes = 8 then [key, key + 4] else [key]
    let free (k : Nat) : Prop := ∀ x ∈ s.tentWords, x.key ≠ k
    let mine (k : Nat) : Prop := ∃ x ∈ s.tentWords, ownWord a k x
    let foreign (k : Nat) : Prop := ∃ x ∈ s.tentWords, x.key = k ∧ ¬ ownWord a k x
    let tracked := (s.coreAt a.w.core).tent.any (fun e => e.line == lineOf key) = true
    let writes (t : State) (v : Nat → Nat) : Prop := ∀ x, memGet t.mem x =
      if key ≤ x ∧ x < key + a.bytes then BitVec.ofNat 8 (v (x - key) % 256) else memGet s.mem x
    ∃ t, exec (.homeAccess (.thread a.id)) s = .next t ∧
      (∀ k n, t.laneAt k n = { s.laneAt k n with frel := (t.laneAt k n).frel }) ∧ (a.kind = .commit → t.warps = s.warps) ∧
      (a.kind = .stt → a.flag.isSome = true →
        ((∀ k ∈ words, free k) → (tracked ∨ (s.coreAt a.w.core).tent.length < Config.tentLines) →
          writes t (fun i => a.data.toNat / 256 ^ i) ∧ Answers t a 1 ∧
          ∀ k ∈ words, ⟨k, BitVec.ofNat 32 (memRead s.mem k 4), false, a.ctx, a.wid, some a.w.core⟩ ∈ t.tentWords) ∧
        ((∀ k ∈ words, free k) → ¬ tracked → Config.tentLines ≤ (s.coreAt a.w.core).tent.length → t.mem = s.mem ∧ Answers t a 0) ∧
        ((∃ k ∈ words, foreign k) → t.mem = s.mem ∧ Answers t a 0) ∧
        ((∀ k ∈ words, mine k ∧ ¬ foreign k) →
          writes t (fun i => a.data.toNat / 256 ^ i) ∧ Answers t a 1 ∧
          (∀ x ∈ s.tentWords, x.key ∈ words → { x with core := some a.w.core } ∈ t.tentWords) ∧
          (t.tentWords.filter fun x => words.contains x.key).length = (s.tentWords.filter fun x => words.contains x.key).length)) ∧
      (a.kind = .retract → a.flag.isSome = true →
        let evicted := evictedEntry s a.w.core (lineOf key) (a.ctx, a.wid)
        let own := s.tentWords.filter fun x => words.contains x.key && x.ctx == a.ctx && x.wid == a.wid
        (evicted = true → t.mem = s.mem ∧ Answers t a 0 ∧ (a.ctx < 64 → ((t.ctxAt a.ctx).csrOf 0x11).getLsbD 6 = true)) ∧
        (evicted = false → (own.map (·.key)).Nodup → (∀ k ∈ words, mine k) → (∀ x ∈ own, x.observed = false) →
          writes t (fun i => ((own.find? fun x => x.key == key + i / 4 * 4).map fun x => x.old.toNat / 256 ^ (i % 4)).getD 0) ∧
          Answers t a 1) ∧
        ((own.map (·.key)).Nodup → ((∃ k ∈ words, ¬ mine k) ∨ ∃ x ∈ own, x.observed = true) → t.mem = s.mem ∧ Answers t a 0)) ∧
      (a.kind = .commit → t.mem = s.mem) ∧
      ((a.kind = .commit ∨ a.kind = .retract) → ∀ x ∈ t.tentWords, ∀ k ∈ words, ¬ ownWord a k x)

/-- MWAIT at the home (R215, R216): while its word holds the value that D held, the lane parks; when the word differs, at once or at a later
look (MWAIT_WAKE), the access answers with the word, in which bytes of the thread's control entries are unspecified (R160); memory and
registers are as before. -/
def Obligations.MwaitParksAndWakes : Prop :=
  ∀ (s : State) (a : Access) (key : Nat), a.kind = .mwait → a.flag.isSome = true → a.loc = .mem key →
    s.accesses.find? (fun x => x.id == a.id) = some a → anyForeign s key a.bytes a.tkey = false → failedPort? s a = none →
    let word := hideControl s a (memRead s.mem key a.bytes)
    (canPerform s a = true → otherHalf? s a = none →
      ∃ t, exec (.homeAccess (.thread a.id)) s = .next t ∧ t.mem = s.mem ∧ t.warps = s.warps ∧
        (word = a.cmp.toNat % 256 ^ a.bytes → ∃ b ∈ t.accesses, b.id = a.id ∧ b.st = .parked) ∧
        (word ≠ a.cmp.toNat % 256 ^ a.bytes → Answers t a word)) ∧
    (a.st = .parked →
      ∃ t, exec (.mwaitWake a.id) s = .next t ∧ t.mem = s.mem ∧ t.warps = s.warps ∧
        (word = a.cmp.toNat % 256 ^ a.bytes → t = s) ∧
        (word ≠ a.cmp.toNat % 256 ^ a.bytes → Answers t a word))

/-- LONG_LATENCY_COMPLETE of a performed access (R78), behind the results of special functions while its warp waits to enter a trap, and
with the lane's fixed-latency results written first (R319): its value reaches its registers, G127 included, the predicate of STT and
RETRACT its bit, and none for ZERO; the flag counts down, for a 16-byte access with its high half only, which lands last (R163); the access
is over, and nothing else changes. The result of an MWAIT of interrupted code, in a lane of the handler path, is left to TRAPRET (R324). -/
def Obligations.LoadResultsLand : Prop :=
  ∀ (s : State) (a : Access) (f : Nat), s.maths.find? (fun m => m.id == a.id) = none →
    s.accesses.find? (fun x => x.id == a.id) = some a → a.st = .performed → a.flag = some f →
    (heldForHandler s a = true → exec (.longLatencyComplete a.id) s = .next s) ∧
    (heldForHandler s a = false → specialsFirst s a.w a.lane = false →
    (a.half = true ∨ ∀ b ∈ s.accesses, ¬ (b.half = true ∧ b.grp = a.grp ∧ b.lane = a.lane)) →
    ∃ t, exec (.longLatencyComplete a.id) s = .next t ∧
      t = { s with accesses := s.accesses.filter (fun b => b.id != a.id), warps := t.warps } ∧
      (∀ k, k ≠ a.w → t.warpAt? k = s.warpAt? k) ∧ (∀ n, n ≠ a.lane → t.laneAt a.w n = s.laneAt a.w n) ∧
      ((∃ w, s.warpAt? a.w = some w ∧ w.hasLane a.lane) →
        let l := atEntry (s.warpAt a.w) (s.laneAt a.w a.lane)
        let l' := t.laneAt a.w a.lane
        l'.flag f = l.flag f - (if a.half then 0 else 1) ∧ (∀ j, j ≠ f → l'.flag j = l.flag j) ∧
        (a.kind ∈ [.ld, .atom, .cas, .mwait] → a.bytes ∈ [1, 2, 4, 8] →
          (a.dst < 127 ∨ (a.dst = 127 ∧ a.bytes ≠ 8) →
            (∀ v ∈ arrived a, smGet 0#32 l'.g v.1 = v.2) ∧
            (∀ j, j ∉ (arrived a).map (·.1) → smGet 0#32 l'.g j = smGet 0#32 l.g j) ∧
            l' = { l with g := l'.g, f := l'.f }) ∧
          (a.dst ∈ [0x88, 0x8A] → l' = { l with f := l'.f })) ∧
        (∀ i < 7, (a.kind = .stt ∨ a.kind = .retract) → a.dst = 0x90 + i →
          (∀ j < 8, l'.p.getLsbD j = if j = i then a.result.getLsbD 0 else l.p.getLsbD j) ∧ l' = { l with p := l'.p, f := l'.f })))

/-! ### Events of partitions, memory, engines and barriers -/

/-- PARTITION_ISSUE_CLK: a partition that has not had this clk has it, and the words that it issues are its own; one that has had it leaves
the state while another resident partition has not, and begins the next clk once all have (R23). RUN_FETCH_COMPLETE: a missing run of at most
25 words enters the partition's run buffer, its words those of memory up to the trailer, or a failed fetch without words (R74, R105). -/
def Obligations.PartitionEventsComplete : Prop :=
  (∀ (core part : Nat) (s : State),
    let served := (s.partAt core part).served = some s.clk
    let others := (residentParts s).any fun q => q != (core, part) && !servedNow s q.1 q.2
    ∃ t new, exec (.partitionIssueClk core part) s = .next t ∧ t.issueQ = s.issueQ ++ new ∧ t.agenda = s.agenda ∧
      (∀ q ∈ new, q.1.core = core ∧ q.1.part = part) ∧
      (served → others = true → t = s) ∧
      (¬ served → t.clk = s.clk ∧ (t.partAt core part).served = some s.clk) ∧
      (served → others = false → t.clk = s.clk + 1 ∧ (t.partAt core part).served = some (s.clk + 1))) ∧
  (∀ (core part x : Nat) (pc : W64) (s : State),
    let missing := ∀ b ∈ (s.partAt core part).runbuf, ¬ (b.ctx = x ∧ b.pc = pc)
    ∃ t, exec (.runFetchComplete core part x pc) s = .next t ∧ t.mem = s.mem ∧ t.warps = s.warps ∧
      (¬ missing → t = s) ∧
      (missing → ∃ b ∈ (t.partAt core part).runbuf, b.ctx = x ∧ b.pc = pc ∧ b.words.length ≤ 25 ∧ (b.fault.isSome = true → b.words = []) ∧
        ∀ p, pc.toNat % 128 = 0 → (s.coreAt core).icache.find? (fun e => e.ctx == x && e.va == pc) = none →
          isAperture pc.toNat = false → translate s (s.ctxAt x) pc.toNat .fetch = .ok p → portDown s p = false → p.remote = none →
          (∀ i < 16, anyForeign s (p.key + 8 * i) 8 p.tkey = false) →
          let ws := (List.range 16).map fun i => BitVec.ofNat 64 (memRead s.mem (p.key + 8 * i) 8)
          let n := (ws.takeWhile fun w => !isTrailer w).length
          n < 16 → b.words = ws.take (n + 1) ∧ b.fault = none))

/-- Events of held paths, caches and walks: JOINH_HOLD_EXPIRY ends a hold that binds no longer (R26), YIELD_EXPIRY a yield after 16 clk
(R514), L1_LINE_EXPIRY drops a line of one core (R165), STACK_FILL_COMPLETE brings a lane's topmost entry back (R160),
WRITE_BACK_REACHED_DRAM makes a line clean (R181), PAGE_WALK_COMPLETE ends a walk (R149). -/
def Obligations.HoldAndCacheEventsComplete : Prop :=
  (∀ (k : WarpKey) (n : Nat) (s : State) (w : Warp) (p : Path), s.warpAt? k = some w → w.pathOf? n = some p →
    (∃ t, exec (.joinhHoldExpiry k n) s = .next t ∧ t = { s with warps := t.warps } ∧
      (held s w p = true → t = s) ∧ (held s w p = false → (t.warpAt k).pathOf? n = some { p with hold := none })) ∧
    ∃ t, exec (.yieldExpiry k n) s = .next t ∧ t = { s with warps := t.warps } ∧
      (t.warpAt k).pathOf? n =
        some { p with yieldAt := match p.yieldAt with | some u => if u + 16 ≤ s.clk then none else some u | none => none }) ∧
  (∀ (core line : Nat) (s : State), ∃ t, exec (.l1LineExpiry core line) s = .next t ∧ t = { s with cores := t.cores } ∧
    ∀ k, t.coreAt k = if k = core then { s.coreAt k with l1 := (s.coreAt k).l1.filter fun e => e.line != line } else s.coreAt k) ∧
  (∀ (k : WarpKey) (n : Nat) (s : State), ∃ t, exec (.stackFillComplete k n) s = .next t ∧ t.mem = s.mem ∧
    (∀ k', k' ≠ k → t.warpAt? k' = s.warpAt? k') ∧
    ∀ w, s.warpAt? k = some w → w.hasLane n →
      let fills := (w.laneAt n).cached = 0 ∧ (w.laneAt n).stk ≠ []
      (¬ fills → t = s) ∧ (fills → t.laneAt k n = { w.laneAt n with cached := 1 }) ∧
      ∀ m, m ≠ n → w.hasLane m → t.laneAt k m = w.laneAt m) ∧
  (∀ (line : Nat) (s : State), ∃ t, exec (.writeBackReachedDram line) s = .next t ∧ t.mem = s.mem ∧
    t.writeBacks = s.writeBacks.filter (· != line) ∧ smFind t.dram line = none) ∧
  (∀ (x page : Nat) (s : State),
    let ends (v : Walk) := v.active = true ∧ v.ctx = x ∧ v.page = page
    ∃ t, exec (.pageWalkComplete x page) s = .next t ∧ t = { s with walks := t.walks, tlb := t.tlb } ∧
      ((∀ v ∈ s.walks, ¬ ends v) → t = s) ∧
      (∀ v ∈ t.walks, ∃ u ∈ s.walks, v.die = u.die ∧ v.ctx = u.ctx ∧ v.page = u.page ∧ (u.active = true → v.active = true) ∧ ¬ ends u) ∧
      ∀ e size, (∃ v ∈ s.walks, ends v) → walkTable s (s.ctxAt x).root page = some (e, size) → tlbFind s x page = none →
        ⟨x, page / size * size, size, BitVec.ofNat 64 e⟩ ∈ t.tlb)

/-- Events of engine commands: ENGINE_FORK_RELEASE lets a command whose fork has come to its engine (R175); ENGINE_OP_COMPLETE writes the
result of a command that is over into Gd of its lanes, or a fault bit with its cause, and the register is pending no longer (R35, R327);
RANGE_ENTRY_RETIRE frees an entry whose command is over (R153). -/
def Obligations.EngineEventsComplete : Prop :=
  (∀ (core slot : Nat) (s : State) (o : EngOp), s.opAt? core slot = some o →
    ∃ t, exec (.engineForkRelease core slot) s = .next t ∧ (forkReady s o = false → t = s) ∧
      (forkReady s o = true → isMatrix o.kind = true → t.opAt? core slot = some { o with state := .queued }) ∧
      (forkReady s o = true → isMatrix o.kind = false → isSet o.kind = false → o.kind ≠ .fwait →
        t.opAt? core slot = some { o with state := if entriesHeld s o then .running else .entries }) ∧
      (forkReady s o = true → o.kind = .fwait → o.ga = 0x80000000F0000000#64 →
        t.opAt? core slot = some { o with state := .done ((lanesOf o.lanes).map fun n => (n, 0#32)) })) ∧
  (∀ (core slot : Nat) (s : State) (o : EngOp) (w : Warp), s.opAt? core slot = some o → o.over = true → o.resolved = false →
    (s.blockAt o.blk).saved = false → s.warpAt? o.w = some w → w.blk = o.blk → (∀ r ∈ s.reports, r.owner ≠ o.born) → o.laneSub = [] →
    o.gone = false → launchDrained s o = true →
    ∃ t, exec (.engineOpComplete core slot) s = .next t ∧ t.mem = s.mem ∧
      (o.retained = false → s.ops.filter (fun q => q.ref == o.ref) = [o] → ∀ q ∈ t.ops, q.ref ≠ o.ref) ∧
      ∀ n, w.hasLane n → o.lanes.getLsbD n = true →
        let l := w.laneAt n
        let l' := t.laneAt o.w n
        l' = { l with g := l'.g, pend := l'.pend, faults := l'.faults } ∧ (∀ j, j ≠ o.dst → smGet 0#32 l'.g j = smGet 0#32 l.g j) ∧
        l'.pend = l.pend.filter (fun e => !(e.1 == o.dst && e.2 == o.ref)) ∧
        (∀ vs v, o.state = .done vs → smFind vs n = some v → smGet 0#32 l'.g o.dst = v ∧ l'.faults = l.faults) ∧
        (o.state = .stopped → smGet 0#32 l'.g o.dst = 0xFFFFFFFF#32 ∧ l'.faults = l.faults) ∧
        (∀ sub, o.state = .fault sub → ∃ f, smFind l'.faults o.dst = some f ∧ f.sub = sub ∧ f.epc = o.epc ∧ f.seq = o.seq)) ∧
  (∀ (core entry : Nat) (s : State), ∃ t, exec (.rangeEntryRetire core entry) s = .next t ∧ t.mem = s.mem ∧ t.warps = s.warps ∧
    ((∀ e ∈ (s.coreAt core).ranges, e.id = entry → entryDone s e = false) → t = s) ∧
    ((∃ e ∈ (s.coreAt core).ranges, e.id = entry ∧ entryDone s e = true) → ∀ e ∈ (t.coreAt core).ranges, e.id ≠ entry))

/-- The matrix engine and the directory of sets, each event with what it does. MATRIX_COMMAND_ACCEPT: a command that reaches the engine
takes it when no block holds it, everything in it zero, or queues when its own block does; it waits at the engine while another block holds
it or an earlier command waits; MSTAT answers (R247 to R249, R265). MMUL_ROW_TIME_ELAPSED: a row of the executing MMUL has its partials
added, and with its last k-step it is promoted into the accumulators, which no other row is (R259 to R261). SET_KEY_APPEND: a key that
changes the set is appended to its log and counted, one that does not is passed over, and a failed check ends the command (R234, R470,
R474). FOLD_IDLE_START: the keys of the log are folded into chunks as R228 and R229 say, or, for want of room or for a failed check, stay
(R235, R237). FOLD_PUBLISH: the fold's table takes the place of the last, which stays for its readers (R236, R238). That a fold takes its
storage when it starts, and tries again 1 µs after one that found none, is the model's reading (log 35), and so are the word that MSTAT
answers (log 59) and how the partials of a row are aligned and marked (log 60). -/
def Obligations.MatrixAndSetEventsComplete : Prop :=
  (∀ (core slot : Nat) (s : State) (o : EngOp), s.opAt? core slot = some o → isMatrix o.kind = true → o.state = .queued →
    let m := (s.coreAt (engCore s o)).mat
    m.queue.contains o.born = false → (m.waiting.contains o.born = true ∨ mayReach s o = true) →
    ∃ t, exec (.matrixCommandAccept core slot) s = .next t ∧ t.mem = s.mem ∧ t.warps = s.warps ∧
      let m' := (t.coreAt (engCore s o)).mat
      let mine := m.holder = none ∨ m.holder = some o.blk
      (o.kind = .mstat → m' = m ∧
        t.opAt? core slot = some { o with state := .done ((lanesOf o.lanes).map fun n => (n, mstatWord s o)) }) ∧
      (o.kind ≠ .mstat → mine → noneWaits s m o = true →
        m' = { (if m.holder = none then { blankMatrix with holder := some o.blk } else m) with
          queue := (if m.holder = none then [] else m.queue) ++ [o.born]
          waiting := m.waiting.filter (· != o.born) }) ∧
      (o.kind ≠ .mstat → ¬ (mine ∧ noneWaits s m o = true) →
        m' = { m with waiting := if m.waiting.contains o.born then m.waiting else m.waiting ++ [o.born] })) ∧
  (∀ (core slot : Nat) (s : State) (o : EngOp), s.opAt? core slot = some o →
    (isMatrix o.kind = false ∨ o.state ≠ .queued) → exec (.matrixCommandAccept core slot) s = .next s) ∧
  (∀ (core : Nat) (s : State) (o : EngOp) (row : ARow),
    s.ops.find? (fun o => engCore s o == core && o.kind == .mmul && o.state == .running && o.prog < (rowsNamed o).2) = some o →
    let m := (s.coreAt core).mat
    let st := m.seat (mSeat o)
    let r := (rowsNamed o).1 + o.prog
    r < 64 → feedRow s o st o.prog = .ok row →
    let last := o.ectl % 16 ≤ smGet 0 m.steps r
    let sum (n : Nat) : Int × Int :=
      if row.mark || smGet false st.mark n then (0, -128)
      else addAligned (smGet (0, 0) m.narrow (256 * r + n)) (partialSum st row.a n) (row.xa + smGet 0 st.xb n)
    ∃ t, exec (.mmulRowTimeElapsed core) s = .next t ∧ t.mem = s.mem ∧ t.warps = s.warps ∧
      (∃ q ∈ t.ops, q.ref = o.ref ∧ q.prog = o.prog + 1 ∧ q.acc = o.acc + BitVec.ofNat 32 (rowTime row) ∧ q.state = .running) ∧
      let m' := (t.coreAt core).mat
      m'.seat0 = m.seat0 ∧ m'.seat1 = m.seat1 ∧ m'.queue = m.queue ∧ m'.holder = m.holder ∧
      (∀ i, i / 256 ≠ r → smGet (0, 0) m'.narrow i = smGet (0, 0) m.narrow i ∧ smGet 0#32 m'.acc i = smGet 0#32 m.acc i) ∧
      (∀ k, k ≠ r → smGet 0 m'.steps k = smGet 0 m.steps k) ∧
      (¬ last → smGet 0 m'.steps r = smGet 0 m.steps r + 1) ∧ (last → smGet 0 m'.steps r = 0) ∧
      ∀ n < 256,
        (¬ last → smGet (0, 0) m'.narrow (256 * r + n) = sum n ∧ smGet 0#32 m'.acc (256 * r + n) = smGet 0#32 m.acc (256 * r + n)) ∧
        (last → smGet (0, 0) m'.narrow (256 * r + n) = (0, 0) ∧
          smGet 0#32 m'.acc (256 * r + n) =
            if integerPath o st then (promoteI s.free (256 * r + n) (narrowVal (sum n)) (smGet 0#32 m.acc (256 * r + n))).1
            else promoteF (narrowVal (sum n)) (smGet 0#32 m.acc (256 * r + n)))) ∧
  (∀ (core slot : Nat) (s : State) (o : EngOp), s.opAt? core slot = some o → keyReady s o = true →
    (∀ c, entryFor s o (o.ga.setWidth 32) = .error c → ∃ t, exec (.setKeyAppend core slot) s = .next t ∧ EndsWith s t o c) ∧
    ∀ e, entryFor s o (o.ga.setWidth 32) = .ok e →
      (∀ c, engRead s o (vaPlus o.gb.toNat (4 * o.prog)) 4 = .error c → ∃ t, exec (.setKeyAppend core slot) s = .next t ∧ EndsWith s t o c) ∧
      ∀ k, engRead s o (vaPlus o.gb.toNat (4 * o.prog)) 4 = .ok k →
        (tableReads e.repAt e.rep fun c => c.hi == k / 2 ^ 16).findSome? (crockCause s o.ctx .rd) = none →
        let ins := decide (o.kind = .sins)
        (present e.rep e.log k = ins →
          ∃ t, exec (.setKeyAppend core slot) s = .next t ∧ t.mem = s.mem ∧ t.warps = s.warps ∧ t.ctxs = s.ctxs ∧
            ∃ q, t.opAt? core slot = some q ∧ q = { o with prog := o.prog + 1, waits := q.waits }) ∧
        (present e.rep e.log k ≠ ins → e.log.length < 15 ∨ (e.log.length = 15 ∧ e.fold.isSome = true) →
          ∃ t, exec (.setKeyAppend core slot) s = .next t ∧ t.warps = s.warps ∧ EntryOnly s t o.ctx e.heap e.idx ∧
            OneEntry s t o.ctx e.heap e.idx { e with log := e.log ++ [(k, ins)], lastAppend := s.clk } ∧
            ∃ q, t.opAt? core slot = some q ∧ q = { o with prog := o.prog + 1, acc := o.acc + 1, waits := q.waits })) ∧
  (∀ (x idx : Nat) (s : State),
    let first := (s.ctxAt x).sets.find? fun e => e.idx == idx && foldIdle s e
    (first = none → exec (.foldIdleStart x idx) s = .next s) ∧
    ∀ e, first = some e →
      let hdr := match heapHeader s x e.heap with | .ok h => h | .error _ => 0
      let read := (foldReads e).foldl (fun s r => crockTouch s x r) (crockTouch s x (e.heap, 64))
      let made := writeTable read x hdr e.tier e.heap (foldChunks e e.log.length).1 (foldChunks e e.log.length).2
      let starts := (foldReads e).findSome? (crockCause read x .rd) = none ∧ ∃ m, made = some (.ok m)
      (∀ u cs tab, made = some (.ok (u, cs, tab)) → starts →
        ∃ t, exec (.foldIdleStart x idx) s = .next t ∧ t.warps = s.warps ∧ SameOps s t ∧
          OneEntry s t x e.heap idx { e with foldn := e.log.length, fold := some cs, foldAt := tab } ∧
          (∀ c ∈ e.rep, (∀ k ∈ e.log, k.1 / 2 ^ 16 ≠ c.hi) → c ∈ cs) ∧
          ∀ k ∈ e.log,
            let old := e.rep.find? fun c => c.hi == k.1 / 2 ^ 16
            let log := e.log.filter fun j => j.1 / 2 ^ 16 == k.1 / 2 ^ 16
            let keys := applyLog ((old.map (·.keys)).getD []) log
            let m := match old with | some c => min 131071 (c.m + log.length) | none => 0
            let rep := policy keys (old.map (·.repk)) m
            keys ≠ [] → ∃ c ∈ cs, c.hi = k.1 / 2 ^ 16 ∧ c.keys = keys ∧ c.repk = rep ∧ c.m = mutations old log.length rep) ∧
      (¬ starts →
        ∃ t, exec (.foldIdleStart x idx) s = .next t ∧ t.warps = s.warps ∧ SameOps s t ∧ EntryOnly s t x e.heap idx ∧
          OneEntry s t x e.heap idx { e with lastAppend := s.clk })) ∧
  (∀ (x idx : Nat) (s : State),
    let first := (s.ctxAt x).sets.find? fun e => e.idx == idx && foldDone e
    (first = none → exec (.foldPublish x idx) s = .next s) ∧
    ∀ e cs, first = some e → e.fold = some cs →
      ∃ t, exec (.foldPublish x idx) s = .next t ∧ t.warps = s.warps ∧ SameOps s t ∧ EntryOnly s t x e.heap idx ∧
        OneEntry s t x e.heap idx
          { e with
            rep := cs
            repAt := e.foldAt
            orep := if e.rdr = 0 ∨ e.rep = [] then none else some e.rep
            orepAt := if e.rdr = 0 then 0 else e.repAt
            ordr := e.rdr
            rdr := 0
            ver := e.ver + 1
            log := e.log.drop e.foldn
            foldn := 0
            fold := none
            foldAt := 0 })

/-- Events of the base dies: BUCKET_ITEM_GRANT serves the head of a stack's queue once the refilled level covers its weight, and takes the
weight from the level (R278); STACK_ACTIVATION_ALERT marks the operations that waited and logs the stack, and changes no result; and
TABLE_COPY_REBUILT moves the table to its other copy (R279). -/
def Obligations.BucketEventsComplete : Prop :=
  (∀ (i : Nat) (s : State),
    let k := s.stackAt i
    let live := k.fifo.filter fun it => s.ops.any fun o => o.ref == it.op && !o.over
    let level := min (Int.ofNat k.depth) (k.level + Int.ofNat (k.refill * (s.clk * 10 / 13 - k.last * 10 / 13)))
    let keys (l : List StackItem) := l.map fun q => (q.op, q.weight, q.row)
    ∃ t, exec (.bucketItemGrant i) s = .next t ∧ t.mem = s.mem ∧ t.warps = s.warps ∧ (itemReady s k = false → t = s) ∧
      (itemReady s k = true → (∀ j, j ≠ i → t.stackAt j = s.stackAt j) ∧ (live = [] → (t.stackAt i).fifo = []) ∧
        ∀ it rest, live = it :: rest →
          (level < Int.ofNat it.weight → keys (t.stackAt i).fifo = keys live ∧ (t.stackAt i).level = level) ∧
          (Int.ofNat it.weight ≤ level → keys (t.stackAt i).fifo = keys rest ∧ (t.stackAt i).level = level - Int.ofNat it.weight ∧
            ∀ o, s.opOf? it.op = some o → ∃ q, t.opOf? it.op = some q ∧ q.prog = o.prog + 1))) ∧
  (∀ (i x table lost : Nat) (ops : List (Nat × Nat)) (s : State),
    ∃ t, exec (.stackActivationAlert i x table ops lost) s = .next t ∧
      t = { s with ops := t.ops, hbm := t.hbm, kilnLog := t.kilnLog } ∧
      (∃ d, Logged s.kilnLog t.kilnLog ⟨s.ts, 2048 + i, 3, d⟩) ∧
      ∀ o ∈ s.ops, (o.core, o.slot) ∈ ops → (o.kind = .tqry ∨ o.kind = .ired) → o.over = false →
        ∃ q ∈ t.ops, q.ref = o.ref ∧ q.state = o.state ∧ q.vals = o.vals ∧ q.status = o.status ||| 0x8000#32) ∧
  (∀ (i x table : Nat) (s : State),
    ∃ t, exec (.tableCopyRebuilt i x table) s = .next t ∧ t = { s with hbm := t.hbm } ∧
      ((x, table) ∉ (s.stackAt i).rebuilding → t = s) ∧
      ((x, table) ∈ (s.stackAt i).rebuilding → (x, table) ∉ (t.stackAt i).rebuilding ∧
        ((x, table) ∈ (t.stackAt i).moved ↔ (x, table) ∉ (s.stackAt i).moved)))

/-- Barriers, the watchdog and lost links: a complete phase begins its release latency of 12 or 30 clk, or 180 ns (R197, R199); at its end
the members' arrived bits clear and their waits end (R200); BARRIER_MESSAGE notes another device (R197); WATCHDOG_TICK counts an idle tick
and resets on activity or where WDOG is 0, and stays while a warp of the context, resident or saved, is halted (R316, R345); a tick in
which no warp was resident changes nothing (log 28). WATCHDOG_DEADLOCK stops the context (R316). LINK_LOST stops the contexts of threads
that wait on the rank (R202; whom a barrier waits for is the model's reading, log 29), and ends with ABORTED the LAUNCHes whose grid
reaches the rank and has not heard from it (R307). -/
def Obligations.BarrierAndWatchdogEventsComplete : Prop :=
  (∀ (b : BarKey) (s : State),
    ∃ t, exec (.barrierRelease b) s = .next t ∧ t.mem = s.mem ∧
      (barReady s b = false → barComplete s b = false → t = s) ∧
      (barDueAt? s b = none → barComplete s b = true → spansPod s b.launch = false → b.lvl ≤ 2 →
        t = { s with barDue := s.barDue ++ [(b, s.clk + [12, 30, 234].getD b.lvl 0)] }) ∧
      (barReady s b = true → barDueAt? t b = none ∧
        ∀ k w n, s.warpAt? k = some w → (∃ x ∈ barBlocks s b, x.id = w.blk) → w.hasLane n →
          (w.laneAt n).rearrive.find? (fun r => r.1 % 4 == b.lvl && r.2 == b.num) = none →
          (∀ a ∈ (t.laneAt k n).arrived, ¬ (a.1 = b.lvl ∧ a.2.1 = b.num)) ∧
          (∀ x ∈ (t.laneAt k n).waits, x.lvl = b.lvl → x.num = b.num → x.at_.isSome = true))) ∧
  (∀ (b : BarKey) (rank : Nat) (s : State), ∃ t, exec (.barrierMessage b rank) s = .next t ∧ t = { s with launches := t.launches } ∧
    ∀ l ∈ s.launches, l.id = b.launch → { l with gridMsgs := l.gridMsgs ++ [(b.num, rank)] } ∈ t.launches) ∧
  (∀ (x : Nat) (s : State),
    ∃ t, exec (.watchdogTick x) s = .next t ∧ t = { s with ctxs := t.ctxs } ∧ (tickReady s x = false → t = s) ∧
      (tickReady s x = true →
        let c := s.ctxAt x
        let n := c.csrOf 0x16
        let halted := ∃ w ∈ s.warps ++ s.saved.flatMap (·.warps), w.ctx = c.num ∧ w.halt = true
        (t.ctxAt x).wdTick = c.wdTick + 1 ∧ (t.ctxAt x).wdActive = busyNow s c ∧ (t.ctxAt x).wdSeen = false ∧
        (c.csrOf 0x15 = 0 → (t.ctxAt x).csrOf 0x16 = 0) ∧
        (c.csrOf 0x15 ≠ 0 → c.stopped = true → (t.ctxAt x).csrOf 0x16 = n) ∧
        (c.csrOf 0x15 ≠ 0 → c.stopped = false → (∀ w ∈ s.warps, w.ctx ≠ c.num) → c.wdSeen = false → (t.ctxAt x).csrOf 0x16 = n) ∧
        (c.csrOf 0x15 ≠ 0 → c.stopped = false → ((∃ w ∈ s.warps, w.ctx = c.num) ∨ c.wdSeen = true) →
          (watchActive s c = true → (t.ctxAt x).csrOf 0x16 = 0) ∧
          (watchActive s c = false → halted → (t.ctxAt x).csrOf 0x16 = n) ∧
          (watchActive s c = false → ¬ halted → (t.ctxAt x).csrOf 0x16 = n + 1)))) ∧
  (∀ (x : Nat) (s : State),
    ∃ t, exec (.watchdogDeadlock x) s = .next t ∧ t.mem = s.mem ∧ t.warps = s.warps ∧ (deadlockReady s x = false → t = s) ∧
      (deadlockReady s x = true → (t.ctxAt x).stopped = true ∧ bitsN (t.ctxAt x).status.toNat 47 40 = cDeadlock)) ∧
  (∀ (rank : Nat) (s : State),
    ∃ t, exec (.linkLost rank) s = .next t ∧ t.mem = s.mem ∧ t.warps = s.warps ∧ rank ∈ t.lostRanks ∧
      ∀ w ∈ s.warps, waitsOnLost s rank w = true → (s.ctxAt w.ctx).stopped = false →
        (t.ctxAt w.ctx).stopped = true ∧ bitsN (t.ctxAt w.ctx).status.toNat 47 40 = cLink) ∧
  (∀ (rank : Nat) (s : State) (l : Launch) (r : FutRef) (o : EngOp), s.launches.find? (fun x => x.id == l.id) = some l → l.fut = some r →
    rank ∈ l.ranks → reachesRank s l rank = true → s.opOf? r = some o → o.state = .running →
    (s.ctxAt l.ctx).rank < (s.ctxAt l.ctx).span →
    ∃ t, exec (.linkLost rank) s = .next t ∧ (∃ q, t.opOf? r = some q ∧ q.state = .fault sAborted) ∧
      ∃ m ∈ t.launches, m.id = l.id ∧ m.failed = true ∧ rank ∉ m.ranks)

/-! ### Links, queues and placement -/

/-- Requests between devices. REMOTE_REQUEST_RECEIVE: a request whose port names no live context, or whose address fails a check, is
answered with the reason and logged, and changes nothing else; a load leaves memory, a store writes its bytes and no others, and an atomic
writes its result of the word that stood there; what was read goes back (R365, R177; the log entry's layout is the model's, log 26, and so
is the list of answers, log 83; a port of the second tier that answers with an error logs it, R368, log 43). REMOTE_ERROR_RESPONSE waits
for every request of its word and then traps with the cause that the port gave (R329, R437; that one trap then names all refused lanes is
the model's reading, log 25); an engine command ends with it. REMOTE_ACCEPTANCE gives a load its value, and to an engine command the answer
to one of its requests, after the last of which it goes on (which requests it makes is the model's reading, log 55). An access of the
second tier whose port is down or poisoned traps with RANGE (R146, R368). PORT_SEND_ROUND sends what the tenant's deficit and its weight of
256 bytes a unit cover (R366). -/
def Obligations.RemoteEventsComplete : Prop :=
  (∀ (port : Nat) (r : PeerReq) (s : State) (cause : Nat),
    (((tenantCtx s port r.key = none ∨ ∃ x, tenantCtx s port r.key = some x ∧ (s.ctxAt x).live = false) ∧ cause = 6) ∨
      ∃ x, tenantCtx s port r.key = some x ∧ (s.ctxAt x).live = true ∧ peerPlace s (s.ctxAt x) r = .error cause) →
    ∃ t l d, exec (.remoteRequestReceive port r) s = .next t ∧
      t = { s with kilnLog := t.kilnLog, cxlPoison := t.cxlPoison, replies := s.replies ++ [⟨port, r.seq, some cause, 0⟩] } ∧
      Logged l t.kilnLog ⟨s.ts, 2064 + port, 4, d⟩ ∧
      (cause ≠ cRange ∨ s.cxlDown ++ s.cxlPoison = [] → l = s.kilnLog ∧ t.cxlPoison = s.cxlPoison)) ∧
  (∀ (port x : Nat) (r : PeerReq) (s : State) (p : Xlat), tenantCtx s port r.key = some x → (s.ctxAt x).live = true →
    peerPlace s (s.ctxAt x) r = .ok p → s.Inv →
    ∃ t, exec (.remoteRequestReceive port r) s = .next t ∧ t.warps = s.warps ∧
      t.replies = s.replies ++ [⟨port, r.seq, none, if peerReads r.op then homeRead s p.key r.bytes p.tkey else 0⟩] ∧
      (r.op = .load → t.mem = s.mem) ∧
      (r.op = .store → ∀ a, memGet t.mem a =
        if p.key ≤ a ∧ a < p.key + r.bytes then BitVec.ofNat 8 (r.data.toNat / 256 ^ (a - p.key) % 256) else memGet s.mem a) ∧
      (∀ ty, (r.op = .atom ty ∨ r.op = .red ty) → (∀ q ∈ s.reports, q.owner ≠ portOwner port) →
        watchMatches (s.ctxAt x) 18 (vaRange r.va.toNat r.bytes) = [] → anyForeign s p.key r.bytes p.tkey = false →
        ∀ a, memGet t.mem a =
          if p.key ≤ a ∧ a < p.key + r.bytes then
            BitVec.ofNat 8 (atomOp ty (memRead s.mem p.key r.bytes) r.data.toNat / 256 ^ (a - p.key) % 256)
          else memGet s.mem a)) ∧
  (∀ (cause : BitVec 5) (s : State) (a : Access), s.accesses.find? (fun x => x.id == a.id) = some a →
    let due := a.st = .remoteWait ∧ queuedAtPort s a.id = false ∧ (sameLoads s a).head?.map (·.id) = some a.id
    (¬ due → exec (.remoteErrorResponse a.id cause) s = .next s) ∧
    (due → (∃ b ∈ s.accesses, b.grp = a.grp ∧ b.st = .remoteWait ∧ ∀ c ∈ sameLoads s a, c.id ≠ b.id) →
      ∃ t, exec (.remoteErrorResponse a.id cause) s = .next t ∧
        t = { s with accesses := t.accesses, free := s.free + 1 } ∧
        ∀ b ∈ sameLoads s a, { b with st := .refused cause.toNat } ∈ t.accesses) ∧
    (∀ w p r, a.st = .remoteWait → queuedAtPort s a.id = false → TrapsAlone s a w p r →
      ∃ t, exec (.remoteErrorResponse a.id cause) s = .next t ∧ Refused s t a w r cause.toNat)) ∧
  (∀ (data : W128) (s : State) (a : Access), s.accesses.find? (fun x => x.id == a.id) = some a →
    let due := a.st = .remoteWait ∧ queuedAtPort s a.id = false ∧ (sameLoads s a).head?.map (·.id) = some a.id
    (¬ due → exec (.remoteAcceptance a.id data) s = .next s) ∧
    (due → a.kind = .ld → a.flag.isSome = true → stackOffset a.va.toNat = none → (∀ b ∈ s.accesses, b.id = a.id → b = a) →
      (∀ b ∈ s.accesses, b.grp = a.grp → b.refusal = none) →
      ∃ t, exec (.remoteAcceptance a.id data) s = .next t ∧ t.mem = s.mem ∧ t.warps = s.warps ∧
        Answers t a (data.toNat % 256 ^ a.bytes))) ∧
  (∀ (id : Nat) (data : W128) (cause : BitVec 5) (s : State), queuedAtPort s id = false → s.accesses.find? (fun a => a.id == id) = none →
    (∀ o, s.ops.find? (fun o => o.far.contains id) = some o →
      let u := s.modOp o.core o.slot fun q => { q with far := q.far.erase id }
      exec (.remoteAcceptance id data) s = .next u ∧ (o.over = true → exec (.remoteErrorResponse id cause) s = .next u) ∧
      (o.over = false → ∃ t, exec (.remoteErrorResponse id cause) s = .next t ∧ t.warps.map (·.key) = s.warps.map (·.key) ∧
        ∃ q ∈ t.ops, q.ref = o.ref ∧ q.state = .fault cause.toNat)) ∧
    ((∀ o ∈ s.ops, id ∉ o.far) → (∀ q ∈ s.queues, ∀ e ∈ q.far, e.1 ≠ id) → (∀ l ∈ s.launches, l.id ≠ id) →
      exec (.remoteAcceptance id data) s = .next s ∧ exec (.remoteErrorResponse id cause) s = .next s)) ∧
  (∀ (s : State) (a : Access) (key port : Nat) (w : Warp) (p : Path) (r : InRun), s.accesses.find? (fun x => x.id == a.id) = some a →
    canPerform s a = true → a.loc = .mem key → failedPort? s a = some port → TrapsAlone s a w p r →
    ∃ t, exec (.homeAccess (.thread a.id)) s = .next t ∧ Refused s t a w r cRange) ∧
  (∀ (port : Nat) (s : State), (∀ r ∈ s.reports, r.owner ≠ portOwner port) →
    ∃ t, exec (.portSendRound port) s = .next t ∧ t = { s with ports := t.ports } ∧
      ∀ q r, smGet [] s.ports port = [q] → q.reqs = [r] → tenantWeight s port q.key ≠ 0 →
        smGet [] t.ports port =
          if r.bytes ≤ q.deficit + tenantWeight s port q.key * 256 then [{ q with reqs := [], deficit := 0 }]
          else [{ q with deficit := q.deficit + tenantWeight s port q.key * 256 }])

/-- Work queues. QUEUE_DOORBELL moves TAIL and QUEUE_RESTART clears STOPPED and the code; a queue that runs then takes its next record, or
stops with the code of what is wrong (R301, R305, R363, R518; what a stopped queue keeps in hand, and that a record whose signal cannot be
read is let go, are the model's reading, log 41). SIGNAL_WORD_CHECK starts the launch once the word has reached SIGVAL, asks another device
for a word of its own, and stops the queue with code 8 when the read fails (R308, R518). LAUNCH_FORWARD keeps or appends a record, or stops
a queue that is not mapped with the lowest code that holds, 9 where no other does (R307, R518). RANK_DONE_MESSAGE counts a rank's answer,
after the last of which the LAUNCH completes with 0, or with ABORTED when a rank failed (R307, R309). -/
def Obligations.QueueEventsComplete : Prop :=
  (∀ (q : Nat) (tail : W32) (s : State), q < 8192 →
    ∃ t, exec (.queueDoorbell q tail) s = .next t ∧ GoesOn s t q { s.queueAt q with tail := tail }) ∧
  (∀ (q : Nat) (tail : W32) (s : State), 8192 ≤ q → exec (.queueDoorbell q tail) s = .next s) ∧
  (∀ (q : Nat) (s : State),
    let Q := s.queueAt q
    ∃ t, exec (.queueRestart q) s = .next t ∧ (Q.stopped = false → t = s) ∧
      (Q.stopped = true → GoesOn s t q { Q with stopped := false, cause := 0 })) ∧
  (∀ (q : Nat) (s : State), (s.queueAt q).cur = none → exec (.signalWordCheck q) s = .next s) ∧
  (∀ (q id : Nat) (s : State) (l : Launch), (s.queueAt q).cur = some id → s.launches.find? (fun x => x.id == id) = some l →
    (awaitsSignal s l = false → exec (.signalWordCheck q) s = .next s) ∧
    (awaitsSignal s l = true →
      ∃ t, exec (.signalWordCheck q) s = .next t ∧
        (signalPlace s l = none → (t.queueAt l.q).stopped = true ∧ (t.queueAt l.q).cause = 8 ∧ (t.queueAt l.q).cur = none ∧
          ∀ m ∈ t.launches, m.id ≠ id) ∧
        ∀ p, signalPlace s l = some p →
          (p.remote.isSome = true → l.sig = .out → t = s) ∧
          (p.remote.isSome = true → l.sig ≠ .out →
            t = { s with launches := t.launches, ports := t.ports } ∧ { l with sig := .out } ∈ t.launches ∧ queuedAtPort t id = true) ∧
          (p.remote = none →
            let v := homeRead s p.key 8 p.tkey
            (v < l.sigVal → t.mem = s.mem ∧ t.queues = s.queues ∧ { l with seen := some p.key, sig := .none } ∈ t.launches) ∧
            (l.sigVal ≤ v → (s.queueAt l.q).head = (s.queueAt l.q).tail → (s.queueAt l.q).forwards = [] → t.mem = s.mem ∧
              ∃ m ∈ t.launches, m.id = id ∧ m.started = true ∧ m.record = l.record)))) ∧
  (∀ (q : Nat) (key : PortKey) (r : BitVec 512) (origin : Nat) (s : State),
    let Q := s.queueAt q
    let owner := tenantCtx s key.port key.key
    let mapped := q < 8192 ∧ owner = some Q.ctx ∧ Q.enable = true
    ∃ t, exec (.launchForward q key r origin) s = .next t ∧ (8192 ≤ q → t = s) ∧
      (q < 8192 → ¬ mapped → t = { s with queues := t.queues, ports := t.ports, nextId := t.nextId } ∧ (t.queueAt q).stopped = true ∧
        (t.queueAt q).cause =
          if Q.stopped then Q.cause else (rejectCode s { blankLaunch with ctx := owner.getD Q.ctx, record := r }).getD 9) ∧
      (mapped → (s.ctxAt Q.ctx).stopped = true → t = { s with ports := t.ports, nextId := t.nextId }) ∧
      (mapped → (s.ctxAt Q.ctx).stopped = false → Q.stopped = true →
        t = { s with queues := t.queues } ∧ t.queueAt q = { Q with forwards := Q.forwards ++ [(r, origin)] }) ∧
      (mapped → (s.ctxAt Q.ctx).stopped = false → Q.stopped = false → Q.forwards = [] → Q.cur.isSome = true → Q.log2n ≤ 16 →
        (Q.tail - Q.head).toNat < 2 ^ Q.log2n →
        t.queueAt q = { Q with tail := Q.tail + 1#32, origins := Q.origins ++ [(Q.tail.toNat, origin)] })) ∧
  (∀ (id rank : Nat) (ok : Bool) (s : State),
    ∃ t, exec (.rankDoneMessage id rank ok) s = .next t ∧ t = { s with launches := t.launches, ops := t.ops, ports := t.ports, nextId := t.nextId } ∧
      (∀ l ∈ s.launches, l.id = id → { l with ranks := l.ranks.filter (· != rank), failed := l.failed || !ok } ∈ t.launches) ∧
      ∀ l r o, s.launches.find? (fun x => x.id == id) = some l → l.fut = some r → o ∈ s.ops → o.ref = r → o.state = .running →
        (l.ranks.filter (· != rank) ≠ [] → t.ops = s.ops) ∧
        (l.ranks.filter (· != rank) = [] → (l.failed || !ok) = false →
          { o with state := .done ((lanesOf o.lanes).map fun n => (n, 0#32)) } ∈ t.ops) ∧
        (l.ranks.filter (· != rank) = [] → (l.failed || !ok) = true → { o with state := .fault sAborted } ∈ t.ops))

/-- Placement. DISPATCH_PLACE_BLOCK places the first queue's job when it has a place, a new block with its warps as R91 starts them, and
otherwise begins its wait (R302, R311). PLACEMENT_WAIT_EXPIRY ends a wait after 4 µs, and blocks that give way only stop for save (R313).
CONTEXT_SAVE_COMPLETE takes the warps, waits and scratchpads of a cluster's blocks off their cores, and BLOCK_RESTORE, where theirs is the
first job that can be placed, places the saved warps again as they were (R302, R331). KILN_CONE_READ throttles a hot core unless its old
blocks migrate, and no other (R314); which cores and blocks a migration takes is the model's reading (log 44). -/
def Obligations.PlacementEventsComplete : Prop :=
  (∀ s : State, ∃ t, exec .dispatchPlaceBlock s = .next t ∧ (queueOrder s = [] → t = s.useFree) ∧
    (∀ q j rest u, queueOrder s = (q, j) :: rest → tryJob s j = some u → t = (afterPlace u q j).useFree) ∧
    (∀ q id c rest ks off, queueOrder s = (q, .fresh id c) :: rest →
      let l := s.launchAt id
      let core := jobPref s (.fresh id c)
      l.ext 1 ≤ 1 → l.waited = false → planWarps s core l.nreg l.warpsPer = some ks → scratchAt? s core l.scratch = some off →
      t.lastCore = core ∧ (∃ b ∈ t.blocks, b.id = s.nextId ∧ b.launch = l.id ∧ b.cluster = c ∧ b.core = core ∧ b.scr = off ∧
        b.scrLen = l.scratch ∧ b.warps = ks ∧ b.saved = false ∧ b.retired = false) ∧
      ∀ i k, ks[i]? = some k → newWarp s l s.nextId 0 c k i ∈ t.warps) ∧
    (∀ q id c, queueOrder s = [(q, .fresh id c)] → tryJob s (.fresh id c) = none → ∀ l ∈ s.launches, l.id = id → l.waitSince = none →
      { l with waitSince := some s.clk, pref := some (jobPref s (.fresh id c)) } ∈ t.launches)) ∧
  (∀ (id : Nat) (s : State), ∃ t, exec (.placementWaitExpiry id) s = .next t ∧
    t = { s with launches := t.launches, blocks := t.blocks, free := s.free + 1 } ∧
    (jobsOf s id = [] → t = s.useFree) ∧
    (∀ c, .fresh id c ∈ jobsOf s id → ∀ l ∈ s.launches, l.id = id → ∀ w, l.waitSince = some w →
      (w + 5200 ≤ s.clk → { l with waited := true } ∈ t.launches) ∧ (s.clk < w + 5200 → l ∈ t.launches)) ∧
    ∀ b ∈ t.blocks, b ∈ s.blocks ∨ ∃ b₀ ∈ s.blocks,
      b = { b₀ with saving := (if b₀.retired = true ∨ b₀.saved = true then b₀.saving else some false), target := none }) ∧
  (∀ (blk : Nat) (s : State),
    let b := s.blockAt blk
    (saveReady s b = false → exec (.contextSaveComplete blk) s = .next s) ∧
    (saveReady s b = true → (s.warps.map (·.key)).Nodup → (s.blocks.map (·.id)).Nodup →
      let mine (c : Block) := c ∈ clusterAll s b.launch b.cluster ∧ c.saved = false
      ∃ t, exec (.contextSaveComplete blk) s = .next t ∧
        (∀ w ∈ s.warps, (∀ c, mine c → w.blk ≠ c.id) → w ∈ t.warps) ∧
        ∀ c, mine c → (t.blockAt c.id).saved = true ∧ (∀ w ∈ t.warps, w.blk ≠ c.id) ∧
          ∃ x ∈ t.saved, x.blk = c.id ∧ (∀ w ∈ s.warps, w.blk = c.id → savedWarp w ∈ x.warps) ∧
            (∀ a ∈ s.accesses, (∃ w ∈ s.warps, w.blk = c.id ∧ w.key = a.w) → a ∈ x.waits ∧ a ∉ t.accesses) ∧
            ((∀ w ∈ s.warps, ∀ l ∈ w.lanes, l.stk = [] ∧ l.hstk = []) →
              ∀ v ∈ s.mem, scratchKey c.core c.scr ≤ v.1 → v.1 < scratchKey c.core c.scr + c.scrLen → v ∈ x.scratch))) ∧
  (∀ (blk : Nat) (s : State), ∃ t, exec (.blockRestore blk) s = .next t ∧
    let first := (queueOrder s).find? fun e => (tryJob s e.2).isSome
    let mine (j : Job) := ∃ l c bs, j = .restore l c bs ∧ blk ∈ bs
    (first = none → t = s) ∧
    ∀ e, first = some e → (¬ mine e.2 → t = s) ∧ (mine e.2 → ∀ u, tryJob s e.2 = some u → t = (afterPlace u e.1 e.2).useFree)) ∧
  (∀ (blk core : Nat) (s u : State) (x : SavedBlock), placeSaved s blk core = some u → s.savedAt? blk = some x →
    (∃ b ∈ s.blocks, b.id = blk) →
    (u.blockAt blk).saved = false ∧ (u.blockAt blk).core = core ∧ (∀ y ∈ u.saved, y.blk ≠ blk) ∧
    ∀ w ∈ x.warps, ∃ k, { w with key := k, restoring := true, since := s.clk } ∈ u.warps) ∧
  (∀ (rs : List ConeReading) (s : State) (r : ConeReading), r ∈ rs → (rs.map fun q => q.core).Nodup → rs.length ≤ 4096 →
    (∀ e ∈ s.kilnLog, e.src ≤ 4095) →
    ∃ t, exec (.kilnConeRead rs) s = .next t ∧ t = { s with cores := t.cores, blocks := t.blocks, kilnLog := t.kilnLog } ∧
      (r.temp ≤ 95 → r.droops ≤ s.droopMax → (t.coreAt r.core).throttled = false) ∧
      (95 < r.temp ∨ s.droopMax < r.droops →
        (∃ e ∈ t.kilnLog, e.ts = s.ts ∧ e.src = 4095 ∧ e.code = 1) ∧
        ∀ b ∈ s.blocks, s.blockAt b.id = b → b.core = r.core → b.saved = false → b.retired = false → b.since + 2600000 ≤ s.clk →
          (t.blockAt b.id).saving.isSome = true ∨ (t.coreAt r.core).throttled = true))

/-! ### Debugging, the host and the Kiln -/

/-- Debug events. HALT halts a warp whose paths all stand at run boundaries, in no run that they have to finish, with reason 0, its holds
ended and its lanes where their paths stand, and is remembered for any other; DBGCTL.BHALT asks the other warps of the block with reason 3
(R26, R341). RESUME ends the halt, and every lane goes on where its PC says, one that a fault has parked too (R326, R344). STEP and STEPALL
let paths that are not parked start a run and leave the warp halted (R343; which lane a STEP serves in serial mode is found as the runs
start, log 78). DEBUG_CSR_WRITE writes a CSR of a live context as a CSRW in trap mode does (R353, R94; the low bits of FBLO, log 86); a
STICKY bit set in the same clk stays (R99). -/
def Obligations.DebugEventsComplete : Prop :=
  (∀ (k : WarpKey) (s : State) (w : Warp), s.warpAt? k = some w →
    let stands (p : Path) := p.atBoundary = true ∧ midRun s { w with haltReq := some 0 } p = false
    ∃ t, exec (.halt k) s = .next t ∧ t = { s with warps := t.warps, blocks := t.blocks } ∧
      (w.halt = true → w.haltReq = none → t.warpAt? k = some w) ∧
      (w.halt = false → w.haltReq = none → (∃ p ∈ w.paths, ¬ stands p) → t.warpAt? k = some { w with haltReq := some 0 }) ∧
      (w.halt = false → w.haltReq = none → (∀ p ∈ w.paths, stands p) →
        (t.warpAt k).halt = true ∧ (t.warpAt k).haltReq = none ∧ (t.warpAt k).reason = 0 ∧
        (t.warpAt k).paths = (w.paths.map fun p => { p with hold := none }) ∧
        ∀ n p, w.hasLane n → w.pathOf? n = some p → t.laneAt k n = { (w.laneAt n).commitAll with pc := p.pc, run := p.run }) ∧
      ∀ k' v, k' ≠ k → s.warpAt? k' = some v →
        if ((s.ctxAt w.ctx).csrOf 0x110).getLsbD 1 = true ∧ v.blk = w.blk ∧ v.ctx = w.ctx then
          v.halt = false → v.haltReq = none → (t.warpAt k').haltReq = some 3 ∨ ((t.warpAt k').halt = true ∧ (t.warpAt k').reason = 3)
        else t.warpAt? k' = some v) ∧
  (∀ (k : WarpKey) (s : State) (w : Warp), s.warpAt? k = some w → (∀ l ∈ w.lanes, w.laneAt l.id = l) →
    ∃ t, exec (.resume k) s = .next t ∧ t = { s with warps := t.warps } ∧ (∀ k', k' ≠ k → t.warpAt? k' = s.warpAt? k') ∧
      (w.halt = false → t.warpAt? k = some w) ∧
      (w.halt = true → (t.warpAt k).halt = false ∧ (t.warpAt k).lanes = w.lanes ∧
        ∀ n p, w.hasLane n → w.pathOf? n = some p →
          ∃ q, (t.warpAt k).pathOf? n = some q ∧ q.pc = (w.laneAt n).pc ∧ q.fp = false)) ∧
  (∀ (k : WarpKey) (i : Nat) (s : State) (w : Warp), s.warpAt? k = some w →
    let v := reformPaths w
    let may (p : Path) := p.fp = false ∧ parked s v p = false
    let all := v.paths.map fun p => if p.fp = false ∧ parked s v p = false then { p with stepping := true } else p
    (∃ t, exec (.step k i) s = .next t ∧ t = { s with warps := t.warps } ∧ (∀ k', k' ≠ k → t.warpAt? k' = s.warpAt? k') ∧
      (w.halt = false → t.warpAt? k = some w) ∧
      (w.halt = true → (t.warpAt k).halt = true ∧ (t.warpAt k).lanes = w.lanes ∧
        (v.serial = true → (t.warpAt k).stepOne = true ∧ (t.warpAt k).paths = all) ∧
        (v.serial = false → v.paths[i]? = none → t.warpAt? k = some v) ∧
        ∀ p, v.serial = false → v.paths[i]? = some p → may p →
          { p with stepping := true } ∈ (t.warpAt k).paths ∧ ∀ q ∈ v.paths, q.mask ≠ p.mask → q ∈ (t.warpAt k).paths)) ∧
    ∃ t, exec (.stepAll k) s = .next t ∧ t = { s with warps := t.warps } ∧ (∀ k', k' ≠ k → t.warpAt? k' = s.warpAt? k') ∧
      (w.halt = false → t.warpAt? k = some w) ∧
      (w.halt = true → (t.warpAt k).halt = true ∧ (t.warpAt k).lanes = w.lanes ∧ (t.warpAt k).stepOne = false ∧ (t.warpAt k).paths = all)) ∧
  (∀ (x n : Nat) (v : W32) (s : State), ∃ t, exec (.debugCsrWrite x n v) s = .next t ∧ t = { s with ctxs := t.ctxs } ∧
    (∀ y, y ≠ x → t.ctxAt y = s.ctxAt y) ∧ ((s.ctxAt x).live = false → t = s) ∧
    ((s.ctxAt x).live = true →
      (∀ m, m ≠ n → (t.ctxAt x).csrOf m = (s.ctxAt x).csrOf m) ∧
      (n = 0x11 → (∀ e ∈ (s.ctxAt x).stickySet, e.2 ≠ s.clk) → (t.ctxAt x).csrOf n = (s.ctxAt x).csrOf n &&& ~~~v) ∧
      (n = 0x11 → ∀ e ∈ (s.ctxAt x).stickySet, e.2 = s.clk →
        ((t.ctxAt x).csrOf n).getLsbD e.1 = ((s.ctxAt x).csrOf n).getLsbD e.1) ∧
      (n ∈ trapModeCsrs ++ [0x13, 0x24] → (t.ctxAt x).csrOf n = storedAs n v) ∧
      (n ∉ trapModeCsrs ++ [0x11, 0x13, 0x24] → t = s)))

/-- Actions and registers of the host. CREATE makes a context live with the header of its record and the values of its CSR image, or
reports 0xFF in STATUS (R359, R360; words that the host has not written hold reset values, log 36); UPDATE applies the fields that may
change and the image as CSRWs made in trap mode, and is done once every core has come to a run boundary (R360, log 39); DESTROY stops a
context and, at rest, leaves nothing of it; TLBINV drops its translations (R360); each clears its bit of CTL when it is done.
REGISTER_WRITE keeps reserved offsets and read-only registers and writes those that R358, R359, R362 and R363 give, which read as they were
written (log 40 for what a write past a field's width does); HOST_BAR2_ACCESS writes or reads 1 to 8 bytes from the window's base (R357,
R367). -/
def Obligations.HostEventsComplete : Prop :=
  (∀ (x : Nat) (s : State), x < 64 → (∀ q ∈ s.queues, q.ctx ≠ x) →
    let c := s.ctxAt x
    ∃ t, exec (.create x) s = .next t ∧ t = { s with ctxs := t.ctxs, tlb := t.tlb, cores := t.cores, parts := t.parts } ∧
      (∀ y, y ≠ x → t.ctxAt y = s.ctxAt y) ∧ (t.ctxAt x).ctl = c.ctl &&& ~~~1#32 ∧
      (c.live = true ∨ (smGet 0#64 s.bar0 0).getLsbD 8 = false → t.ctxAt x = { c with ctl := c.ctl &&& ~~~1#32 }) ∧
      (c.live = false → (smGet 0#64 s.bar0 0).getLsbD 8 = true → recordOk c = false →
        t.ctxAt x = { c with ctl := c.ctl &&& ~~~1#32, status := 0x8000FF0000000000#64 }) ∧
      (c.live = false → (smGet 0#64 s.bar0 0).getLsbD 8 = true → recordOk c = true →
        (t.ctxAt x).live = true ∧ (t.ctxAt x).stopped = false ∧ (t.ctxAt x).hdr = c.record ∧ (t.ctxAt x).tables = [] ∧
        (t.ctxAt x).sets = [] ∧ (t.ctxAt x).desc = [] ∧ (∀ n, (smFind c.img n).isNone = true → (t.ctxAt x).csrOf n = csrReset n) ∧
        (∀ n v, smFind c.img n = some v →
          (n = 0x11 → (t.ctxAt x).csrOf n = v &&& 0xFF#32) ∧
          (n ∈ [0x13, 0x14, 0x15, 0x1A, 0x1B, 0x1C, 0x1D, 0x1E, 0x1F, 0x20, 0x21, 0x22, 0x24] → (t.ctxAt x).csrOf n = storedAs n v)) ∧
        ∀ e ∈ t.tlb, e.ctx ≠ x)) ∧
  (∀ (x : Nat) (s : State),
    let c := s.ctxAt x
    ∃ t, exec (.update x) s = .next t ∧ t = { s with ctxs := t.ctxs } ∧ (∀ y, y ≠ x → t.ctxAt y = s.ctxAt y) ∧
      (c.live = false → t.ctxAt x = { c with ctl := c.ctl &&& ~~~2#32 }) ∧
      (c.live = true → c.old = [] →
        (t.ctxAt x).ctl = (if busyCores s x = [] then c.ctl &&& ~~~2#32 else c.ctl) ∧ (t.ctxAt x).old.map (·.1) = busyCores s x ∧
        (∀ i < 512, (t.ctxAt x).hdr.getLsbD i =
          if i = 384 ∨ i = 385 ∨ (407 ≤ i ∧ i ≤ 463) then c.record.getLsbD i else c.hdr.getLsbD i) ∧
        (∀ n ∈ [0x13, 0x14, 0x15, 0x1A, 0x1B, 0x1C, 0x1D, 0x1E, 0x1F, 0x20, 0x21, 0x22, 0x24],
          (t.ctxAt x).csrOf n = storedAs n ((smFind c.img n).getD (csrReset n))) ∧
        ∀ k ∈ busyCores s x, (t.ctxFor k x).hdr = c.hdr ∧ ∀ n ∈ imageCsrs, (t.ctxFor k x).csrOf n = c.csrOf n)) ∧
  (∀ (x : Nat) (s : State),
    let c := s.ctxAt x
    ∃ t, exec (.destroy x) s = .next t ∧ (∀ y, y ≠ x → (t.ctxAt y).live = (s.ctxAt y).live) ∧
      (c.live = false → t = { s with ctxs := t.ctxs } ∧ t.ctxAt x = { c with ctl := c.ctl &&& ~~~4#32 }) ∧
      (c.live = true → destroyReady s x = false → t.mem = s.mem ∧ t.warps = s.warps ∧
        t.ctxAt x = { c with stopped := true, ctl := c.ctl ||| 4#32 } ∧ ∀ l ∈ t.launches, l.ctx = x → l.failed = true ∨ l.ranks = []) ∧
      (c.live = true → destroyReady s x = true → t.mem = s.mem ∧ (t.ctxAt x).live = false ∧ (t.ctxAt x).ctl = c.ctl &&& ~~~4#32 ∧
        (∀ w ∈ t.warps, w.ctx ≠ x) ∧ (∀ b ∈ t.blocks, b.ctx ≠ x) ∧ (∀ l ∈ t.launches, l.ctx ≠ x) ∧ (∀ o ∈ t.ops, o.ctx ≠ x) ∧
        (∀ a ∈ t.accesses, a.ctx ≠ x) ∧ (∀ u ∈ t.tentWords, u.ctx ≠ x) ∧ ∀ w ∈ s.warps, w.ctx ≠ x → w ∈ t.warps)) ∧
  (∀ (x : Nat) (s : State),
    ∃ t, exec (.tlbinv x) s = .next t ∧ t = { s with ctxs := t.ctxs, tlb := s.tlb.filter fun e => e.ctx != x } ∧
      (∀ y, y ≠ x → t.ctxAt y = s.ctxAt y) ∧ t.ctxAt x = { s.ctxAt x with ctl := (s.ctxAt x).ctl &&& ~~~8#32 }) ∧
  (∀ (off : Nat) (v : W64) (s : State),
    ∃ t, exec (.registerWrite off v) s = .next t ∧
      ((off ∈ [0x00, 0x38, 0x40, 0x48] ∨ 0x240000 ≤ off) → t = s) ∧
      (off ∈ [0x28, 0x30] → t = { s with bar0 := smSet s.bar0 off v } ∧ regRead t off = v) ∧
      (off = 0x08 → t = { s with bar0 := smSet s.bar0 off (v &&& 0x03FF03FF#64) } ∧ regRead t off = v &&& 0x03FF03FF#64) ∧
      (off = 0x10 → t = { s with bar0 := smSet s.bar0 off (v &&& 0x000FFFF000000000#64) } ∧ regRead t off = v &&& 0x000FFFF000000000#64) ∧
      (off = 0x18 → t = { s with bar0 := smSet s.bar0 off (v &&& 0xFF#64) } ∧ regRead t off = v &&& 0xFF#64) ∧
      (off = 0x20 → t = { s with bar0 := smSet (smSet s.bar0 off v) 0x38 1#64 } ∧ regRead t 0x38 = 1#64) ∧
      (∀ p key, p < 8 → key < 256 → off = 0x10000 + p * 0x1000 + 8 * key →
        t = { s with tenants := t.tenants } ∧ regRead t off = v &&& 0xFF7F#64 ∧
        ∀ i, i ≠ p * 256 + key → smGet 0#32 t.tenants i = smGet 0#32 s.tenants i) ∧
      (∀ x i, x < 64 → i < 8 → off = 0x100000 + x * 0x400 + 8 * i → t = { s with ctxs := t.ctxs } ∧ regRead t off = v ∧
        ∀ j < 512, (t.ctxAt x).record.getLsbD j =
          if j / 64 = i then v.getLsbD (j % 64) else (s.ctxAt x).record.getLsbD j) ∧
      (∀ x, x < 64 → off = 0x100000 + x * 0x400 + 0x40 →
        t = { s with ctxs := t.ctxs } ∧ (t.ctxAt x).ctl = (s.ctxAt x).ctl ||| (v.setWidth 32 &&& 0xF#32)) ∧
      (∀ x, x < 64 → off = 0x100000 + x * 0x400 + 0x48 →
        t = { s with ctxs := t.ctxs } ∧ ∀ j < 64, (t.ctxAt x).status.getLsbD j =
          if j = 63 then (s.ctxAt x).status.getLsbD 63 && !v.getLsbD 63 else (s.ctxAt x).status.getLsbD j) ∧
      (∀ x i, x < 64 → i < 64 → off = 0x100000 + x * 0x400 + 0x200 + 8 * i →
        t = { s with ctxs := t.ctxs } ∧ regRead t off = v ∧ ∀ n, (t.ctxAt x).imgWord n =
          if n = 2 * i then v.extractLsb' 0 32 else if n = 2 * i + 1 then v.extractLsb' 32 32 else (s.ctxAt x).imgWord n) ∧
      (∀ q, q < 8192 →
        let Q := s.queueAt q
        (off = 0x200000 + q * 32 →
          t = { s with queues := t.queues } ∧ t.queueAt q = { Q with qbase := BitVec.ofNat 64 (v.toNat / 64 * 64), far := [] }) ∧
        (off = 0x200000 + q * 32 + 8 →
          let clears := v.getLsbD 17 = true
          GoesOn s t q
            { Q with
              far := []
              log2n := min 16 (max 1 (v.toNat % 32))
              ctx := v.toNat / 256 % 64
              enable := v.getLsbD 16
              stopped := Q.stopped && !v.getLsbD 17
              cause := if Q.stopped = true ∧ clears then 0 else Q.cause }) ∧
        (off = 0x200000 + q * 32 + 0x10 → GoesOn s t q { Q with tail := v.setWidth 32 }))) ∧
  (∀ (write : Bool) (off n : Nat) (v : W64) (s : State), s.Inv →
    let base := (smGet 0#64 s.bar0 0x10).toNat + off
    ∃ t, exec (.hostBar2Access write off n v) s = .next t ∧ t.warps = s.warps ∧
      ((n = 0 ∨ 8 < n ∨ 2 ^ 36 < off + n) → t = s) ∧ (write = false → t.mem = s.mem) ∧
      (1 ≤ n → n ≤ 8 → off + n ≤ 2 ^ 36 → write = false →
        t.replies = s.replies ++ [⟨8, 0, none, homeRead s base n (smGet 0#64 s.bar0 0x18).toNat⟩]) ∧
      (1 ≤ n → n ≤ 8 → off + n ≤ 2 ^ 36 → write = true → ∀ a, memGet t.mem a =
        if base ≤ a ∧ a < base + n then BitVec.ofNat 8 (v.toNat / 256 ^ (a - base) % 256) else memGet s.mem a))

/-- The Kiln and reset. A command in hand ends with KSTAT 0 and its effect, or with code 0xFF and none when its arguments are out of range
or its code is no command; with another command in hand, or none, it changes nothing (R370, R371, R278, R314, R367). KILN_LOG_MIRROR copies
the log to flash, and the host reads its entries from BAR0 (R369; which entry comes first, log 117); CXL_PORT_ERROR takes a port down or
marks poison, and is logged (R368, log 43); RESET leaves the state after bring-up with what survives it (R371, R372; what survives is the
model's, log 42, and so are the bank that verifies and the ports that fail, log 119). The evidence of ATTEST is the model's free value (log
37), and KCMD makes the Kiln busy at its write (log 40). -/
def Obligations.KilnAndResetEventsComplete : Prop :=
  (∀ s : State,
    let a := (smGet 0#64 s.bar0 0x28).toNat
    let b := (smGet 0#64 s.bar0 0x30).toNat
    let stat (t : State) := smGet 0#64 t.bar0 0x38
    let other (i : Instr) (n : Nat) := kilnHas s n = false → exec i s = .next s
    let bad (i : Instr) (n : Nat) (range : Prop) := kilnHas s n = true → ¬ range →
      ∃ t, exec i s = .next t ∧ stat t = 0xFF00#64 ∧
        t = { s with bar0 := t.bar0, kilnLog := t.kilnLog, free := s.free + 1 }
    let good (i : Instr) (n : Nat) (range : Prop) (post : State → Prop) := kilnHas s n = true → range →
      ∃ t, exec i s = .next t ∧ stat t = 0#64 ∧ t.warps = s.warps ∧ post t
    let setbucketOk := a < 8 ∧ b / 65536 % 65536 = 0 ∧ b / 2 ^ 48 = 0
    let ev := evidenceFor (winBytes s a 64) s.fwActive
    (other .rekey 1 ∧ bad .rekey 1 (a < 256) ∧ good .rekey 1 (a < 256) fun t =>
      t.mem = s.mem ∧ ∀ k, smGet 0 t.keyGens k = smGet 0 s.keyGens k + if k = a then 1 else 0) ∧
    (other .setdroop 2 ∧ bad .setdroop 2 (1 ≤ a ∧ a < 65536) ∧ good .setdroop 2 (1 ≤ a ∧ a < 65536) fun t =>
      t.mem = s.mem ∧ t.droopMax = a) ∧
    (other .setbucket 3 ∧ bad .setbucket 3 setbucketOk ∧ good .setbucket 3 setbucketOk fun t =>
      t.mem = s.mem ∧ (t.stackAt a).refill = min 48 (b % 65536) ∧ (t.stackAt a).depth = min 65536 (b / 2 ^ 32 % 65536 * 1024) ∧
      ((t.stackAt a).fifo.map fun q => (q.op, q.weight, q.row)) =
        (((s.stackAt a).fifo.filter fun q => s.ops.any fun o => o.ref == q.op && !o.over).map fun q => (q.op, q.weight, q.row)) ∧
      (t.stackAt a).level = min (refillStack s.clk (s.stackAt a)).level (Int.ofNat (t.stackAt a).depth) ∧
      ∀ i, i ≠ a → t.stackAt i = s.stackAt i) ∧
    (other .fwupdate 4 ∧ bad .fwupdate 4 (a + b ≤ 2 ^ 36) ∧ good .fwupdate 4 (a + b ≤ 2 ^ 36) fun t =>
      t.mem = s.mem ∧ t.fwActive = s.fwActive ∧ smGet [] t.fwBank (1 - s.fwActive) = winBytes s a b ∧
      t.fwNext = if Config.signed (winBytes s a b) then 1 - s.fwActive else s.fwActive) ∧
    (other .attest 5 ∧ (s.Inv → good .attest 5 (a + 64 ≤ 2 ^ 36 ∧ b + ev.length ≤ 2 ^ 36) fun t =>
      ∀ x, memGet t.mem x = if winKey s b ≤ x ∧ x < winKey s b + ev.length then ev.getD (x - winKey s b) 0#8 else memGet s.mem x) ∧
      bad .attest 5 (a + 64 ≤ 2 ^ 36 ∧ b + ev.length ≤ 2 ^ 36)) ∧
    ((∀ n, 1 ≤ n → n ≤ 5 → (smGet 0#64 s.bar0 0x20).toNat = n → exec .kcmdInvalid s = .next s) ∧
      ((smGet 0#64 s.bar0 0x38).getLsbD 0 = false → exec .kcmdInvalid s = .next s) ∧ ∀ n, n = 0 ∨ 5 < n → bad .kcmdInvalid n False)) ∧
  (∀ s : State, exec .kilnLogMirror s = .next { s with flashLog := s.kilnLog }) ∧
  (∀ (s : State) (i : Nat) (e : LogEntry), i < 4096 → s.kilnLog[i]? = some e →
    regRead s (0x300000 + 32 * i) = BitVec.ofNat 64 (e.data % 2 ^ 64) ∧
    regRead s (0x300000 + 32 * i + 8) = BitVec.ofNat 64 (e.data / 2 ^ 64 % 2 ^ 64) ∧
    regRead s (0x300000 + 32 * i + 16) = BitVec.ofNat 12 e.src ++ BitVec.ofNat 8 e.code ++ BitVec.ofNat 44 (e.data / 2 ^ 128) ∧
    regRead s (0x300000 + 32 * i + 24) = BitVec.ofNat 64 e.ts) ∧
  (∀ (port : Nat) (poison : Bool) (s : State), port < 8 →
    ∃ t, exec (.cxlPortError port poison) s = .next t ∧
      t = { s with cxlDown := t.cxlDown, cxlPoison := t.cxlPoison, kilnLog := t.kilnLog } ∧
      Logged s.kilnLog t.kilnLog ⟨s.ts, 4095, 5, port⟩ ∧
      (poison = true → t.cxlPoison = s.cxlPoison ++ [port] ∧ t.cxlDown = s.cxlDown) ∧
      (poison = false → port ∈ t.cxlDown ∧ (∀ q ∈ s.cxlDown, q ∈ t.cxlDown) ∧ t.cxlPoison = s.cxlPoison)) ∧
  (∀ (fail : Option Nat) (s : State),
    ∃ t, exec (.reset fail) s = .next t ∧
      t = { State.reset with
        agenda := s.agenda, free := s.free + 1, mem := t.mem, keyTags := s.keyTags, keyGens := t.keyGens, flashLog := s.flashLog,
        fwBank := s.fwBank, fwActive := t.fwActive, fwNext := t.fwActive, cxlDown := t.cxlDown, bar0 := t.bar0 } ∧
      (t.fwActive = s.fwNext ∨ t.fwActive = 1 - s.fwNext) ∧
      (∀ a, memGet t.mem a = if isScratchKey a = true then 0#8 else memGet s.mem a) ∧
      (∀ k < 256, smGet 0 t.keyGens k = smGet 0 s.keyGens k + 1) ∧
      smGet 0#64 t.bar0 8 = smGet 0#64 s.bar0 8 ∧ (fail = none → smGet 0#64 t.bar0 0 = 0x107#64) ∧
      ∀ k, fail = some k → 1 ≤ k → k ≤ 7 → smGet 0#64 t.bar0 0 = BitVec.ofNat 64 (0x80 + k))

/-! ### The whole machine -/

/-- Every step keeps byte storage in canonical form: addresses strictly rising, and no entry equal to what an unlisted address reads as, so
that equal memories are equal data (the model's own form, log 3). -/
def Obligations.MemoryStaysCanonical : Prop := ∀ s t : State, s.Inv → step s = .next t → t.Inv

/-- The state after reset: the bring-up has reached READY at step 7 (R372), no context is live, no queue enabled, nothing is placed, the
buckets are full with the defaults of R278, the droop limit is 32 (R314), context-held CSRs have the reset values of R96, and
byte storage is in canonical form. -/
def Obligations.ResetState : Prop :=
  State.reset.Inv ∧ smGet 0#64 State.reset.bar0 0 = 0x107#64 ∧ State.reset.warps = [] ∧ State.reset.blocks = [] ∧ State.reset.launches = [] ∧
    (∀ x, (State.reset.ctxAt x).live = false ∧ (State.reset.ctxAt x).csrOf 0x14 = 32#32 ∧ (State.reset.ctxAt x).csrOf 0x15 = 1000000#32 ∧
      (State.reset.ctxAt x).csrOf 0x22 = 4#32 ∧ (State.reset.ctxAt x).csrOf 0x110 = 0#32) ∧
    (∀ q, (State.reset.queueAt q).enable = false ∧ (State.reset.queueAt q).stopped = false) ∧
    (∀ i, (State.reset.stackAt i).level = 65536 ∧ (State.reset.stackAt i).refill = 48 ∧ (State.reset.stackAt i).depth = 65536) ∧
    State.reset.droopMax = 32 ∧ State.reset.kilnLog = [] ∧ ∀ k n, (State.reset.laneAt k n).fpctl = 8#32

end
end

