-- ==== Sys2Proof/Laws/Memory.lean ====
section
/-!
SUPPORT. Byte storage: a write keeps the canonical form, a read after a write gives the byte written, and every other byte is as before.
-/

namespace Sys2Proof.Machine

/-! ### The canonical form -/

theorem memWfFrom_mono {lo lo' : Nat} (h : lo' ≤ lo) : ∀ {m : Memory}, memWfFrom lo m = true → memWfFrom lo' m = true
  | [], _ => rfl
  | (a, b) :: r, hm => by
    simp only [memWfFrom, Bool.and_eq_true, decide_eq_true_eq] at hm ⊢
    exact ⟨⟨Nat.le_trans h hm.1.1, hm.1.2⟩, hm.2⟩

theorem memSet_wfFrom (a : Nat) (b : Byte) : ∀ {lo : Nat} {m : Memory}, lo ≤ a → memWfFrom lo m = true →
    memWfFrom lo (memSet m a b) = true
  | lo, [], hlo, _ => by
    unfold memSet
    split <;> simp_all [memWfFrom]
  | lo, (a', b') :: r, hlo, hm => by
    simp only [memWfFrom, Bool.and_eq_true, decide_eq_true_eq] at hm
    obtain ⟨⟨h1, h2⟩, h3⟩ := hm
    unfold memSet
    split
    · rename_i hlt
      split
      · simp [memWfFrom, h1, h2, h3]
      · rename_i hb
        simp only [memWfFrom, Bool.and_eq_true, decide_eq_true_eq]
        exact ⟨⟨hlo, by simpa [bne] using hb⟩, ⟨Nat.succ_le_of_lt hlt, h2⟩, h3⟩
    · split
      · rename_i hge heq
        simp only [beq_iff_eq] at heq
        subst heq
        split
        · exact memWfFrom_mono (Nat.le_succ_of_le h1) h3
        · rename_i hb
          simp only [memWfFrom, Bool.and_eq_true, decide_eq_true_eq]
          exact ⟨⟨hlo, by simpa [bne] using hb⟩, h3⟩
      · rename_i hge hne
        simp only [memWfFrom, Bool.and_eq_true, decide_eq_true_eq]
        refine ⟨⟨h1, h2⟩, memSet_wfFrom a b ?_ h3⟩
        simp only [beq_iff_eq] at hne
        omega

/-- A write of one byte keeps the canonical form. -/
theorem memSet_wf {m : Memory} (a : Nat) (b : Byte) (h : Memory.wf m = true) : Memory.wf (memSet m a b) = true :=
  memSet_wfFrom a b (Nat.zero_le a) h

/-- A write of some bytes keeps the canonical form. -/
theorem memWrite_wf : ∀ (n : Nat) {m : Memory} (a v : Nat), Memory.wf m = true → Memory.wf (memWrite m a n v) = true
  | 0, _, _, _, h => h
  | n + 1, _, a, v, h => memWrite_wf n (a + 1) (v / 256) (memSet_wf a _ h)

/-- Storage from which some entries are taken keeps the canonical form. -/
theorem memWfFrom_filter (p : Host.Cell → Bool) : ∀ {lo : Nat} {m : Memory}, memWfFrom lo m = true →
    memWfFrom lo (m.filter p) = true
  | _, [], _ => rfl
  | lo, (a, b) :: r, hm => by
    simp only [memWfFrom, Bool.and_eq_true, decide_eq_true_eq] at hm
    obtain ⟨⟨h1, h2⟩, h3⟩ := hm
    have ih := memWfFrom_filter p h3
    simp only [List.filter]
    split
    · simp only [memWfFrom, Bool.and_eq_true, decide_eq_true_eq]
      exact ⟨⟨h1, h2⟩, ih⟩
    · exact memWfFrom_mono (Nat.le_succ_of_le h1) ih

theorem memFilter_wf {m : Memory} (p : Host.Cell → Bool) (h : Memory.wf m = true) : Memory.wf (m.filter p) = true :=
  memWfFrom_filter p h

/-- Bytes set one after another keep the canonical form. -/
theorem memFold_wf {α : Type} (f : α → Nat) (g : α → Byte) : ∀ (l : List α) {m : Memory}, Memory.wf m = true →
    Memory.wf (l.foldl (fun t v => memSet t (f v) (g v)) m) = true
  | [], _, h => h
  | x :: r, _, h => memFold_wf f g r (memSet_wf (f x) (g x) h)

/-! ### Reading after writing -/

theorem smGet_of_lt {m : Memory} {a : Nat} : ∀ {lo : Nat}, memWfFrom lo m = true → a < lo → smGet Config.unlisted m a = Config.unlisted := by
  induction m with
  | nil => intros; rfl
  | cons e r ih =>
    intro lo h hlt
    obtain ⟨a', b'⟩ := e
    simp only [memWfFrom, Bool.and_eq_true, decide_eq_true_eq] at h
    have : a' ≠ a := by omega
    simp only [smGet, beq_iff_eq, this, if_false]
    exact ih h.2 (by omega)

theorem memGet_memSet_from (a : Nat) (b : Byte) (x : Nat) : ∀ {lo : Nat} {m : Memory}, memWfFrom lo m = true →
    memGet (memSet m a b) x = if x = a then b else memGet m x
  | lo, [], _ => by
    unfold memSet
    by_cases hb : b = Config.unlisted <;> by_cases hx : x = a
    · simp [hb, hx, memGet, smGet]
    · simp [hb, hx, memGet, smGet]
    · simp [hb, hx, memGet, smGet]
    · simp [hb, hx, memGet, smGet, Ne.symm hx]
  | lo, (a', b') :: r, hm => by
    simp only [memWfFrom, Bool.and_eq_true, decide_eq_true_eq] at hm
    obtain ⟨⟨h1, h2⟩, h3⟩ := hm
    unfold memSet
    split
    · rename_i hlt
      split
      · rename_i hb
        simp only [beq_iff_eq] at hb
        by_cases hx : x = a
        · subst hx
          have hne : a' ≠ x := by omega
          simp only [memGet, smGet, beq_iff_eq, hne, if_false, if_true]
          rw [smGet_of_lt h3 (by omega), hb]
        · simp [hx]
      · by_cases hx : x = a
        · subst hx; simp [memGet, smGet]
        · simp [memGet, smGet, hx, Ne.symm hx]
    · split
      · rename_i hge heq
        simp only [beq_iff_eq] at heq
        subst heq
        split
        · rename_i hb
          simp only [beq_iff_eq] at hb
          by_cases hx : x = a
          · subst hx
            simp only [memGet, if_true]
            rw [smGet_of_lt h3 (by omega), hb]
          · simp [memGet, smGet, hx, Ne.symm hx]
        · by_cases hx : x = a
          · subst hx; simp [memGet, smGet]
          · simp [memGet, smGet, hx, Ne.symm hx]
      · rename_i hge hne
        simp only [beq_iff_eq] at hne
        have ih := memGet_memSet_from a b x h3
        simp only [memGet] at ih
        simp only [memGet, smGet]
        by_cases hxa : a' = x
        · subst hxa
          have : a' ≠ a := fun h => hne h.symm
          simp [this]
        · simp [hxa, ih]

/-- A byte read after a write of one byte. -/
theorem memGet_memSet {m : Memory} (h : Memory.wf m = true) (a : Nat) (b : Byte) (x : Nat) :
    memGet (memSet m a b) x = if x = a then b else memGet m x :=
  memGet_memSet_from a b x h

/-- A byte read after a write of `n` bytes: the byte of the number, or what stood there. -/
theorem memGet_memWrite : ∀ (n : Nat) {m : Memory} (a v x : Nat), Memory.wf m = true →
    memGet (memWrite m a n v) x = if a ≤ x ∧ x < a + n then BitVec.ofNat 8 (v / 256 ^ (x - a) % 256) else memGet m x
  | 0, m, a, v, x, _ => by
    rw [if_neg (by omega), memWrite]
  | n + 1, m, a, v, x, h => by
    rw [memWrite, memGet_memWrite n (a + 1) (v / 256) x (memSet_wf a _ h), memGet_memSet h]
    by_cases hx : x = a
    · subst hx; simp
    · by_cases hr : a + 1 ≤ x ∧ x < a + 1 + n
      · have hr' : a ≤ x ∧ x < a + (n + 1) := by omega
        have he : x - a = (x - (a + 1)) + 1 := by omega
        simp only [hr, hr', and_self, if_true]
        rw [he, Nat.pow_succ, Nat.mul_comm, ← Nat.div_div_eq_div_mul]
      · have hr' : ¬ (a ≤ x ∧ x < a + (n + 1)) := by omega
        rw [if_neg hr, if_neg hr', if_neg hx]

/-- The bytes outside a write are as before. -/
theorem memGet_memWrite_out {m : Memory} (h : Memory.wf m = true) {a n x : Nat} (v : Nat) (hx : x < a ∨ a + n ≤ x) :
    memGet (memWrite m a n v) x = memGet m x := by
  rw [memGet_memWrite n a v x h, if_neg (by omega)]

/-- Storages that read alike in a range give the same number. -/
theorem memRead_congr {m m' : Memory} : ∀ (n a : Nat), (∀ x, a ≤ x → x < a + n → memGet m x = memGet m' x) →
    memRead m a n = memRead m' a n
  | 0, _, _ => rfl
  | n + 1, a, h => by
    simp only [memRead]
    rw [h a (Nat.le_refl a) (by omega), memRead_congr n (a + 1) fun x h1 h2 => h x (by omega) (by omega)]

/-- A read of `n` bytes after a write of the same `n` bytes gives the number modulo 2^(8n). -/
theorem memRead_memWrite : ∀ (n : Nat) {m : Memory} (a v : Nat), Memory.wf m = true →
    memRead (memWrite m a n v) a n = v % 256 ^ n
  | 0, _, _, _, _ => by simp [memRead, Nat.mod_one]
  | n + 1, m, a, v, h => by
    have h0 : memGet (memWrite m a (n + 1) v) a = BitVec.ofNat 8 (v % 256) := by
      rw [memGet_memWrite (n + 1) a v a h, if_pos (by omega)]; simp
    have h1 : memRead (memWrite m a (n + 1) v) (a + 1) n = v / 256 % 256 ^ n := by
      rw [memWrite]; exact memRead_memWrite n (a + 1) (v / 256) (memSet_wf a _ h)
    rw [memRead, h0, h1, BitVec.toNat_ofNat, Nat.mod_mod, Nat.pow_succ, Nat.mul_comm (256 ^ n) 256, Nat.mod_mul]

/-- A read of bytes outside a write gives what it gave. -/
theorem memRead_memWrite_out {m : Memory} (h : Memory.wf m = true) {a n b k : Nat} (v : Nat) (hx : b + k ≤ a ∨ a + n ≤ b) :
    memRead (memWrite m a n v) b k = memRead m b k :=
  memRead_congr k b fun _ h1 h2 => memGet_memWrite_out h v (by omega)

end Sys2Proof.Machine
end

