-- ==== Sys2Proof/Laws/State.lean ====
section
/-!
SUPPORT. One lemma per field of State for each of its updates, all true by definition, so that no later proof unfolds a record update.
-/

namespace Sys2Proof.Machine

variable (s : State)


/-! ### modWarp -/

@[simp] theorem State.modWarp_clk (k : WarpKey) (f : Warp → Warp) : (s.modWarp k f).clk = s.clk := rfl
@[simp] theorem State.modWarp_issueQ (k : WarpKey) (f : Warp → Warp) : (s.modWarp k f).issueQ = s.issueQ := rfl
@[simp] theorem State.modWarp_agenda (k : WarpKey) (f : Warp → Warp) : (s.modWarp k f).agenda = s.agenda := rfl
@[simp] theorem State.modWarp_nextId (k : WarpKey) (f : Warp → Warp) : (s.modWarp k f).nextId = s.nextId := rfl
@[simp] theorem State.modWarp_free (k : WarpKey) (f : Warp → Warp) : (s.modWarp k f).free = s.free := rfl
@[simp] theorem State.modWarp_mem (k : WarpKey) (f : Warp → Warp) : (s.modWarp k f).mem = s.mem := rfl
@[simp] theorem State.modWarp_dram (k : WarpKey) (f : Warp → Warp) : (s.modWarp k f).dram = s.dram := rfl
@[simp] theorem State.modWarp_dramTags (k : WarpKey) (f : Warp → Warp) : (s.modWarp k f).dramTags = s.dramTags := rfl
@[simp] theorem State.modWarp_writeBacks (k : WarpKey) (f : Warp → Warp) : (s.modWarp k f).writeBacks = s.writeBacks := rfl
@[simp] theorem State.modWarp_keyTags (k : WarpKey) (f : Warp → Warp) : (s.modWarp k f).keyTags = s.keyTags := rfl
@[simp] theorem State.modWarp_keyGens (k : WarpKey) (f : Warp → Warp) : (s.modWarp k f).keyGens = s.keyGens := rfl
@[simp] theorem State.modWarp_tlb (k : WarpKey) (f : Warp → Warp) : (s.modWarp k f).tlb = s.tlb := rfl
@[simp] theorem State.modWarp_walks (k : WarpKey) (f : Warp → Warp) : (s.modWarp k f).walks = s.walks := rfl
@[simp] theorem State.modWarp_lineOwners (k : WarpKey) (f : Warp → Warp) : (s.modWarp k f).lineOwners = s.lineOwners := rfl
@[simp] theorem State.modWarp_scrambled (k : WarpKey) (f : Warp → Warp) : (s.modWarp k f).scrambled = s.scrambled := rfl
@[simp] theorem State.modWarp_tentWords (k : WarpKey) (f : Warp → Warp) : (s.modWarp k f).tentWords = s.tentWords := rfl
@[simp] theorem State.modWarp_releases (k : WarpKey) (f : Warp → Warp) : (s.modWarp k f).releases = s.releases := rfl
@[simp] theorem State.modWarp_accesses (k : WarpKey) (f : Warp → Warp) : (s.modWarp k f).accesses = s.accesses := rfl
@[simp] theorem State.modWarp_maths (k : WarpKey) (f : Warp → Warp) : (s.modWarp k f).maths = s.maths := rfl
@[simp] theorem State.modWarp_ops (k : WarpKey) (f : Warp → Warp) : (s.modWarp k f).ops = s.ops := rfl
@[simp] theorem State.modWarp_cores (k : WarpKey) (f : Warp → Warp) : (s.modWarp k f).cores = s.cores := rfl
@[simp] theorem State.modWarp_parts (k : WarpKey) (f : Warp → Warp) : (s.modWarp k f).parts = s.parts := rfl
@[simp] theorem State.modWarp_warps (k : WarpKey) (f : Warp → Warp) : (s.modWarp k f).warps = mapIf (fun w => w.key == k) f s.warps := rfl
@[simp] theorem State.modWarp_groups (k : WarpKey) (f : Warp → Warp) : (s.modWarp k f).groups = s.groups := rfl
@[simp] theorem State.modWarp_barDue (k : WarpKey) (f : Warp → Warp) : (s.modWarp k f).barDue = s.barDue := rfl
@[simp] theorem State.modWarp_ctxs (k : WarpKey) (f : Warp → Warp) : (s.modWarp k f).ctxs = s.ctxs := rfl
@[simp] theorem State.modWarp_queues (k : WarpKey) (f : Warp → Warp) : (s.modWarp k f).queues = s.queues := rfl
@[simp] theorem State.modWarp_launches (k : WarpKey) (f : Warp → Warp) : (s.modWarp k f).launches = s.launches := rfl
@[simp] theorem State.modWarp_blocks (k : WarpKey) (f : Warp → Warp) : (s.modWarp k f).blocks = s.blocks := rfl
@[simp] theorem State.modWarp_saved (k : WarpKey) (f : Warp → Warp) : (s.modWarp k f).saved = s.saved := rfl
@[simp] theorem State.modWarp_hbm (k : WarpKey) (f : Warp → Warp) : (s.modWarp k f).hbm = s.hbm := rfl
@[simp] theorem State.modWarp_lastQueue (k : WarpKey) (f : Warp → Warp) : (s.modWarp k f).lastQueue = s.lastQueue := rfl
@[simp] theorem State.modWarp_lastCore (k : WarpKey) (f : Warp → Warp) : (s.modWarp k f).lastCore = s.lastCore := rfl
@[simp] theorem State.modWarp_bar0 (k : WarpKey) (f : Warp → Warp) : (s.modWarp k f).bar0 = s.bar0 := rfl
@[simp] theorem State.modWarp_tenants (k : WarpKey) (f : Warp → Warp) : (s.modWarp k f).tenants = s.tenants := rfl
@[simp] theorem State.modWarp_ports (k : WarpKey) (f : Warp → Warp) : (s.modWarp k f).ports = s.ports := rfl
@[simp] theorem State.modWarp_reports (k : WarpKey) (f : Warp → Warp) : (s.modWarp k f).reports = s.reports := rfl
@[simp] theorem State.modWarp_replies (k : WarpKey) (f : Warp → Warp) : (s.modWarp k f).replies = s.replies := rfl
@[simp] theorem State.modWarp_msix (k : WarpKey) (f : Warp → Warp) : (s.modWarp k f).msix = s.msix := rfl
@[simp] theorem State.modWarp_kilnLog (k : WarpKey) (f : Warp → Warp) : (s.modWarp k f).kilnLog = s.kilnLog := rfl
@[simp] theorem State.modWarp_flashLog (k : WarpKey) (f : Warp → Warp) : (s.modWarp k f).flashLog = s.flashLog := rfl
@[simp] theorem State.modWarp_droopMax (k : WarpKey) (f : Warp → Warp) : (s.modWarp k f).droopMax = s.droopMax := rfl
@[simp] theorem State.modWarp_fwBank (k : WarpKey) (f : Warp → Warp) : (s.modWarp k f).fwBank = s.fwBank := rfl
@[simp] theorem State.modWarp_fwActive (k : WarpKey) (f : Warp → Warp) : (s.modWarp k f).fwActive = s.fwActive := rfl
@[simp] theorem State.modWarp_fwNext (k : WarpKey) (f : Warp → Warp) : (s.modWarp k f).fwNext = s.fwNext := rfl
@[simp] theorem State.modWarp_cxlDown (k : WarpKey) (f : Warp → Warp) : (s.modWarp k f).cxlDown = s.cxlDown := rfl
@[simp] theorem State.modWarp_cxlPoison (k : WarpKey) (f : Warp → Warp) : (s.modWarp k f).cxlPoison = s.cxlPoison := rfl
@[simp] theorem State.modWarp_lostRanks (k : WarpKey) (f : Warp → Warp) : (s.modWarp k f).lostRanks = s.lostRanks := rfl

/-! ### modLane -/

@[simp] theorem State.modLane_clk (k : WarpKey) (l : Nat) (f : Lane → Lane) : (s.modLane k l f).clk = s.clk := rfl
@[simp] theorem State.modLane_issueQ (k : WarpKey) (l : Nat) (f : Lane → Lane) : (s.modLane k l f).issueQ = s.issueQ := rfl
@[simp] theorem State.modLane_agenda (k : WarpKey) (l : Nat) (f : Lane → Lane) : (s.modLane k l f).agenda = s.agenda := rfl
@[simp] theorem State.modLane_nextId (k : WarpKey) (l : Nat) (f : Lane → Lane) : (s.modLane k l f).nextId = s.nextId := rfl
@[simp] theorem State.modLane_free (k : WarpKey) (l : Nat) (f : Lane → Lane) : (s.modLane k l f).free = s.free := rfl
@[simp] theorem State.modLane_mem (k : WarpKey) (l : Nat) (f : Lane → Lane) : (s.modLane k l f).mem = s.mem := rfl
@[simp] theorem State.modLane_dram (k : WarpKey) (l : Nat) (f : Lane → Lane) : (s.modLane k l f).dram = s.dram := rfl
@[simp] theorem State.modLane_dramTags (k : WarpKey) (l : Nat) (f : Lane → Lane) : (s.modLane k l f).dramTags = s.dramTags := rfl
@[simp] theorem State.modLane_writeBacks (k : WarpKey) (l : Nat) (f : Lane → Lane) : (s.modLane k l f).writeBacks = s.writeBacks := rfl
@[simp] theorem State.modLane_keyTags (k : WarpKey) (l : Nat) (f : Lane → Lane) : (s.modLane k l f).keyTags = s.keyTags := rfl
@[simp] theorem State.modLane_keyGens (k : WarpKey) (l : Nat) (f : Lane → Lane) : (s.modLane k l f).keyGens = s.keyGens := rfl
@[simp] theorem State.modLane_tlb (k : WarpKey) (l : Nat) (f : Lane → Lane) : (s.modLane k l f).tlb = s.tlb := rfl
@[simp] theorem State.modLane_walks (k : WarpKey) (l : Nat) (f : Lane → Lane) : (s.modLane k l f).walks = s.walks := rfl
@[simp] theorem State.modLane_lineOwners (k : WarpKey) (l : Nat) (f : Lane → Lane) : (s.modLane k l f).lineOwners = s.lineOwners := rfl
@[simp] theorem State.modLane_scrambled (k : WarpKey) (l : Nat) (f : Lane → Lane) : (s.modLane k l f).scrambled = s.scrambled := rfl
@[simp] theorem State.modLane_tentWords (k : WarpKey) (l : Nat) (f : Lane → Lane) : (s.modLane k l f).tentWords = s.tentWords := rfl
@[simp] theorem State.modLane_releases (k : WarpKey) (l : Nat) (f : Lane → Lane) : (s.modLane k l f).releases = s.releases := rfl
@[simp] theorem State.modLane_accesses (k : WarpKey) (l : Nat) (f : Lane → Lane) : (s.modLane k l f).accesses = s.accesses := rfl
@[simp] theorem State.modLane_maths (k : WarpKey) (l : Nat) (f : Lane → Lane) : (s.modLane k l f).maths = s.maths := rfl
@[simp] theorem State.modLane_ops (k : WarpKey) (l : Nat) (f : Lane → Lane) : (s.modLane k l f).ops = s.ops := rfl
@[simp] theorem State.modLane_cores (k : WarpKey) (l : Nat) (f : Lane → Lane) : (s.modLane k l f).cores = s.cores := rfl
@[simp] theorem State.modLane_parts (k : WarpKey) (l : Nat) (f : Lane → Lane) : (s.modLane k l f).parts = s.parts := rfl
@[simp] theorem State.modLane_warps (k : WarpKey) (l : Nat) (f : Lane → Lane) : (s.modLane k l f).warps = mapIf (fun w => w.key == k) (fun w => w.modLane l f) s.warps := rfl
@[simp] theorem State.modLane_groups (k : WarpKey) (l : Nat) (f : Lane → Lane) : (s.modLane k l f).groups = s.groups := rfl
@[simp] theorem State.modLane_barDue (k : WarpKey) (l : Nat) (f : Lane → Lane) : (s.modLane k l f).barDue = s.barDue := rfl
@[simp] theorem State.modLane_ctxs (k : WarpKey) (l : Nat) (f : Lane → Lane) : (s.modLane k l f).ctxs = s.ctxs := rfl
@[simp] theorem State.modLane_queues (k : WarpKey) (l : Nat) (f : Lane → Lane) : (s.modLane k l f).queues = s.queues := rfl
@[simp] theorem State.modLane_launches (k : WarpKey) (l : Nat) (f : Lane → Lane) : (s.modLane k l f).launches = s.launches := rfl
@[simp] theorem State.modLane_blocks (k : WarpKey) (l : Nat) (f : Lane → Lane) : (s.modLane k l f).blocks = s.blocks := rfl
@[simp] theorem State.modLane_saved (k : WarpKey) (l : Nat) (f : Lane → Lane) : (s.modLane k l f).saved = s.saved := rfl
@[simp] theorem State.modLane_hbm (k : WarpKey) (l : Nat) (f : Lane → Lane) : (s.modLane k l f).hbm = s.hbm := rfl
@[simp] theorem State.modLane_lastQueue (k : WarpKey) (l : Nat) (f : Lane → Lane) : (s.modLane k l f).lastQueue = s.lastQueue := rfl
@[simp] theorem State.modLane_lastCore (k : WarpKey) (l : Nat) (f : Lane → Lane) : (s.modLane k l f).lastCore = s.lastCore := rfl
@[simp] theorem State.modLane_bar0 (k : WarpKey) (l : Nat) (f : Lane → Lane) : (s.modLane k l f).bar0 = s.bar0 := rfl
@[simp] theorem State.modLane_tenants (k : WarpKey) (l : Nat) (f : Lane → Lane) : (s.modLane k l f).tenants = s.tenants := rfl
@[simp] theorem State.modLane_ports (k : WarpKey) (l : Nat) (f : Lane → Lane) : (s.modLane k l f).ports = s.ports := rfl
@[simp] theorem State.modLane_reports (k : WarpKey) (l : Nat) (f : Lane → Lane) : (s.modLane k l f).reports = s.reports := rfl
@[simp] theorem State.modLane_replies (k : WarpKey) (l : Nat) (f : Lane → Lane) : (s.modLane k l f).replies = s.replies := rfl
@[simp] theorem State.modLane_msix (k : WarpKey) (l : Nat) (f : Lane → Lane) : (s.modLane k l f).msix = s.msix := rfl
@[simp] theorem State.modLane_kilnLog (k : WarpKey) (l : Nat) (f : Lane → Lane) : (s.modLane k l f).kilnLog = s.kilnLog := rfl
@[simp] theorem State.modLane_flashLog (k : WarpKey) (l : Nat) (f : Lane → Lane) : (s.modLane k l f).flashLog = s.flashLog := rfl
@[simp] theorem State.modLane_droopMax (k : WarpKey) (l : Nat) (f : Lane → Lane) : (s.modLane k l f).droopMax = s.droopMax := rfl
@[simp] theorem State.modLane_fwBank (k : WarpKey) (l : Nat) (f : Lane → Lane) : (s.modLane k l f).fwBank = s.fwBank := rfl
@[simp] theorem State.modLane_fwActive (k : WarpKey) (l : Nat) (f : Lane → Lane) : (s.modLane k l f).fwActive = s.fwActive := rfl
@[simp] theorem State.modLane_fwNext (k : WarpKey) (l : Nat) (f : Lane → Lane) : (s.modLane k l f).fwNext = s.fwNext := rfl
@[simp] theorem State.modLane_cxlDown (k : WarpKey) (l : Nat) (f : Lane → Lane) : (s.modLane k l f).cxlDown = s.cxlDown := rfl
@[simp] theorem State.modLane_cxlPoison (k : WarpKey) (l : Nat) (f : Lane → Lane) : (s.modLane k l f).cxlPoison = s.cxlPoison := rfl
@[simp] theorem State.modLane_lostRanks (k : WarpKey) (l : Nat) (f : Lane → Lane) : (s.modLane k l f).lostRanks = s.lostRanks := rfl

/-! ### modPath -/

@[simp] theorem State.modPath_clk (k : WarpKey) (l : Nat) (f : Path → Path) : (s.modPath k l f).clk = s.clk := rfl
@[simp] theorem State.modPath_issueQ (k : WarpKey) (l : Nat) (f : Path → Path) : (s.modPath k l f).issueQ = s.issueQ := rfl
@[simp] theorem State.modPath_agenda (k : WarpKey) (l : Nat) (f : Path → Path) : (s.modPath k l f).agenda = s.agenda := rfl
@[simp] theorem State.modPath_nextId (k : WarpKey) (l : Nat) (f : Path → Path) : (s.modPath k l f).nextId = s.nextId := rfl
@[simp] theorem State.modPath_free (k : WarpKey) (l : Nat) (f : Path → Path) : (s.modPath k l f).free = s.free := rfl
@[simp] theorem State.modPath_mem (k : WarpKey) (l : Nat) (f : Path → Path) : (s.modPath k l f).mem = s.mem := rfl
@[simp] theorem State.modPath_dram (k : WarpKey) (l : Nat) (f : Path → Path) : (s.modPath k l f).dram = s.dram := rfl
@[simp] theorem State.modPath_dramTags (k : WarpKey) (l : Nat) (f : Path → Path) : (s.modPath k l f).dramTags = s.dramTags := rfl
@[simp] theorem State.modPath_writeBacks (k : WarpKey) (l : Nat) (f : Path → Path) : (s.modPath k l f).writeBacks = s.writeBacks := rfl
@[simp] theorem State.modPath_keyTags (k : WarpKey) (l : Nat) (f : Path → Path) : (s.modPath k l f).keyTags = s.keyTags := rfl
@[simp] theorem State.modPath_keyGens (k : WarpKey) (l : Nat) (f : Path → Path) : (s.modPath k l f).keyGens = s.keyGens := rfl
@[simp] theorem State.modPath_tlb (k : WarpKey) (l : Nat) (f : Path → Path) : (s.modPath k l f).tlb = s.tlb := rfl
@[simp] theorem State.modPath_walks (k : WarpKey) (l : Nat) (f : Path → Path) : (s.modPath k l f).walks = s.walks := rfl
@[simp] theorem State.modPath_lineOwners (k : WarpKey) (l : Nat) (f : Path → Path) : (s.modPath k l f).lineOwners = s.lineOwners := rfl
@[simp] theorem State.modPath_scrambled (k : WarpKey) (l : Nat) (f : Path → Path) : (s.modPath k l f).scrambled = s.scrambled := rfl
@[simp] theorem State.modPath_tentWords (k : WarpKey) (l : Nat) (f : Path → Path) : (s.modPath k l f).tentWords = s.tentWords := rfl
@[simp] theorem State.modPath_releases (k : WarpKey) (l : Nat) (f : Path → Path) : (s.modPath k l f).releases = s.releases := rfl
@[simp] theorem State.modPath_accesses (k : WarpKey) (l : Nat) (f : Path → Path) : (s.modPath k l f).accesses = s.accesses := rfl
@[simp] theorem State.modPath_maths (k : WarpKey) (l : Nat) (f : Path → Path) : (s.modPath k l f).maths = s.maths := rfl
@[simp] theorem State.modPath_ops (k : WarpKey) (l : Nat) (f : Path → Path) : (s.modPath k l f).ops = s.ops := rfl
@[simp] theorem State.modPath_cores (k : WarpKey) (l : Nat) (f : Path → Path) : (s.modPath k l f).cores = s.cores := rfl
@[simp] theorem State.modPath_parts (k : WarpKey) (l : Nat) (f : Path → Path) : (s.modPath k l f).parts = s.parts := rfl
@[simp] theorem State.modPath_warps (k : WarpKey) (l : Nat) (f : Path → Path) : (s.modPath k l f).warps = mapIf (fun w => w.key == k) (fun w => w.modPath l f) s.warps := rfl
@[simp] theorem State.modPath_groups (k : WarpKey) (l : Nat) (f : Path → Path) : (s.modPath k l f).groups = s.groups := rfl
@[simp] theorem State.modPath_barDue (k : WarpKey) (l : Nat) (f : Path → Path) : (s.modPath k l f).barDue = s.barDue := rfl
@[simp] theorem State.modPath_ctxs (k : WarpKey) (l : Nat) (f : Path → Path) : (s.modPath k l f).ctxs = s.ctxs := rfl
@[simp] theorem State.modPath_queues (k : WarpKey) (l : Nat) (f : Path → Path) : (s.modPath k l f).queues = s.queues := rfl
@[simp] theorem State.modPath_launches (k : WarpKey) (l : Nat) (f : Path → Path) : (s.modPath k l f).launches = s.launches := rfl
@[simp] theorem State.modPath_blocks (k : WarpKey) (l : Nat) (f : Path → Path) : (s.modPath k l f).blocks = s.blocks := rfl
@[simp] theorem State.modPath_saved (k : WarpKey) (l : Nat) (f : Path → Path) : (s.modPath k l f).saved = s.saved := rfl
@[simp] theorem State.modPath_hbm (k : WarpKey) (l : Nat) (f : Path → Path) : (s.modPath k l f).hbm = s.hbm := rfl
@[simp] theorem State.modPath_lastQueue (k : WarpKey) (l : Nat) (f : Path → Path) : (s.modPath k l f).lastQueue = s.lastQueue := rfl
@[simp] theorem State.modPath_lastCore (k : WarpKey) (l : Nat) (f : Path → Path) : (s.modPath k l f).lastCore = s.lastCore := rfl
@[simp] theorem State.modPath_bar0 (k : WarpKey) (l : Nat) (f : Path → Path) : (s.modPath k l f).bar0 = s.bar0 := rfl
@[simp] theorem State.modPath_tenants (k : WarpKey) (l : Nat) (f : Path → Path) : (s.modPath k l f).tenants = s.tenants := rfl
@[simp] theorem State.modPath_ports (k : WarpKey) (l : Nat) (f : Path → Path) : (s.modPath k l f).ports = s.ports := rfl
@[simp] theorem State.modPath_reports (k : WarpKey) (l : Nat) (f : Path → Path) : (s.modPath k l f).reports = s.reports := rfl
@[simp] theorem State.modPath_replies (k : WarpKey) (l : Nat) (f : Path → Path) : (s.modPath k l f).replies = s.replies := rfl
@[simp] theorem State.modPath_msix (k : WarpKey) (l : Nat) (f : Path → Path) : (s.modPath k l f).msix = s.msix := rfl
@[simp] theorem State.modPath_kilnLog (k : WarpKey) (l : Nat) (f : Path → Path) : (s.modPath k l f).kilnLog = s.kilnLog := rfl
@[simp] theorem State.modPath_flashLog (k : WarpKey) (l : Nat) (f : Path → Path) : (s.modPath k l f).flashLog = s.flashLog := rfl
@[simp] theorem State.modPath_droopMax (k : WarpKey) (l : Nat) (f : Path → Path) : (s.modPath k l f).droopMax = s.droopMax := rfl
@[simp] theorem State.modPath_fwBank (k : WarpKey) (l : Nat) (f : Path → Path) : (s.modPath k l f).fwBank = s.fwBank := rfl
@[simp] theorem State.modPath_fwActive (k : WarpKey) (l : Nat) (f : Path → Path) : (s.modPath k l f).fwActive = s.fwActive := rfl
@[simp] theorem State.modPath_fwNext (k : WarpKey) (l : Nat) (f : Path → Path) : (s.modPath k l f).fwNext = s.fwNext := rfl
@[simp] theorem State.modPath_cxlDown (k : WarpKey) (l : Nat) (f : Path → Path) : (s.modPath k l f).cxlDown = s.cxlDown := rfl
@[simp] theorem State.modPath_cxlPoison (k : WarpKey) (l : Nat) (f : Path → Path) : (s.modPath k l f).cxlPoison = s.cxlPoison := rfl
@[simp] theorem State.modPath_lostRanks (k : WarpKey) (l : Nat) (f : Path → Path) : (s.modPath k l f).lostRanks = s.lostRanks := rfl

/-! ### modCore -/

@[simp] theorem State.modCore_clk (c : Nat) (f : Core → Core) : (s.modCore c f).clk = s.clk := rfl
@[simp] theorem State.modCore_issueQ (c : Nat) (f : Core → Core) : (s.modCore c f).issueQ = s.issueQ := rfl
@[simp] theorem State.modCore_agenda (c : Nat) (f : Core → Core) : (s.modCore c f).agenda = s.agenda := rfl
@[simp] theorem State.modCore_nextId (c : Nat) (f : Core → Core) : (s.modCore c f).nextId = s.nextId := rfl
@[simp] theorem State.modCore_free (c : Nat) (f : Core → Core) : (s.modCore c f).free = s.free := rfl
@[simp] theorem State.modCore_mem (c : Nat) (f : Core → Core) : (s.modCore c f).mem = s.mem := rfl
@[simp] theorem State.modCore_dram (c : Nat) (f : Core → Core) : (s.modCore c f).dram = s.dram := rfl
@[simp] theorem State.modCore_dramTags (c : Nat) (f : Core → Core) : (s.modCore c f).dramTags = s.dramTags := rfl
@[simp] theorem State.modCore_writeBacks (c : Nat) (f : Core → Core) : (s.modCore c f).writeBacks = s.writeBacks := rfl
@[simp] theorem State.modCore_keyTags (c : Nat) (f : Core → Core) : (s.modCore c f).keyTags = s.keyTags := rfl
@[simp] theorem State.modCore_keyGens (c : Nat) (f : Core → Core) : (s.modCore c f).keyGens = s.keyGens := rfl
@[simp] theorem State.modCore_tlb (c : Nat) (f : Core → Core) : (s.modCore c f).tlb = s.tlb := rfl
@[simp] theorem State.modCore_walks (c : Nat) (f : Core → Core) : (s.modCore c f).walks = s.walks := rfl
@[simp] theorem State.modCore_lineOwners (c : Nat) (f : Core → Core) : (s.modCore c f).lineOwners = s.lineOwners := rfl
@[simp] theorem State.modCore_scrambled (c : Nat) (f : Core → Core) : (s.modCore c f).scrambled = s.scrambled := rfl
@[simp] theorem State.modCore_tentWords (c : Nat) (f : Core → Core) : (s.modCore c f).tentWords = s.tentWords := rfl
@[simp] theorem State.modCore_releases (c : Nat) (f : Core → Core) : (s.modCore c f).releases = s.releases := rfl
@[simp] theorem State.modCore_accesses (c : Nat) (f : Core → Core) : (s.modCore c f).accesses = s.accesses := rfl
@[simp] theorem State.modCore_maths (c : Nat) (f : Core → Core) : (s.modCore c f).maths = s.maths := rfl
@[simp] theorem State.modCore_ops (c : Nat) (f : Core → Core) : (s.modCore c f).ops = s.ops := rfl
@[simp] theorem State.modCore_cores (c : Nat) (f : Core → Core) : (s.modCore c f).cores = upsert (fun x => x.id == c) (blankCore c) f s.cores := rfl
@[simp] theorem State.modCore_parts (c : Nat) (f : Core → Core) : (s.modCore c f).parts = s.parts := rfl
@[simp] theorem State.modCore_warps (c : Nat) (f : Core → Core) : (s.modCore c f).warps = s.warps := rfl
@[simp] theorem State.modCore_groups (c : Nat) (f : Core → Core) : (s.modCore c f).groups = s.groups := rfl
@[simp] theorem State.modCore_barDue (c : Nat) (f : Core → Core) : (s.modCore c f).barDue = s.barDue := rfl
@[simp] theorem State.modCore_ctxs (c : Nat) (f : Core → Core) : (s.modCore c f).ctxs = s.ctxs := rfl
@[simp] theorem State.modCore_queues (c : Nat) (f : Core → Core) : (s.modCore c f).queues = s.queues := rfl
@[simp] theorem State.modCore_launches (c : Nat) (f : Core → Core) : (s.modCore c f).launches = s.launches := rfl
@[simp] theorem State.modCore_blocks (c : Nat) (f : Core → Core) : (s.modCore c f).blocks = s.blocks := rfl
@[simp] theorem State.modCore_saved (c : Nat) (f : Core → Core) : (s.modCore c f).saved = s.saved := rfl
@[simp] theorem State.modCore_hbm (c : Nat) (f : Core → Core) : (s.modCore c f).hbm = s.hbm := rfl
@[simp] theorem State.modCore_lastQueue (c : Nat) (f : Core → Core) : (s.modCore c f).lastQueue = s.lastQueue := rfl
@[simp] theorem State.modCore_lastCore (c : Nat) (f : Core → Core) : (s.modCore c f).lastCore = s.lastCore := rfl
@[simp] theorem State.modCore_bar0 (c : Nat) (f : Core → Core) : (s.modCore c f).bar0 = s.bar0 := rfl
@[simp] theorem State.modCore_tenants (c : Nat) (f : Core → Core) : (s.modCore c f).tenants = s.tenants := rfl
@[simp] theorem State.modCore_ports (c : Nat) (f : Core → Core) : (s.modCore c f).ports = s.ports := rfl
@[simp] theorem State.modCore_reports (c : Nat) (f : Core → Core) : (s.modCore c f).reports = s.reports := rfl
@[simp] theorem State.modCore_replies (c : Nat) (f : Core → Core) : (s.modCore c f).replies = s.replies := rfl
@[simp] theorem State.modCore_msix (c : Nat) (f : Core → Core) : (s.modCore c f).msix = s.msix := rfl
@[simp] theorem State.modCore_kilnLog (c : Nat) (f : Core → Core) : (s.modCore c f).kilnLog = s.kilnLog := rfl
@[simp] theorem State.modCore_flashLog (c : Nat) (f : Core → Core) : (s.modCore c f).flashLog = s.flashLog := rfl
@[simp] theorem State.modCore_droopMax (c : Nat) (f : Core → Core) : (s.modCore c f).droopMax = s.droopMax := rfl
@[simp] theorem State.modCore_fwBank (c : Nat) (f : Core → Core) : (s.modCore c f).fwBank = s.fwBank := rfl
@[simp] theorem State.modCore_fwActive (c : Nat) (f : Core → Core) : (s.modCore c f).fwActive = s.fwActive := rfl
@[simp] theorem State.modCore_fwNext (c : Nat) (f : Core → Core) : (s.modCore c f).fwNext = s.fwNext := rfl
@[simp] theorem State.modCore_cxlDown (c : Nat) (f : Core → Core) : (s.modCore c f).cxlDown = s.cxlDown := rfl
@[simp] theorem State.modCore_cxlPoison (c : Nat) (f : Core → Core) : (s.modCore c f).cxlPoison = s.cxlPoison := rfl
@[simp] theorem State.modCore_lostRanks (c : Nat) (f : Core → Core) : (s.modCore c f).lostRanks = s.lostRanks := rfl

/-! ### modPart -/

@[simp] theorem State.modPart_clk (c p : Nat) (f : Partition → Partition) : (s.modPart c p f).clk = s.clk := rfl
@[simp] theorem State.modPart_issueQ (c p : Nat) (f : Partition → Partition) : (s.modPart c p f).issueQ = s.issueQ := rfl
@[simp] theorem State.modPart_agenda (c p : Nat) (f : Partition → Partition) : (s.modPart c p f).agenda = s.agenda := rfl
@[simp] theorem State.modPart_nextId (c p : Nat) (f : Partition → Partition) : (s.modPart c p f).nextId = s.nextId := rfl
@[simp] theorem State.modPart_free (c p : Nat) (f : Partition → Partition) : (s.modPart c p f).free = s.free := rfl
@[simp] theorem State.modPart_mem (c p : Nat) (f : Partition → Partition) : (s.modPart c p f).mem = s.mem := rfl
@[simp] theorem State.modPart_dram (c p : Nat) (f : Partition → Partition) : (s.modPart c p f).dram = s.dram := rfl
@[simp] theorem State.modPart_dramTags (c p : Nat) (f : Partition → Partition) : (s.modPart c p f).dramTags = s.dramTags := rfl
@[simp] theorem State.modPart_writeBacks (c p : Nat) (f : Partition → Partition) : (s.modPart c p f).writeBacks = s.writeBacks := rfl
@[simp] theorem State.modPart_keyTags (c p : Nat) (f : Partition → Partition) : (s.modPart c p f).keyTags = s.keyTags := rfl
@[simp] theorem State.modPart_keyGens (c p : Nat) (f : Partition → Partition) : (s.modPart c p f).keyGens = s.keyGens := rfl
@[simp] theorem State.modPart_tlb (c p : Nat) (f : Partition → Partition) : (s.modPart c p f).tlb = s.tlb := rfl
@[simp] theorem State.modPart_walks (c p : Nat) (f : Partition → Partition) : (s.modPart c p f).walks = s.walks := rfl
@[simp] theorem State.modPart_lineOwners (c p : Nat) (f : Partition → Partition) : (s.modPart c p f).lineOwners = s.lineOwners := rfl
@[simp] theorem State.modPart_scrambled (c p : Nat) (f : Partition → Partition) : (s.modPart c p f).scrambled = s.scrambled := rfl
@[simp] theorem State.modPart_tentWords (c p : Nat) (f : Partition → Partition) : (s.modPart c p f).tentWords = s.tentWords := rfl
@[simp] theorem State.modPart_releases (c p : Nat) (f : Partition → Partition) : (s.modPart c p f).releases = s.releases := rfl
@[simp] theorem State.modPart_accesses (c p : Nat) (f : Partition → Partition) : (s.modPart c p f).accesses = s.accesses := rfl
@[simp] theorem State.modPart_maths (c p : Nat) (f : Partition → Partition) : (s.modPart c p f).maths = s.maths := rfl
@[simp] theorem State.modPart_ops (c p : Nat) (f : Partition → Partition) : (s.modPart c p f).ops = s.ops := rfl
@[simp] theorem State.modPart_cores (c p : Nat) (f : Partition → Partition) : (s.modPart c p f).cores = s.cores := rfl
@[simp] theorem State.modPart_parts (c p : Nat) (f : Partition → Partition) : (s.modPart c p f).parts = upsert (fun x => x.core == c && x.part == p) (blankPart c p) f s.parts := rfl
@[simp] theorem State.modPart_warps (c p : Nat) (f : Partition → Partition) : (s.modPart c p f).warps = s.warps := rfl
@[simp] theorem State.modPart_groups (c p : Nat) (f : Partition → Partition) : (s.modPart c p f).groups = s.groups := rfl
@[simp] theorem State.modPart_barDue (c p : Nat) (f : Partition → Partition) : (s.modPart c p f).barDue = s.barDue := rfl
@[simp] theorem State.modPart_ctxs (c p : Nat) (f : Partition → Partition) : (s.modPart c p f).ctxs = s.ctxs := rfl
@[simp] theorem State.modPart_queues (c p : Nat) (f : Partition → Partition) : (s.modPart c p f).queues = s.queues := rfl
@[simp] theorem State.modPart_launches (c p : Nat) (f : Partition → Partition) : (s.modPart c p f).launches = s.launches := rfl
@[simp] theorem State.modPart_blocks (c p : Nat) (f : Partition → Partition) : (s.modPart c p f).blocks = s.blocks := rfl
@[simp] theorem State.modPart_saved (c p : Nat) (f : Partition → Partition) : (s.modPart c p f).saved = s.saved := rfl
@[simp] theorem State.modPart_hbm (c p : Nat) (f : Partition → Partition) : (s.modPart c p f).hbm = s.hbm := rfl
@[simp] theorem State.modPart_lastQueue (c p : Nat) (f : Partition → Partition) : (s.modPart c p f).lastQueue = s.lastQueue := rfl
@[simp] theorem State.modPart_lastCore (c p : Nat) (f : Partition → Partition) : (s.modPart c p f).lastCore = s.lastCore := rfl
@[simp] theorem State.modPart_bar0 (c p : Nat) (f : Partition → Partition) : (s.modPart c p f).bar0 = s.bar0 := rfl
@[simp] theorem State.modPart_tenants (c p : Nat) (f : Partition → Partition) : (s.modPart c p f).tenants = s.tenants := rfl
@[simp] theorem State.modPart_ports (c p : Nat) (f : Partition → Partition) : (s.modPart c p f).ports = s.ports := rfl
@[simp] theorem State.modPart_reports (c p : Nat) (f : Partition → Partition) : (s.modPart c p f).reports = s.reports := rfl
@[simp] theorem State.modPart_replies (c p : Nat) (f : Partition → Partition) : (s.modPart c p f).replies = s.replies := rfl
@[simp] theorem State.modPart_msix (c p : Nat) (f : Partition → Partition) : (s.modPart c p f).msix = s.msix := rfl
@[simp] theorem State.modPart_kilnLog (c p : Nat) (f : Partition → Partition) : (s.modPart c p f).kilnLog = s.kilnLog := rfl
@[simp] theorem State.modPart_flashLog (c p : Nat) (f : Partition → Partition) : (s.modPart c p f).flashLog = s.flashLog := rfl
@[simp] theorem State.modPart_droopMax (c p : Nat) (f : Partition → Partition) : (s.modPart c p f).droopMax = s.droopMax := rfl
@[simp] theorem State.modPart_fwBank (c p : Nat) (f : Partition → Partition) : (s.modPart c p f).fwBank = s.fwBank := rfl
@[simp] theorem State.modPart_fwActive (c p : Nat) (f : Partition → Partition) : (s.modPart c p f).fwActive = s.fwActive := rfl
@[simp] theorem State.modPart_fwNext (c p : Nat) (f : Partition → Partition) : (s.modPart c p f).fwNext = s.fwNext := rfl
@[simp] theorem State.modPart_cxlDown (c p : Nat) (f : Partition → Partition) : (s.modPart c p f).cxlDown = s.cxlDown := rfl
@[simp] theorem State.modPart_cxlPoison (c p : Nat) (f : Partition → Partition) : (s.modPart c p f).cxlPoison = s.cxlPoison := rfl
@[simp] theorem State.modPart_lostRanks (c p : Nat) (f : Partition → Partition) : (s.modPart c p f).lostRanks = s.lostRanks := rfl

/-! ### modCtx -/

@[simp] theorem State.modCtx_clk (x : Nat) (f : Ctx → Ctx) : (s.modCtx x f).clk = s.clk := rfl
@[simp] theorem State.modCtx_issueQ (x : Nat) (f : Ctx → Ctx) : (s.modCtx x f).issueQ = s.issueQ := rfl
@[simp] theorem State.modCtx_agenda (x : Nat) (f : Ctx → Ctx) : (s.modCtx x f).agenda = s.agenda := rfl
@[simp] theorem State.modCtx_nextId (x : Nat) (f : Ctx → Ctx) : (s.modCtx x f).nextId = s.nextId := rfl
@[simp] theorem State.modCtx_free (x : Nat) (f : Ctx → Ctx) : (s.modCtx x f).free = s.free := rfl
@[simp] theorem State.modCtx_mem (x : Nat) (f : Ctx → Ctx) : (s.modCtx x f).mem = s.mem := rfl
@[simp] theorem State.modCtx_dram (x : Nat) (f : Ctx → Ctx) : (s.modCtx x f).dram = s.dram := rfl
@[simp] theorem State.modCtx_dramTags (x : Nat) (f : Ctx → Ctx) : (s.modCtx x f).dramTags = s.dramTags := rfl
@[simp] theorem State.modCtx_writeBacks (x : Nat) (f : Ctx → Ctx) : (s.modCtx x f).writeBacks = s.writeBacks := rfl
@[simp] theorem State.modCtx_keyTags (x : Nat) (f : Ctx → Ctx) : (s.modCtx x f).keyTags = s.keyTags := rfl
@[simp] theorem State.modCtx_keyGens (x : Nat) (f : Ctx → Ctx) : (s.modCtx x f).keyGens = s.keyGens := rfl
@[simp] theorem State.modCtx_tlb (x : Nat) (f : Ctx → Ctx) : (s.modCtx x f).tlb = s.tlb := rfl
@[simp] theorem State.modCtx_walks (x : Nat) (f : Ctx → Ctx) : (s.modCtx x f).walks = s.walks := rfl
@[simp] theorem State.modCtx_lineOwners (x : Nat) (f : Ctx → Ctx) : (s.modCtx x f).lineOwners = s.lineOwners := rfl
@[simp] theorem State.modCtx_scrambled (x : Nat) (f : Ctx → Ctx) : (s.modCtx x f).scrambled = s.scrambled := rfl
@[simp] theorem State.modCtx_tentWords (x : Nat) (f : Ctx → Ctx) : (s.modCtx x f).tentWords = s.tentWords := rfl
@[simp] theorem State.modCtx_releases (x : Nat) (f : Ctx → Ctx) : (s.modCtx x f).releases = s.releases := rfl
@[simp] theorem State.modCtx_accesses (x : Nat) (f : Ctx → Ctx) : (s.modCtx x f).accesses = s.accesses := rfl
@[simp] theorem State.modCtx_maths (x : Nat) (f : Ctx → Ctx) : (s.modCtx x f).maths = s.maths := rfl
@[simp] theorem State.modCtx_ops (x : Nat) (f : Ctx → Ctx) : (s.modCtx x f).ops = s.ops := rfl
@[simp] theorem State.modCtx_cores (x : Nat) (f : Ctx → Ctx) : (s.modCtx x f).cores = s.cores := rfl
@[simp] theorem State.modCtx_parts (x : Nat) (f : Ctx → Ctx) : (s.modCtx x f).parts = s.parts := rfl
@[simp] theorem State.modCtx_warps (x : Nat) (f : Ctx → Ctx) : (s.modCtx x f).warps = s.warps := rfl
@[simp] theorem State.modCtx_groups (x : Nat) (f : Ctx → Ctx) : (s.modCtx x f).groups = s.groups := rfl
@[simp] theorem State.modCtx_barDue (x : Nat) (f : Ctx → Ctx) : (s.modCtx x f).barDue = s.barDue := rfl
@[simp] theorem State.modCtx_ctxs (x : Nat) (f : Ctx → Ctx) : (s.modCtx x f).ctxs = upsert (fun c => c.num == x) (blankCtx x) f s.ctxs := rfl
@[simp] theorem State.modCtx_queues (x : Nat) (f : Ctx → Ctx) : (s.modCtx x f).queues = s.queues := rfl
@[simp] theorem State.modCtx_launches (x : Nat) (f : Ctx → Ctx) : (s.modCtx x f).launches = s.launches := rfl
@[simp] theorem State.modCtx_blocks (x : Nat) (f : Ctx → Ctx) : (s.modCtx x f).blocks = s.blocks := rfl
@[simp] theorem State.modCtx_saved (x : Nat) (f : Ctx → Ctx) : (s.modCtx x f).saved = s.saved := rfl
@[simp] theorem State.modCtx_hbm (x : Nat) (f : Ctx → Ctx) : (s.modCtx x f).hbm = s.hbm := rfl
@[simp] theorem State.modCtx_lastQueue (x : Nat) (f : Ctx → Ctx) : (s.modCtx x f).lastQueue = s.lastQueue := rfl
@[simp] theorem State.modCtx_lastCore (x : Nat) (f : Ctx → Ctx) : (s.modCtx x f).lastCore = s.lastCore := rfl
@[simp] theorem State.modCtx_bar0 (x : Nat) (f : Ctx → Ctx) : (s.modCtx x f).bar0 = s.bar0 := rfl
@[simp] theorem State.modCtx_tenants (x : Nat) (f : Ctx → Ctx) : (s.modCtx x f).tenants = s.tenants := rfl
@[simp] theorem State.modCtx_ports (x : Nat) (f : Ctx → Ctx) : (s.modCtx x f).ports = s.ports := rfl
@[simp] theorem State.modCtx_reports (x : Nat) (f : Ctx → Ctx) : (s.modCtx x f).reports = s.reports := rfl
@[simp] theorem State.modCtx_replies (x : Nat) (f : Ctx → Ctx) : (s.modCtx x f).replies = s.replies := rfl
@[simp] theorem State.modCtx_msix (x : Nat) (f : Ctx → Ctx) : (s.modCtx x f).msix = s.msix := rfl
@[simp] theorem State.modCtx_kilnLog (x : Nat) (f : Ctx → Ctx) : (s.modCtx x f).kilnLog = s.kilnLog := rfl
@[simp] theorem State.modCtx_flashLog (x : Nat) (f : Ctx → Ctx) : (s.modCtx x f).flashLog = s.flashLog := rfl
@[simp] theorem State.modCtx_droopMax (x : Nat) (f : Ctx → Ctx) : (s.modCtx x f).droopMax = s.droopMax := rfl
@[simp] theorem State.modCtx_fwBank (x : Nat) (f : Ctx → Ctx) : (s.modCtx x f).fwBank = s.fwBank := rfl
@[simp] theorem State.modCtx_fwActive (x : Nat) (f : Ctx → Ctx) : (s.modCtx x f).fwActive = s.fwActive := rfl
@[simp] theorem State.modCtx_fwNext (x : Nat) (f : Ctx → Ctx) : (s.modCtx x f).fwNext = s.fwNext := rfl
@[simp] theorem State.modCtx_cxlDown (x : Nat) (f : Ctx → Ctx) : (s.modCtx x f).cxlDown = s.cxlDown := rfl
@[simp] theorem State.modCtx_cxlPoison (x : Nat) (f : Ctx → Ctx) : (s.modCtx x f).cxlPoison = s.cxlPoison := rfl
@[simp] theorem State.modCtx_lostRanks (x : Nat) (f : Ctx → Ctx) : (s.modCtx x f).lostRanks = s.lostRanks := rfl

/-! ### modQueue -/

@[simp] theorem State.modQueue_clk (q : Nat) (f : Queue → Queue) : (s.modQueue q f).clk = s.clk := rfl
@[simp] theorem State.modQueue_issueQ (q : Nat) (f : Queue → Queue) : (s.modQueue q f).issueQ = s.issueQ := rfl
@[simp] theorem State.modQueue_agenda (q : Nat) (f : Queue → Queue) : (s.modQueue q f).agenda = s.agenda := rfl
@[simp] theorem State.modQueue_nextId (q : Nat) (f : Queue → Queue) : (s.modQueue q f).nextId = s.nextId := rfl
@[simp] theorem State.modQueue_free (q : Nat) (f : Queue → Queue) : (s.modQueue q f).free = s.free := rfl
@[simp] theorem State.modQueue_mem (q : Nat) (f : Queue → Queue) : (s.modQueue q f).mem = s.mem := rfl
@[simp] theorem State.modQueue_dram (q : Nat) (f : Queue → Queue) : (s.modQueue q f).dram = s.dram := rfl
@[simp] theorem State.modQueue_dramTags (q : Nat) (f : Queue → Queue) : (s.modQueue q f).dramTags = s.dramTags := rfl
@[simp] theorem State.modQueue_writeBacks (q : Nat) (f : Queue → Queue) : (s.modQueue q f).writeBacks = s.writeBacks := rfl
@[simp] theorem State.modQueue_keyTags (q : Nat) (f : Queue → Queue) : (s.modQueue q f).keyTags = s.keyTags := rfl
@[simp] theorem State.modQueue_keyGens (q : Nat) (f : Queue → Queue) : (s.modQueue q f).keyGens = s.keyGens := rfl
@[simp] theorem State.modQueue_tlb (q : Nat) (f : Queue → Queue) : (s.modQueue q f).tlb = s.tlb := rfl
@[simp] theorem State.modQueue_walks (q : Nat) (f : Queue → Queue) : (s.modQueue q f).walks = s.walks := rfl
@[simp] theorem State.modQueue_lineOwners (q : Nat) (f : Queue → Queue) : (s.modQueue q f).lineOwners = s.lineOwners := rfl
@[simp] theorem State.modQueue_scrambled (q : Nat) (f : Queue → Queue) : (s.modQueue q f).scrambled = s.scrambled := rfl
@[simp] theorem State.modQueue_tentWords (q : Nat) (f : Queue → Queue) : (s.modQueue q f).tentWords = s.tentWords := rfl
@[simp] theorem State.modQueue_releases (q : Nat) (f : Queue → Queue) : (s.modQueue q f).releases = s.releases := rfl
@[simp] theorem State.modQueue_accesses (q : Nat) (f : Queue → Queue) : (s.modQueue q f).accesses = s.accesses := rfl
@[simp] theorem State.modQueue_maths (q : Nat) (f : Queue → Queue) : (s.modQueue q f).maths = s.maths := rfl
@[simp] theorem State.modQueue_ops (q : Nat) (f : Queue → Queue) : (s.modQueue q f).ops = s.ops := rfl
@[simp] theorem State.modQueue_cores (q : Nat) (f : Queue → Queue) : (s.modQueue q f).cores = s.cores := rfl
@[simp] theorem State.modQueue_parts (q : Nat) (f : Queue → Queue) : (s.modQueue q f).parts = s.parts := rfl
@[simp] theorem State.modQueue_warps (q : Nat) (f : Queue → Queue) : (s.modQueue q f).warps = s.warps := rfl
@[simp] theorem State.modQueue_groups (q : Nat) (f : Queue → Queue) : (s.modQueue q f).groups = s.groups := rfl
@[simp] theorem State.modQueue_barDue (q : Nat) (f : Queue → Queue) : (s.modQueue q f).barDue = s.barDue := rfl
@[simp] theorem State.modQueue_ctxs (q : Nat) (f : Queue → Queue) : (s.modQueue q f).ctxs = s.ctxs := rfl
@[simp] theorem State.modQueue_queues (q : Nat) (f : Queue → Queue) : (s.modQueue q f).queues = upsert (fun x => x.id == q) (blankQueue q) f s.queues := rfl
@[simp] theorem State.modQueue_launches (q : Nat) (f : Queue → Queue) : (s.modQueue q f).launches = s.launches := rfl
@[simp] theorem State.modQueue_blocks (q : Nat) (f : Queue → Queue) : (s.modQueue q f).blocks = s.blocks := rfl
@[simp] theorem State.modQueue_saved (q : Nat) (f : Queue → Queue) : (s.modQueue q f).saved = s.saved := rfl
@[simp] theorem State.modQueue_hbm (q : Nat) (f : Queue → Queue) : (s.modQueue q f).hbm = s.hbm := rfl
@[simp] theorem State.modQueue_lastQueue (q : Nat) (f : Queue → Queue) : (s.modQueue q f).lastQueue = s.lastQueue := rfl
@[simp] theorem State.modQueue_lastCore (q : Nat) (f : Queue → Queue) : (s.modQueue q f).lastCore = s.lastCore := rfl
@[simp] theorem State.modQueue_bar0 (q : Nat) (f : Queue → Queue) : (s.modQueue q f).bar0 = s.bar0 := rfl
@[simp] theorem State.modQueue_tenants (q : Nat) (f : Queue → Queue) : (s.modQueue q f).tenants = s.tenants := rfl
@[simp] theorem State.modQueue_ports (q : Nat) (f : Queue → Queue) : (s.modQueue q f).ports = s.ports := rfl
@[simp] theorem State.modQueue_reports (q : Nat) (f : Queue → Queue) : (s.modQueue q f).reports = s.reports := rfl
@[simp] theorem State.modQueue_replies (q : Nat) (f : Queue → Queue) : (s.modQueue q f).replies = s.replies := rfl
@[simp] theorem State.modQueue_msix (q : Nat) (f : Queue → Queue) : (s.modQueue q f).msix = s.msix := rfl
@[simp] theorem State.modQueue_kilnLog (q : Nat) (f : Queue → Queue) : (s.modQueue q f).kilnLog = s.kilnLog := rfl
@[simp] theorem State.modQueue_flashLog (q : Nat) (f : Queue → Queue) : (s.modQueue q f).flashLog = s.flashLog := rfl
@[simp] theorem State.modQueue_droopMax (q : Nat) (f : Queue → Queue) : (s.modQueue q f).droopMax = s.droopMax := rfl
@[simp] theorem State.modQueue_fwBank (q : Nat) (f : Queue → Queue) : (s.modQueue q f).fwBank = s.fwBank := rfl
@[simp] theorem State.modQueue_fwActive (q : Nat) (f : Queue → Queue) : (s.modQueue q f).fwActive = s.fwActive := rfl
@[simp] theorem State.modQueue_fwNext (q : Nat) (f : Queue → Queue) : (s.modQueue q f).fwNext = s.fwNext := rfl
@[simp] theorem State.modQueue_cxlDown (q : Nat) (f : Queue → Queue) : (s.modQueue q f).cxlDown = s.cxlDown := rfl
@[simp] theorem State.modQueue_cxlPoison (q : Nat) (f : Queue → Queue) : (s.modQueue q f).cxlPoison = s.cxlPoison := rfl
@[simp] theorem State.modQueue_lostRanks (q : Nat) (f : Queue → Queue) : (s.modQueue q f).lostRanks = s.lostRanks := rfl

/-! ### modStack -/

@[simp] theorem State.modStack_clk (i : Nat) (f : Stack → Stack) : (s.modStack i f).clk = s.clk := rfl
@[simp] theorem State.modStack_issueQ (i : Nat) (f : Stack → Stack) : (s.modStack i f).issueQ = s.issueQ := rfl
@[simp] theorem State.modStack_agenda (i : Nat) (f : Stack → Stack) : (s.modStack i f).agenda = s.agenda := rfl
@[simp] theorem State.modStack_nextId (i : Nat) (f : Stack → Stack) : (s.modStack i f).nextId = s.nextId := rfl
@[simp] theorem State.modStack_free (i : Nat) (f : Stack → Stack) : (s.modStack i f).free = s.free := rfl
@[simp] theorem State.modStack_mem (i : Nat) (f : Stack → Stack) : (s.modStack i f).mem = s.mem := rfl
@[simp] theorem State.modStack_dram (i : Nat) (f : Stack → Stack) : (s.modStack i f).dram = s.dram := rfl
@[simp] theorem State.modStack_dramTags (i : Nat) (f : Stack → Stack) : (s.modStack i f).dramTags = s.dramTags := rfl
@[simp] theorem State.modStack_writeBacks (i : Nat) (f : Stack → Stack) : (s.modStack i f).writeBacks = s.writeBacks := rfl
@[simp] theorem State.modStack_keyTags (i : Nat) (f : Stack → Stack) : (s.modStack i f).keyTags = s.keyTags := rfl
@[simp] theorem State.modStack_keyGens (i : Nat) (f : Stack → Stack) : (s.modStack i f).keyGens = s.keyGens := rfl
@[simp] theorem State.modStack_tlb (i : Nat) (f : Stack → Stack) : (s.modStack i f).tlb = s.tlb := rfl
@[simp] theorem State.modStack_walks (i : Nat) (f : Stack → Stack) : (s.modStack i f).walks = s.walks := rfl
@[simp] theorem State.modStack_lineOwners (i : Nat) (f : Stack → Stack) : (s.modStack i f).lineOwners = s.lineOwners := rfl
@[simp] theorem State.modStack_scrambled (i : Nat) (f : Stack → Stack) : (s.modStack i f).scrambled = s.scrambled := rfl
@[simp] theorem State.modStack_tentWords (i : Nat) (f : Stack → Stack) : (s.modStack i f).tentWords = s.tentWords := rfl
@[simp] theorem State.modStack_releases (i : Nat) (f : Stack → Stack) : (s.modStack i f).releases = s.releases := rfl
@[simp] theorem State.modStack_accesses (i : Nat) (f : Stack → Stack) : (s.modStack i f).accesses = s.accesses := rfl
@[simp] theorem State.modStack_maths (i : Nat) (f : Stack → Stack) : (s.modStack i f).maths = s.maths := rfl
@[simp] theorem State.modStack_ops (i : Nat) (f : Stack → Stack) : (s.modStack i f).ops = s.ops := rfl
@[simp] theorem State.modStack_cores (i : Nat) (f : Stack → Stack) : (s.modStack i f).cores = s.cores := rfl
@[simp] theorem State.modStack_parts (i : Nat) (f : Stack → Stack) : (s.modStack i f).parts = s.parts := rfl
@[simp] theorem State.modStack_warps (i : Nat) (f : Stack → Stack) : (s.modStack i f).warps = s.warps := rfl
@[simp] theorem State.modStack_groups (i : Nat) (f : Stack → Stack) : (s.modStack i f).groups = s.groups := rfl
@[simp] theorem State.modStack_barDue (i : Nat) (f : Stack → Stack) : (s.modStack i f).barDue = s.barDue := rfl
@[simp] theorem State.modStack_ctxs (i : Nat) (f : Stack → Stack) : (s.modStack i f).ctxs = s.ctxs := rfl
@[simp] theorem State.modStack_queues (i : Nat) (f : Stack → Stack) : (s.modStack i f).queues = s.queues := rfl
@[simp] theorem State.modStack_launches (i : Nat) (f : Stack → Stack) : (s.modStack i f).launches = s.launches := rfl
@[simp] theorem State.modStack_blocks (i : Nat) (f : Stack → Stack) : (s.modStack i f).blocks = s.blocks := rfl
@[simp] theorem State.modStack_saved (i : Nat) (f : Stack → Stack) : (s.modStack i f).saved = s.saved := rfl
@[simp] theorem State.modStack_hbm (i : Nat) (f : Stack → Stack) : (s.modStack i f).hbm = upsert (fun x => x.id == i) (blankStack i) f s.hbm := rfl
@[simp] theorem State.modStack_lastQueue (i : Nat) (f : Stack → Stack) : (s.modStack i f).lastQueue = s.lastQueue := rfl
@[simp] theorem State.modStack_lastCore (i : Nat) (f : Stack → Stack) : (s.modStack i f).lastCore = s.lastCore := rfl
@[simp] theorem State.modStack_bar0 (i : Nat) (f : Stack → Stack) : (s.modStack i f).bar0 = s.bar0 := rfl
@[simp] theorem State.modStack_tenants (i : Nat) (f : Stack → Stack) : (s.modStack i f).tenants = s.tenants := rfl
@[simp] theorem State.modStack_ports (i : Nat) (f : Stack → Stack) : (s.modStack i f).ports = s.ports := rfl
@[simp] theorem State.modStack_reports (i : Nat) (f : Stack → Stack) : (s.modStack i f).reports = s.reports := rfl
@[simp] theorem State.modStack_replies (i : Nat) (f : Stack → Stack) : (s.modStack i f).replies = s.replies := rfl
@[simp] theorem State.modStack_msix (i : Nat) (f : Stack → Stack) : (s.modStack i f).msix = s.msix := rfl
@[simp] theorem State.modStack_kilnLog (i : Nat) (f : Stack → Stack) : (s.modStack i f).kilnLog = s.kilnLog := rfl
@[simp] theorem State.modStack_flashLog (i : Nat) (f : Stack → Stack) : (s.modStack i f).flashLog = s.flashLog := rfl
@[simp] theorem State.modStack_droopMax (i : Nat) (f : Stack → Stack) : (s.modStack i f).droopMax = s.droopMax := rfl
@[simp] theorem State.modStack_fwBank (i : Nat) (f : Stack → Stack) : (s.modStack i f).fwBank = s.fwBank := rfl
@[simp] theorem State.modStack_fwActive (i : Nat) (f : Stack → Stack) : (s.modStack i f).fwActive = s.fwActive := rfl
@[simp] theorem State.modStack_fwNext (i : Nat) (f : Stack → Stack) : (s.modStack i f).fwNext = s.fwNext := rfl
@[simp] theorem State.modStack_cxlDown (i : Nat) (f : Stack → Stack) : (s.modStack i f).cxlDown = s.cxlDown := rfl
@[simp] theorem State.modStack_cxlPoison (i : Nat) (f : Stack → Stack) : (s.modStack i f).cxlPoison = s.cxlPoison := rfl
@[simp] theorem State.modStack_lostRanks (i : Nat) (f : Stack → Stack) : (s.modStack i f).lostRanks = s.lostRanks := rfl

/-! ### modOp -/

@[simp] theorem State.modOp_clk (c i : Nat) (f : EngOp → EngOp) : (s.modOp c i f).clk = s.clk := rfl
@[simp] theorem State.modOp_issueQ (c i : Nat) (f : EngOp → EngOp) : (s.modOp c i f).issueQ = s.issueQ := rfl
@[simp] theorem State.modOp_agenda (c i : Nat) (f : EngOp → EngOp) : (s.modOp c i f).agenda = s.agenda := rfl
@[simp] theorem State.modOp_nextId (c i : Nat) (f : EngOp → EngOp) : (s.modOp c i f).nextId = s.nextId := rfl
@[simp] theorem State.modOp_free (c i : Nat) (f : EngOp → EngOp) : (s.modOp c i f).free = s.free := rfl
@[simp] theorem State.modOp_mem (c i : Nat) (f : EngOp → EngOp) : (s.modOp c i f).mem = s.mem := rfl
@[simp] theorem State.modOp_dram (c i : Nat) (f : EngOp → EngOp) : (s.modOp c i f).dram = s.dram := rfl
@[simp] theorem State.modOp_dramTags (c i : Nat) (f : EngOp → EngOp) : (s.modOp c i f).dramTags = s.dramTags := rfl
@[simp] theorem State.modOp_writeBacks (c i : Nat) (f : EngOp → EngOp) : (s.modOp c i f).writeBacks = s.writeBacks := rfl
@[simp] theorem State.modOp_keyTags (c i : Nat) (f : EngOp → EngOp) : (s.modOp c i f).keyTags = s.keyTags := rfl
@[simp] theorem State.modOp_keyGens (c i : Nat) (f : EngOp → EngOp) : (s.modOp c i f).keyGens = s.keyGens := rfl
@[simp] theorem State.modOp_tlb (c i : Nat) (f : EngOp → EngOp) : (s.modOp c i f).tlb = s.tlb := rfl
@[simp] theorem State.modOp_walks (c i : Nat) (f : EngOp → EngOp) : (s.modOp c i f).walks = s.walks := rfl
@[simp] theorem State.modOp_lineOwners (c i : Nat) (f : EngOp → EngOp) : (s.modOp c i f).lineOwners = s.lineOwners := rfl
@[simp] theorem State.modOp_scrambled (c i : Nat) (f : EngOp → EngOp) : (s.modOp c i f).scrambled = s.scrambled := rfl
@[simp] theorem State.modOp_tentWords (c i : Nat) (f : EngOp → EngOp) : (s.modOp c i f).tentWords = s.tentWords := rfl
@[simp] theorem State.modOp_releases (c i : Nat) (f : EngOp → EngOp) : (s.modOp c i f).releases = s.releases := rfl
@[simp] theorem State.modOp_accesses (c i : Nat) (f : EngOp → EngOp) : (s.modOp c i f).accesses = s.accesses := rfl
@[simp] theorem State.modOp_maths (c i : Nat) (f : EngOp → EngOp) : (s.modOp c i f).maths = s.maths := rfl
@[simp] theorem State.modOp_ops (c i : Nat) (f : EngOp → EngOp) : (s.modOp c i f).ops = mapIf (fun o => o.core == c && o.slot == i) f s.ops := rfl
@[simp] theorem State.modOp_cores (c i : Nat) (f : EngOp → EngOp) : (s.modOp c i f).cores = s.cores := rfl
@[simp] theorem State.modOp_parts (c i : Nat) (f : EngOp → EngOp) : (s.modOp c i f).parts = s.parts := rfl
@[simp] theorem State.modOp_warps (c i : Nat) (f : EngOp → EngOp) : (s.modOp c i f).warps = s.warps := rfl
@[simp] theorem State.modOp_groups (c i : Nat) (f : EngOp → EngOp) : (s.modOp c i f).groups = s.groups := rfl
@[simp] theorem State.modOp_barDue (c i : Nat) (f : EngOp → EngOp) : (s.modOp c i f).barDue = s.barDue := rfl
@[simp] theorem State.modOp_ctxs (c i : Nat) (f : EngOp → EngOp) : (s.modOp c i f).ctxs = s.ctxs := rfl
@[simp] theorem State.modOp_queues (c i : Nat) (f : EngOp → EngOp) : (s.modOp c i f).queues = s.queues := rfl
@[simp] theorem State.modOp_launches (c i : Nat) (f : EngOp → EngOp) : (s.modOp c i f).launches = s.launches := rfl
@[simp] theorem State.modOp_blocks (c i : Nat) (f : EngOp → EngOp) : (s.modOp c i f).blocks = s.blocks := rfl
@[simp] theorem State.modOp_saved (c i : Nat) (f : EngOp → EngOp) : (s.modOp c i f).saved = s.saved := rfl
@[simp] theorem State.modOp_hbm (c i : Nat) (f : EngOp → EngOp) : (s.modOp c i f).hbm = s.hbm := rfl
@[simp] theorem State.modOp_lastQueue (c i : Nat) (f : EngOp → EngOp) : (s.modOp c i f).lastQueue = s.lastQueue := rfl
@[simp] theorem State.modOp_lastCore (c i : Nat) (f : EngOp → EngOp) : (s.modOp c i f).lastCore = s.lastCore := rfl
@[simp] theorem State.modOp_bar0 (c i : Nat) (f : EngOp → EngOp) : (s.modOp c i f).bar0 = s.bar0 := rfl
@[simp] theorem State.modOp_tenants (c i : Nat) (f : EngOp → EngOp) : (s.modOp c i f).tenants = s.tenants := rfl
@[simp] theorem State.modOp_ports (c i : Nat) (f : EngOp → EngOp) : (s.modOp c i f).ports = s.ports := rfl
@[simp] theorem State.modOp_reports (c i : Nat) (f : EngOp → EngOp) : (s.modOp c i f).reports = s.reports := rfl
@[simp] theorem State.modOp_replies (c i : Nat) (f : EngOp → EngOp) : (s.modOp c i f).replies = s.replies := rfl
@[simp] theorem State.modOp_msix (c i : Nat) (f : EngOp → EngOp) : (s.modOp c i f).msix = s.msix := rfl
@[simp] theorem State.modOp_kilnLog (c i : Nat) (f : EngOp → EngOp) : (s.modOp c i f).kilnLog = s.kilnLog := rfl
@[simp] theorem State.modOp_flashLog (c i : Nat) (f : EngOp → EngOp) : (s.modOp c i f).flashLog = s.flashLog := rfl
@[simp] theorem State.modOp_droopMax (c i : Nat) (f : EngOp → EngOp) : (s.modOp c i f).droopMax = s.droopMax := rfl
@[simp] theorem State.modOp_fwBank (c i : Nat) (f : EngOp → EngOp) : (s.modOp c i f).fwBank = s.fwBank := rfl
@[simp] theorem State.modOp_fwActive (c i : Nat) (f : EngOp → EngOp) : (s.modOp c i f).fwActive = s.fwActive := rfl
@[simp] theorem State.modOp_fwNext (c i : Nat) (f : EngOp → EngOp) : (s.modOp c i f).fwNext = s.fwNext := rfl
@[simp] theorem State.modOp_cxlDown (c i : Nat) (f : EngOp → EngOp) : (s.modOp c i f).cxlDown = s.cxlDown := rfl
@[simp] theorem State.modOp_cxlPoison (c i : Nat) (f : EngOp → EngOp) : (s.modOp c i f).cxlPoison = s.cxlPoison := rfl
@[simp] theorem State.modOp_lostRanks (c i : Nat) (f : EngOp → EngOp) : (s.modOp c i f).lostRanks = s.lostRanks := rfl

/-! ### modAccess -/

@[simp] theorem State.modAccess_clk (i : Nat) (f : Access → Access) : (s.modAccess i f).clk = s.clk := rfl
@[simp] theorem State.modAccess_issueQ (i : Nat) (f : Access → Access) : (s.modAccess i f).issueQ = s.issueQ := rfl
@[simp] theorem State.modAccess_agenda (i : Nat) (f : Access → Access) : (s.modAccess i f).agenda = s.agenda := rfl
@[simp] theorem State.modAccess_nextId (i : Nat) (f : Access → Access) : (s.modAccess i f).nextId = s.nextId := rfl
@[simp] theorem State.modAccess_free (i : Nat) (f : Access → Access) : (s.modAccess i f).free = s.free := rfl
@[simp] theorem State.modAccess_mem (i : Nat) (f : Access → Access) : (s.modAccess i f).mem = s.mem := rfl
@[simp] theorem State.modAccess_dram (i : Nat) (f : Access → Access) : (s.modAccess i f).dram = s.dram := rfl
@[simp] theorem State.modAccess_dramTags (i : Nat) (f : Access → Access) : (s.modAccess i f).dramTags = s.dramTags := rfl
@[simp] theorem State.modAccess_writeBacks (i : Nat) (f : Access → Access) : (s.modAccess i f).writeBacks = s.writeBacks := rfl
@[simp] theorem State.modAccess_keyTags (i : Nat) (f : Access → Access) : (s.modAccess i f).keyTags = s.keyTags := rfl
@[simp] theorem State.modAccess_keyGens (i : Nat) (f : Access → Access) : (s.modAccess i f).keyGens = s.keyGens := rfl
@[simp] theorem State.modAccess_tlb (i : Nat) (f : Access → Access) : (s.modAccess i f).tlb = s.tlb := rfl
@[simp] theorem State.modAccess_walks (i : Nat) (f : Access → Access) : (s.modAccess i f).walks = s.walks := rfl
@[simp] theorem State.modAccess_lineOwners (i : Nat) (f : Access → Access) : (s.modAccess i f).lineOwners = s.lineOwners := rfl
@[simp] theorem State.modAccess_scrambled (i : Nat) (f : Access → Access) : (s.modAccess i f).scrambled = s.scrambled := rfl
@[simp] theorem State.modAccess_tentWords (i : Nat) (f : Access → Access) : (s.modAccess i f).tentWords = s.tentWords := rfl
@[simp] theorem State.modAccess_releases (i : Nat) (f : Access → Access) : (s.modAccess i f).releases = s.releases := rfl
@[simp] theorem State.modAccess_accesses (i : Nat) (f : Access → Access) : (s.modAccess i f).accesses = mapIf (fun a => a.id == i) f s.accesses := rfl
@[simp] theorem State.modAccess_maths (i : Nat) (f : Access → Access) : (s.modAccess i f).maths = s.maths := rfl
@[simp] theorem State.modAccess_ops (i : Nat) (f : Access → Access) : (s.modAccess i f).ops = s.ops := rfl
@[simp] theorem State.modAccess_cores (i : Nat) (f : Access → Access) : (s.modAccess i f).cores = s.cores := rfl
@[simp] theorem State.modAccess_parts (i : Nat) (f : Access → Access) : (s.modAccess i f).parts = s.parts := rfl
@[simp] theorem State.modAccess_warps (i : Nat) (f : Access → Access) : (s.modAccess i f).warps = s.warps := rfl
@[simp] theorem State.modAccess_groups (i : Nat) (f : Access → Access) : (s.modAccess i f).groups = s.groups := rfl
@[simp] theorem State.modAccess_barDue (i : Nat) (f : Access → Access) : (s.modAccess i f).barDue = s.barDue := rfl
@[simp] theorem State.modAccess_ctxs (i : Nat) (f : Access → Access) : (s.modAccess i f).ctxs = s.ctxs := rfl
@[simp] theorem State.modAccess_queues (i : Nat) (f : Access → Access) : (s.modAccess i f).queues = s.queues := rfl
@[simp] theorem State.modAccess_launches (i : Nat) (f : Access → Access) : (s.modAccess i f).launches = s.launches := rfl
@[simp] theorem State.modAccess_blocks (i : Nat) (f : Access → Access) : (s.modAccess i f).blocks = s.blocks := rfl
@[simp] theorem State.modAccess_saved (i : Nat) (f : Access → Access) : (s.modAccess i f).saved = s.saved := rfl
@[simp] theorem State.modAccess_hbm (i : Nat) (f : Access → Access) : (s.modAccess i f).hbm = s.hbm := rfl
@[simp] theorem State.modAccess_lastQueue (i : Nat) (f : Access → Access) : (s.modAccess i f).lastQueue = s.lastQueue := rfl
@[simp] theorem State.modAccess_lastCore (i : Nat) (f : Access → Access) : (s.modAccess i f).lastCore = s.lastCore := rfl
@[simp] theorem State.modAccess_bar0 (i : Nat) (f : Access → Access) : (s.modAccess i f).bar0 = s.bar0 := rfl
@[simp] theorem State.modAccess_tenants (i : Nat) (f : Access → Access) : (s.modAccess i f).tenants = s.tenants := rfl
@[simp] theorem State.modAccess_ports (i : Nat) (f : Access → Access) : (s.modAccess i f).ports = s.ports := rfl
@[simp] theorem State.modAccess_reports (i : Nat) (f : Access → Access) : (s.modAccess i f).reports = s.reports := rfl
@[simp] theorem State.modAccess_replies (i : Nat) (f : Access → Access) : (s.modAccess i f).replies = s.replies := rfl
@[simp] theorem State.modAccess_msix (i : Nat) (f : Access → Access) : (s.modAccess i f).msix = s.msix := rfl
@[simp] theorem State.modAccess_kilnLog (i : Nat) (f : Access → Access) : (s.modAccess i f).kilnLog = s.kilnLog := rfl
@[simp] theorem State.modAccess_flashLog (i : Nat) (f : Access → Access) : (s.modAccess i f).flashLog = s.flashLog := rfl
@[simp] theorem State.modAccess_droopMax (i : Nat) (f : Access → Access) : (s.modAccess i f).droopMax = s.droopMax := rfl
@[simp] theorem State.modAccess_fwBank (i : Nat) (f : Access → Access) : (s.modAccess i f).fwBank = s.fwBank := rfl
@[simp] theorem State.modAccess_fwActive (i : Nat) (f : Access → Access) : (s.modAccess i f).fwActive = s.fwActive := rfl
@[simp] theorem State.modAccess_fwNext (i : Nat) (f : Access → Access) : (s.modAccess i f).fwNext = s.fwNext := rfl
@[simp] theorem State.modAccess_cxlDown (i : Nat) (f : Access → Access) : (s.modAccess i f).cxlDown = s.cxlDown := rfl
@[simp] theorem State.modAccess_cxlPoison (i : Nat) (f : Access → Access) : (s.modAccess i f).cxlPoison = s.cxlPoison := rfl
@[simp] theorem State.modAccess_lostRanks (i : Nat) (f : Access → Access) : (s.modAccess i f).lostRanks = s.lostRanks := rfl

/-! ### modLaunch -/

@[simp] theorem State.modLaunch_clk (i : Nat) (f : Launch → Launch) : (s.modLaunch i f).clk = s.clk := rfl
@[simp] theorem State.modLaunch_issueQ (i : Nat) (f : Launch → Launch) : (s.modLaunch i f).issueQ = s.issueQ := rfl
@[simp] theorem State.modLaunch_agenda (i : Nat) (f : Launch → Launch) : (s.modLaunch i f).agenda = s.agenda := rfl
@[simp] theorem State.modLaunch_nextId (i : Nat) (f : Launch → Launch) : (s.modLaunch i f).nextId = s.nextId := rfl
@[simp] theorem State.modLaunch_free (i : Nat) (f : Launch → Launch) : (s.modLaunch i f).free = s.free := rfl
@[simp] theorem State.modLaunch_mem (i : Nat) (f : Launch → Launch) : (s.modLaunch i f).mem = s.mem := rfl
@[simp] theorem State.modLaunch_dram (i : Nat) (f : Launch → Launch) : (s.modLaunch i f).dram = s.dram := rfl
@[simp] theorem State.modLaunch_dramTags (i : Nat) (f : Launch → Launch) : (s.modLaunch i f).dramTags = s.dramTags := rfl
@[simp] theorem State.modLaunch_writeBacks (i : Nat) (f : Launch → Launch) : (s.modLaunch i f).writeBacks = s.writeBacks := rfl
@[simp] theorem State.modLaunch_keyTags (i : Nat) (f : Launch → Launch) : (s.modLaunch i f).keyTags = s.keyTags := rfl
@[simp] theorem State.modLaunch_keyGens (i : Nat) (f : Launch → Launch) : (s.modLaunch i f).keyGens = s.keyGens := rfl
@[simp] theorem State.modLaunch_tlb (i : Nat) (f : Launch → Launch) : (s.modLaunch i f).tlb = s.tlb := rfl
@[simp] theorem State.modLaunch_walks (i : Nat) (f : Launch → Launch) : (s.modLaunch i f).walks = s.walks := rfl
@[simp] theorem State.modLaunch_lineOwners (i : Nat) (f : Launch → Launch) : (s.modLaunch i f).lineOwners = s.lineOwners := rfl
@[simp] theorem State.modLaunch_scrambled (i : Nat) (f : Launch → Launch) : (s.modLaunch i f).scrambled = s.scrambled := rfl
@[simp] theorem State.modLaunch_tentWords (i : Nat) (f : Launch → Launch) : (s.modLaunch i f).tentWords = s.tentWords := rfl
@[simp] theorem State.modLaunch_releases (i : Nat) (f : Launch → Launch) : (s.modLaunch i f).releases = s.releases := rfl
@[simp] theorem State.modLaunch_accesses (i : Nat) (f : Launch → Launch) : (s.modLaunch i f).accesses = s.accesses := rfl
@[simp] theorem State.modLaunch_maths (i : Nat) (f : Launch → Launch) : (s.modLaunch i f).maths = s.maths := rfl
@[simp] theorem State.modLaunch_ops (i : Nat) (f : Launch → Launch) : (s.modLaunch i f).ops = s.ops := rfl
@[simp] theorem State.modLaunch_cores (i : Nat) (f : Launch → Launch) : (s.modLaunch i f).cores = s.cores := rfl
@[simp] theorem State.modLaunch_parts (i : Nat) (f : Launch → Launch) : (s.modLaunch i f).parts = s.parts := rfl
@[simp] theorem State.modLaunch_warps (i : Nat) (f : Launch → Launch) : (s.modLaunch i f).warps = s.warps := rfl
@[simp] theorem State.modLaunch_groups (i : Nat) (f : Launch → Launch) : (s.modLaunch i f).groups = s.groups := rfl
@[simp] theorem State.modLaunch_barDue (i : Nat) (f : Launch → Launch) : (s.modLaunch i f).barDue = s.barDue := rfl
@[simp] theorem State.modLaunch_ctxs (i : Nat) (f : Launch → Launch) : (s.modLaunch i f).ctxs = s.ctxs := rfl
@[simp] theorem State.modLaunch_queues (i : Nat) (f : Launch → Launch) : (s.modLaunch i f).queues = s.queues := rfl
@[simp] theorem State.modLaunch_launches (i : Nat) (f : Launch → Launch) : (s.modLaunch i f).launches = mapIf (fun x => x.id == i) f s.launches := rfl
@[simp] theorem State.modLaunch_blocks (i : Nat) (f : Launch → Launch) : (s.modLaunch i f).blocks = s.blocks := rfl
@[simp] theorem State.modLaunch_saved (i : Nat) (f : Launch → Launch) : (s.modLaunch i f).saved = s.saved := rfl
@[simp] theorem State.modLaunch_hbm (i : Nat) (f : Launch → Launch) : (s.modLaunch i f).hbm = s.hbm := rfl
@[simp] theorem State.modLaunch_lastQueue (i : Nat) (f : Launch → Launch) : (s.modLaunch i f).lastQueue = s.lastQueue := rfl
@[simp] theorem State.modLaunch_lastCore (i : Nat) (f : Launch → Launch) : (s.modLaunch i f).lastCore = s.lastCore := rfl
@[simp] theorem State.modLaunch_bar0 (i : Nat) (f : Launch → Launch) : (s.modLaunch i f).bar0 = s.bar0 := rfl
@[simp] theorem State.modLaunch_tenants (i : Nat) (f : Launch → Launch) : (s.modLaunch i f).tenants = s.tenants := rfl
@[simp] theorem State.modLaunch_ports (i : Nat) (f : Launch → Launch) : (s.modLaunch i f).ports = s.ports := rfl
@[simp] theorem State.modLaunch_reports (i : Nat) (f : Launch → Launch) : (s.modLaunch i f).reports = s.reports := rfl
@[simp] theorem State.modLaunch_replies (i : Nat) (f : Launch → Launch) : (s.modLaunch i f).replies = s.replies := rfl
@[simp] theorem State.modLaunch_msix (i : Nat) (f : Launch → Launch) : (s.modLaunch i f).msix = s.msix := rfl
@[simp] theorem State.modLaunch_kilnLog (i : Nat) (f : Launch → Launch) : (s.modLaunch i f).kilnLog = s.kilnLog := rfl
@[simp] theorem State.modLaunch_flashLog (i : Nat) (f : Launch → Launch) : (s.modLaunch i f).flashLog = s.flashLog := rfl
@[simp] theorem State.modLaunch_droopMax (i : Nat) (f : Launch → Launch) : (s.modLaunch i f).droopMax = s.droopMax := rfl
@[simp] theorem State.modLaunch_fwBank (i : Nat) (f : Launch → Launch) : (s.modLaunch i f).fwBank = s.fwBank := rfl
@[simp] theorem State.modLaunch_fwActive (i : Nat) (f : Launch → Launch) : (s.modLaunch i f).fwActive = s.fwActive := rfl
@[simp] theorem State.modLaunch_fwNext (i : Nat) (f : Launch → Launch) : (s.modLaunch i f).fwNext = s.fwNext := rfl
@[simp] theorem State.modLaunch_cxlDown (i : Nat) (f : Launch → Launch) : (s.modLaunch i f).cxlDown = s.cxlDown := rfl
@[simp] theorem State.modLaunch_cxlPoison (i : Nat) (f : Launch → Launch) : (s.modLaunch i f).cxlPoison = s.cxlPoison := rfl
@[simp] theorem State.modLaunch_lostRanks (i : Nat) (f : Launch → Launch) : (s.modLaunch i f).lostRanks = s.lostRanks := rfl

/-! ### modBlock -/

@[simp] theorem State.modBlock_clk (i : Nat) (f : Block → Block) : (s.modBlock i f).clk = s.clk := rfl
@[simp] theorem State.modBlock_issueQ (i : Nat) (f : Block → Block) : (s.modBlock i f).issueQ = s.issueQ := rfl
@[simp] theorem State.modBlock_agenda (i : Nat) (f : Block → Block) : (s.modBlock i f).agenda = s.agenda := rfl
@[simp] theorem State.modBlock_nextId (i : Nat) (f : Block → Block) : (s.modBlock i f).nextId = s.nextId := rfl
@[simp] theorem State.modBlock_free (i : Nat) (f : Block → Block) : (s.modBlock i f).free = s.free := rfl
@[simp] theorem State.modBlock_mem (i : Nat) (f : Block → Block) : (s.modBlock i f).mem = s.mem := rfl
@[simp] theorem State.modBlock_dram (i : Nat) (f : Block → Block) : (s.modBlock i f).dram = s.dram := rfl
@[simp] theorem State.modBlock_dramTags (i : Nat) (f : Block → Block) : (s.modBlock i f).dramTags = s.dramTags := rfl
@[simp] theorem State.modBlock_writeBacks (i : Nat) (f : Block → Block) : (s.modBlock i f).writeBacks = s.writeBacks := rfl
@[simp] theorem State.modBlock_keyTags (i : Nat) (f : Block → Block) : (s.modBlock i f).keyTags = s.keyTags := rfl
@[simp] theorem State.modBlock_keyGens (i : Nat) (f : Block → Block) : (s.modBlock i f).keyGens = s.keyGens := rfl
@[simp] theorem State.modBlock_tlb (i : Nat) (f : Block → Block) : (s.modBlock i f).tlb = s.tlb := rfl
@[simp] theorem State.modBlock_walks (i : Nat) (f : Block → Block) : (s.modBlock i f).walks = s.walks := rfl
@[simp] theorem State.modBlock_lineOwners (i : Nat) (f : Block → Block) : (s.modBlock i f).lineOwners = s.lineOwners := rfl
@[simp] theorem State.modBlock_scrambled (i : Nat) (f : Block → Block) : (s.modBlock i f).scrambled = s.scrambled := rfl
@[simp] theorem State.modBlock_tentWords (i : Nat) (f : Block → Block) : (s.modBlock i f).tentWords = s.tentWords := rfl
@[simp] theorem State.modBlock_releases (i : Nat) (f : Block → Block) : (s.modBlock i f).releases = s.releases := rfl
@[simp] theorem State.modBlock_accesses (i : Nat) (f : Block → Block) : (s.modBlock i f).accesses = s.accesses := rfl
@[simp] theorem State.modBlock_maths (i : Nat) (f : Block → Block) : (s.modBlock i f).maths = s.maths := rfl
@[simp] theorem State.modBlock_ops (i : Nat) (f : Block → Block) : (s.modBlock i f).ops = s.ops := rfl
@[simp] theorem State.modBlock_cores (i : Nat) (f : Block → Block) : (s.modBlock i f).cores = s.cores := rfl
@[simp] theorem State.modBlock_parts (i : Nat) (f : Block → Block) : (s.modBlock i f).parts = s.parts := rfl
@[simp] theorem State.modBlock_warps (i : Nat) (f : Block → Block) : (s.modBlock i f).warps = s.warps := rfl
@[simp] theorem State.modBlock_groups (i : Nat) (f : Block → Block) : (s.modBlock i f).groups = s.groups := rfl
@[simp] theorem State.modBlock_barDue (i : Nat) (f : Block → Block) : (s.modBlock i f).barDue = s.barDue := rfl
@[simp] theorem State.modBlock_ctxs (i : Nat) (f : Block → Block) : (s.modBlock i f).ctxs = s.ctxs := rfl
@[simp] theorem State.modBlock_queues (i : Nat) (f : Block → Block) : (s.modBlock i f).queues = s.queues := rfl
@[simp] theorem State.modBlock_launches (i : Nat) (f : Block → Block) : (s.modBlock i f).launches = s.launches := rfl
@[simp] theorem State.modBlock_blocks (i : Nat) (f : Block → Block) : (s.modBlock i f).blocks = mapIf (fun x => x.id == i) f s.blocks := rfl
@[simp] theorem State.modBlock_saved (i : Nat) (f : Block → Block) : (s.modBlock i f).saved = s.saved := rfl
@[simp] theorem State.modBlock_hbm (i : Nat) (f : Block → Block) : (s.modBlock i f).hbm = s.hbm := rfl
@[simp] theorem State.modBlock_lastQueue (i : Nat) (f : Block → Block) : (s.modBlock i f).lastQueue = s.lastQueue := rfl
@[simp] theorem State.modBlock_lastCore (i : Nat) (f : Block → Block) : (s.modBlock i f).lastCore = s.lastCore := rfl
@[simp] theorem State.modBlock_bar0 (i : Nat) (f : Block → Block) : (s.modBlock i f).bar0 = s.bar0 := rfl
@[simp] theorem State.modBlock_tenants (i : Nat) (f : Block → Block) : (s.modBlock i f).tenants = s.tenants := rfl
@[simp] theorem State.modBlock_ports (i : Nat) (f : Block → Block) : (s.modBlock i f).ports = s.ports := rfl
@[simp] theorem State.modBlock_reports (i : Nat) (f : Block → Block) : (s.modBlock i f).reports = s.reports := rfl
@[simp] theorem State.modBlock_replies (i : Nat) (f : Block → Block) : (s.modBlock i f).replies = s.replies := rfl
@[simp] theorem State.modBlock_msix (i : Nat) (f : Block → Block) : (s.modBlock i f).msix = s.msix := rfl
@[simp] theorem State.modBlock_kilnLog (i : Nat) (f : Block → Block) : (s.modBlock i f).kilnLog = s.kilnLog := rfl
@[simp] theorem State.modBlock_flashLog (i : Nat) (f : Block → Block) : (s.modBlock i f).flashLog = s.flashLog := rfl
@[simp] theorem State.modBlock_droopMax (i : Nat) (f : Block → Block) : (s.modBlock i f).droopMax = s.droopMax := rfl
@[simp] theorem State.modBlock_fwBank (i : Nat) (f : Block → Block) : (s.modBlock i f).fwBank = s.fwBank := rfl
@[simp] theorem State.modBlock_fwActive (i : Nat) (f : Block → Block) : (s.modBlock i f).fwActive = s.fwActive := rfl
@[simp] theorem State.modBlock_fwNext (i : Nat) (f : Block → Block) : (s.modBlock i f).fwNext = s.fwNext := rfl
@[simp] theorem State.modBlock_cxlDown (i : Nat) (f : Block → Block) : (s.modBlock i f).cxlDown = s.cxlDown := rfl
@[simp] theorem State.modBlock_cxlPoison (i : Nat) (f : Block → Block) : (s.modBlock i f).cxlPoison = s.cxlPoison := rfl
@[simp] theorem State.modBlock_lostRanks (i : Nat) (f : Block → Block) : (s.modBlock i f).lostRanks = s.lostRanks := rfl

/-! ### modGroup -/

@[simp] theorem State.modGroup_clk (i : Nat) (f : HelperGroup → HelperGroup) : (s.modGroup i f).clk = s.clk := rfl
@[simp] theorem State.modGroup_issueQ (i : Nat) (f : HelperGroup → HelperGroup) : (s.modGroup i f).issueQ = s.issueQ := rfl
@[simp] theorem State.modGroup_agenda (i : Nat) (f : HelperGroup → HelperGroup) : (s.modGroup i f).agenda = s.agenda := rfl
@[simp] theorem State.modGroup_nextId (i : Nat) (f : HelperGroup → HelperGroup) : (s.modGroup i f).nextId = s.nextId := rfl
@[simp] theorem State.modGroup_free (i : Nat) (f : HelperGroup → HelperGroup) : (s.modGroup i f).free = s.free := rfl
@[simp] theorem State.modGroup_mem (i : Nat) (f : HelperGroup → HelperGroup) : (s.modGroup i f).mem = s.mem := rfl
@[simp] theorem State.modGroup_dram (i : Nat) (f : HelperGroup → HelperGroup) : (s.modGroup i f).dram = s.dram := rfl
@[simp] theorem State.modGroup_dramTags (i : Nat) (f : HelperGroup → HelperGroup) : (s.modGroup i f).dramTags = s.dramTags := rfl
@[simp] theorem State.modGroup_writeBacks (i : Nat) (f : HelperGroup → HelperGroup) : (s.modGroup i f).writeBacks = s.writeBacks := rfl
@[simp] theorem State.modGroup_keyTags (i : Nat) (f : HelperGroup → HelperGroup) : (s.modGroup i f).keyTags = s.keyTags := rfl
@[simp] theorem State.modGroup_keyGens (i : Nat) (f : HelperGroup → HelperGroup) : (s.modGroup i f).keyGens = s.keyGens := rfl
@[simp] theorem State.modGroup_tlb (i : Nat) (f : HelperGroup → HelperGroup) : (s.modGroup i f).tlb = s.tlb := rfl
@[simp] theorem State.modGroup_walks (i : Nat) (f : HelperGroup → HelperGroup) : (s.modGroup i f).walks = s.walks := rfl
@[simp] theorem State.modGroup_lineOwners (i : Nat) (f : HelperGroup → HelperGroup) : (s.modGroup i f).lineOwners = s.lineOwners := rfl
@[simp] theorem State.modGroup_scrambled (i : Nat) (f : HelperGroup → HelperGroup) : (s.modGroup i f).scrambled = s.scrambled := rfl
@[simp] theorem State.modGroup_tentWords (i : Nat) (f : HelperGroup → HelperGroup) : (s.modGroup i f).tentWords = s.tentWords := rfl
@[simp] theorem State.modGroup_releases (i : Nat) (f : HelperGroup → HelperGroup) : (s.modGroup i f).releases = s.releases := rfl
@[simp] theorem State.modGroup_accesses (i : Nat) (f : HelperGroup → HelperGroup) : (s.modGroup i f).accesses = s.accesses := rfl
@[simp] theorem State.modGroup_maths (i : Nat) (f : HelperGroup → HelperGroup) : (s.modGroup i f).maths = s.maths := rfl
@[simp] theorem State.modGroup_ops (i : Nat) (f : HelperGroup → HelperGroup) : (s.modGroup i f).ops = s.ops := rfl
@[simp] theorem State.modGroup_cores (i : Nat) (f : HelperGroup → HelperGroup) : (s.modGroup i f).cores = s.cores := rfl
@[simp] theorem State.modGroup_parts (i : Nat) (f : HelperGroup → HelperGroup) : (s.modGroup i f).parts = s.parts := rfl
@[simp] theorem State.modGroup_warps (i : Nat) (f : HelperGroup → HelperGroup) : (s.modGroup i f).warps = s.warps := rfl
@[simp] theorem State.modGroup_groups (i : Nat) (f : HelperGroup → HelperGroup) : (s.modGroup i f).groups = mapIf (fun g => g.id == i) f s.groups := rfl
@[simp] theorem State.modGroup_barDue (i : Nat) (f : HelperGroup → HelperGroup) : (s.modGroup i f).barDue = s.barDue := rfl
@[simp] theorem State.modGroup_ctxs (i : Nat) (f : HelperGroup → HelperGroup) : (s.modGroup i f).ctxs = s.ctxs := rfl
@[simp] theorem State.modGroup_queues (i : Nat) (f : HelperGroup → HelperGroup) : (s.modGroup i f).queues = s.queues := rfl
@[simp] theorem State.modGroup_launches (i : Nat) (f : HelperGroup → HelperGroup) : (s.modGroup i f).launches = s.launches := rfl
@[simp] theorem State.modGroup_blocks (i : Nat) (f : HelperGroup → HelperGroup) : (s.modGroup i f).blocks = s.blocks := rfl
@[simp] theorem State.modGroup_saved (i : Nat) (f : HelperGroup → HelperGroup) : (s.modGroup i f).saved = s.saved := rfl
@[simp] theorem State.modGroup_hbm (i : Nat) (f : HelperGroup → HelperGroup) : (s.modGroup i f).hbm = s.hbm := rfl
@[simp] theorem State.modGroup_lastQueue (i : Nat) (f : HelperGroup → HelperGroup) : (s.modGroup i f).lastQueue = s.lastQueue := rfl
@[simp] theorem State.modGroup_lastCore (i : Nat) (f : HelperGroup → HelperGroup) : (s.modGroup i f).lastCore = s.lastCore := rfl
@[simp] theorem State.modGroup_bar0 (i : Nat) (f : HelperGroup → HelperGroup) : (s.modGroup i f).bar0 = s.bar0 := rfl
@[simp] theorem State.modGroup_tenants (i : Nat) (f : HelperGroup → HelperGroup) : (s.modGroup i f).tenants = s.tenants := rfl
@[simp] theorem State.modGroup_ports (i : Nat) (f : HelperGroup → HelperGroup) : (s.modGroup i f).ports = s.ports := rfl
@[simp] theorem State.modGroup_reports (i : Nat) (f : HelperGroup → HelperGroup) : (s.modGroup i f).reports = s.reports := rfl
@[simp] theorem State.modGroup_replies (i : Nat) (f : HelperGroup → HelperGroup) : (s.modGroup i f).replies = s.replies := rfl
@[simp] theorem State.modGroup_msix (i : Nat) (f : HelperGroup → HelperGroup) : (s.modGroup i f).msix = s.msix := rfl
@[simp] theorem State.modGroup_kilnLog (i : Nat) (f : HelperGroup → HelperGroup) : (s.modGroup i f).kilnLog = s.kilnLog := rfl
@[simp] theorem State.modGroup_flashLog (i : Nat) (f : HelperGroup → HelperGroup) : (s.modGroup i f).flashLog = s.flashLog := rfl
@[simp] theorem State.modGroup_droopMax (i : Nat) (f : HelperGroup → HelperGroup) : (s.modGroup i f).droopMax = s.droopMax := rfl
@[simp] theorem State.modGroup_fwBank (i : Nat) (f : HelperGroup → HelperGroup) : (s.modGroup i f).fwBank = s.fwBank := rfl
@[simp] theorem State.modGroup_fwActive (i : Nat) (f : HelperGroup → HelperGroup) : (s.modGroup i f).fwActive = s.fwActive := rfl
@[simp] theorem State.modGroup_fwNext (i : Nat) (f : HelperGroup → HelperGroup) : (s.modGroup i f).fwNext = s.fwNext := rfl
@[simp] theorem State.modGroup_cxlDown (i : Nat) (f : HelperGroup → HelperGroup) : (s.modGroup i f).cxlDown = s.cxlDown := rfl
@[simp] theorem State.modGroup_cxlPoison (i : Nat) (f : HelperGroup → HelperGroup) : (s.modGroup i f).cxlPoison = s.cxlPoison := rfl
@[simp] theorem State.modGroup_lostRanks (i : Nat) (f : HelperGroup → HelperGroup) : (s.modGroup i f).lostRanks = s.lostRanks := rfl

/-! ### setBar0 -/

@[simp] theorem State.setBar0_clk (o : Nat) (v : W64) : (s.setBar0 o v).clk = s.clk := rfl
@[simp] theorem State.setBar0_issueQ (o : Nat) (v : W64) : (s.setBar0 o v).issueQ = s.issueQ := rfl
@[simp] theorem State.setBar0_agenda (o : Nat) (v : W64) : (s.setBar0 o v).agenda = s.agenda := rfl
@[simp] theorem State.setBar0_nextId (o : Nat) (v : W64) : (s.setBar0 o v).nextId = s.nextId := rfl
@[simp] theorem State.setBar0_free (o : Nat) (v : W64) : (s.setBar0 o v).free = s.free := rfl
@[simp] theorem State.setBar0_mem (o : Nat) (v : W64) : (s.setBar0 o v).mem = s.mem := rfl
@[simp] theorem State.setBar0_dram (o : Nat) (v : W64) : (s.setBar0 o v).dram = s.dram := rfl
@[simp] theorem State.setBar0_dramTags (o : Nat) (v : W64) : (s.setBar0 o v).dramTags = s.dramTags := rfl
@[simp] theorem State.setBar0_writeBacks (o : Nat) (v : W64) : (s.setBar0 o v).writeBacks = s.writeBacks := rfl
@[simp] theorem State.setBar0_keyTags (o : Nat) (v : W64) : (s.setBar0 o v).keyTags = s.keyTags := rfl
@[simp] theorem State.setBar0_keyGens (o : Nat) (v : W64) : (s.setBar0 o v).keyGens = s.keyGens := rfl
@[simp] theorem State.setBar0_tlb (o : Nat) (v : W64) : (s.setBar0 o v).tlb = s.tlb := rfl
@[simp] theorem State.setBar0_walks (o : Nat) (v : W64) : (s.setBar0 o v).walks = s.walks := rfl
@[simp] theorem State.setBar0_lineOwners (o : Nat) (v : W64) : (s.setBar0 o v).lineOwners = s.lineOwners := rfl
@[simp] theorem State.setBar0_scrambled (o : Nat) (v : W64) : (s.setBar0 o v).scrambled = s.scrambled := rfl
@[simp] theorem State.setBar0_tentWords (o : Nat) (v : W64) : (s.setBar0 o v).tentWords = s.tentWords := rfl
@[simp] theorem State.setBar0_releases (o : Nat) (v : W64) : (s.setBar0 o v).releases = s.releases := rfl
@[simp] theorem State.setBar0_accesses (o : Nat) (v : W64) : (s.setBar0 o v).accesses = s.accesses := rfl
@[simp] theorem State.setBar0_maths (o : Nat) (v : W64) : (s.setBar0 o v).maths = s.maths := rfl
@[simp] theorem State.setBar0_ops (o : Nat) (v : W64) : (s.setBar0 o v).ops = s.ops := rfl
@[simp] theorem State.setBar0_cores (o : Nat) (v : W64) : (s.setBar0 o v).cores = s.cores := rfl
@[simp] theorem State.setBar0_parts (o : Nat) (v : W64) : (s.setBar0 o v).parts = s.parts := rfl
@[simp] theorem State.setBar0_warps (o : Nat) (v : W64) : (s.setBar0 o v).warps = s.warps := rfl
@[simp] theorem State.setBar0_groups (o : Nat) (v : W64) : (s.setBar0 o v).groups = s.groups := rfl
@[simp] theorem State.setBar0_barDue (o : Nat) (v : W64) : (s.setBar0 o v).barDue = s.barDue := rfl
@[simp] theorem State.setBar0_ctxs (o : Nat) (v : W64) : (s.setBar0 o v).ctxs = s.ctxs := rfl
@[simp] theorem State.setBar0_queues (o : Nat) (v : W64) : (s.setBar0 o v).queues = s.queues := rfl
@[simp] theorem State.setBar0_launches (o : Nat) (v : W64) : (s.setBar0 o v).launches = s.launches := rfl
@[simp] theorem State.setBar0_blocks (o : Nat) (v : W64) : (s.setBar0 o v).blocks = s.blocks := rfl
@[simp] theorem State.setBar0_saved (o : Nat) (v : W64) : (s.setBar0 o v).saved = s.saved := rfl
@[simp] theorem State.setBar0_hbm (o : Nat) (v : W64) : (s.setBar0 o v).hbm = s.hbm := rfl
@[simp] theorem State.setBar0_lastQueue (o : Nat) (v : W64) : (s.setBar0 o v).lastQueue = s.lastQueue := rfl
@[simp] theorem State.setBar0_lastCore (o : Nat) (v : W64) : (s.setBar0 o v).lastCore = s.lastCore := rfl
@[simp] theorem State.setBar0_bar0 (o : Nat) (v : W64) : (s.setBar0 o v).bar0 = smSet s.bar0 o v := rfl
@[simp] theorem State.setBar0_tenants (o : Nat) (v : W64) : (s.setBar0 o v).tenants = s.tenants := rfl
@[simp] theorem State.setBar0_ports (o : Nat) (v : W64) : (s.setBar0 o v).ports = s.ports := rfl
@[simp] theorem State.setBar0_reports (o : Nat) (v : W64) : (s.setBar0 o v).reports = s.reports := rfl
@[simp] theorem State.setBar0_replies (o : Nat) (v : W64) : (s.setBar0 o v).replies = s.replies := rfl
@[simp] theorem State.setBar0_msix (o : Nat) (v : W64) : (s.setBar0 o v).msix = s.msix := rfl
@[simp] theorem State.setBar0_kilnLog (o : Nat) (v : W64) : (s.setBar0 o v).kilnLog = s.kilnLog := rfl
@[simp] theorem State.setBar0_flashLog (o : Nat) (v : W64) : (s.setBar0 o v).flashLog = s.flashLog := rfl
@[simp] theorem State.setBar0_droopMax (o : Nat) (v : W64) : (s.setBar0 o v).droopMax = s.droopMax := rfl
@[simp] theorem State.setBar0_fwBank (o : Nat) (v : W64) : (s.setBar0 o v).fwBank = s.fwBank := rfl
@[simp] theorem State.setBar0_fwActive (o : Nat) (v : W64) : (s.setBar0 o v).fwActive = s.fwActive := rfl
@[simp] theorem State.setBar0_fwNext (o : Nat) (v : W64) : (s.setBar0 o v).fwNext = s.fwNext := rfl
@[simp] theorem State.setBar0_cxlDown (o : Nat) (v : W64) : (s.setBar0 o v).cxlDown = s.cxlDown := rfl
@[simp] theorem State.setBar0_cxlPoison (o : Nat) (v : W64) : (s.setBar0 o v).cxlPoison = s.cxlPoison := rfl
@[simp] theorem State.setBar0_lostRanks (o : Nat) (v : W64) : (s.setBar0 o v).lostRanks = s.lostRanks := rfl

/-! ### useFree -/

@[simp] theorem State.useFree_clk : (s.useFree).clk = s.clk := rfl
@[simp] theorem State.useFree_issueQ : (s.useFree).issueQ = s.issueQ := rfl
@[simp] theorem State.useFree_agenda : (s.useFree).agenda = s.agenda := rfl
@[simp] theorem State.useFree_nextId : (s.useFree).nextId = s.nextId := rfl
@[simp] theorem State.useFree_free : (s.useFree).free = s.free + 1 := rfl
@[simp] theorem State.useFree_mem : (s.useFree).mem = s.mem := rfl
@[simp] theorem State.useFree_dram : (s.useFree).dram = s.dram := rfl
@[simp] theorem State.useFree_dramTags : (s.useFree).dramTags = s.dramTags := rfl
@[simp] theorem State.useFree_writeBacks : (s.useFree).writeBacks = s.writeBacks := rfl
@[simp] theorem State.useFree_keyTags : (s.useFree).keyTags = s.keyTags := rfl
@[simp] theorem State.useFree_keyGens : (s.useFree).keyGens = s.keyGens := rfl
@[simp] theorem State.useFree_tlb : (s.useFree).tlb = s.tlb := rfl
@[simp] theorem State.useFree_walks : (s.useFree).walks = s.walks := rfl
@[simp] theorem State.useFree_lineOwners : (s.useFree).lineOwners = s.lineOwners := rfl
@[simp] theorem State.useFree_scrambled : (s.useFree).scrambled = s.scrambled := rfl
@[simp] theorem State.useFree_tentWords : (s.useFree).tentWords = s.tentWords := rfl
@[simp] theorem State.useFree_releases : (s.useFree).releases = s.releases := rfl
@[simp] theorem State.useFree_accesses : (s.useFree).accesses = s.accesses := rfl
@[simp] theorem State.useFree_maths : (s.useFree).maths = s.maths := rfl
@[simp] theorem State.useFree_ops : (s.useFree).ops = s.ops := rfl
@[simp] theorem State.useFree_cores : (s.useFree).cores = s.cores := rfl
@[simp] theorem State.useFree_parts : (s.useFree).parts = s.parts := rfl
@[simp] theorem State.useFree_warps : (s.useFree).warps = s.warps := rfl
@[simp] theorem State.useFree_groups : (s.useFree).groups = s.groups := rfl
@[simp] theorem State.useFree_barDue : (s.useFree).barDue = s.barDue := rfl
@[simp] theorem State.useFree_ctxs : (s.useFree).ctxs = s.ctxs := rfl
@[simp] theorem State.useFree_queues : (s.useFree).queues = s.queues := rfl
@[simp] theorem State.useFree_launches : (s.useFree).launches = s.launches := rfl
@[simp] theorem State.useFree_blocks : (s.useFree).blocks = s.blocks := rfl
@[simp] theorem State.useFree_saved : (s.useFree).saved = s.saved := rfl
@[simp] theorem State.useFree_hbm : (s.useFree).hbm = s.hbm := rfl
@[simp] theorem State.useFree_lastQueue : (s.useFree).lastQueue = s.lastQueue := rfl
@[simp] theorem State.useFree_lastCore : (s.useFree).lastCore = s.lastCore := rfl
@[simp] theorem State.useFree_bar0 : (s.useFree).bar0 = s.bar0 := rfl
@[simp] theorem State.useFree_tenants : (s.useFree).tenants = s.tenants := rfl
@[simp] theorem State.useFree_ports : (s.useFree).ports = s.ports := rfl
@[simp] theorem State.useFree_reports : (s.useFree).reports = s.reports := rfl
@[simp] theorem State.useFree_replies : (s.useFree).replies = s.replies := rfl
@[simp] theorem State.useFree_msix : (s.useFree).msix = s.msix := rfl
@[simp] theorem State.useFree_kilnLog : (s.useFree).kilnLog = s.kilnLog := rfl
@[simp] theorem State.useFree_flashLog : (s.useFree).flashLog = s.flashLog := rfl
@[simp] theorem State.useFree_droopMax : (s.useFree).droopMax = s.droopMax := rfl
@[simp] theorem State.useFree_fwBank : (s.useFree).fwBank = s.fwBank := rfl
@[simp] theorem State.useFree_fwActive : (s.useFree).fwActive = s.fwActive := rfl
@[simp] theorem State.useFree_fwNext : (s.useFree).fwNext = s.fwNext := rfl
@[simp] theorem State.useFree_cxlDown : (s.useFree).cxlDown = s.cxlDown := rfl
@[simp] theorem State.useFree_cxlPoison : (s.useFree).cxlPoison = s.cxlPoison := rfl
@[simp] theorem State.useFree_lostRanks : (s.useFree).lostRanks = s.lostRanks := rfl

end Sys2Proof.Machine
end

