-- ==== Sys2Proof/Laws/Ops.lean ====
section
/-!
SUPPORT. The look-ups of a warp, a lane and a path after an update, and what the shared operations of a word's issue leave: `cur?`,
`runWord`, `advance`, `putFix`.
-/

namespace Sys2Proof.Machine

/-! ### Lists changed where a condition holds -/

theorem mapIf_mapIf {α : Type} (p : α → Bool) (f g : α → α) (hf : ∀ x, p (f x) = p x) (l : List α) :
    mapIf p g (mapIf p f l) = mapIf p (fun x => g (f x)) l := by
  simp only [mapIf, List.map_map]
  apply List.map_congr_left
  intro x _
  simp only [Function.comp]
  by_cases h : p x <;> simp [h, hf]

theorem find?_map_of_eq {α : Type} (p : α → Bool) (f : α → α) (hf : ∀ x, p (f x) = p x) (l : List α) :
    (l.map f).find? p = (l.find? p).map f := by
  rw [List.find?_map]
  congr 2
  funext x
  exact hf x

theorem find?_mapIf_of_eq {α : Type} (p q : α → Bool) (f : α → α) (hf : ∀ x, q x = true → p (f x) = p x) (l : List α) :
    (mapIf q f l).find? p = (l.find? p).map fun x => if q x then f x else x := by
  refine find?_map_of_eq p _ (fun x => ?_) l
  by_cases h : q x <;> simp [h, hf]

/-! ### Warps -/

/-- A warp after an update that keeps keys. -/
theorem State.warpAt?_modWarp (s : State) (k k' : WarpKey) (f : Warp → Warp) (hf : ∀ w, (f w).key = w.key) :
    (s.modWarp k f).warpAt? k' = (s.warpAt? k').map fun w => if w.key == k then f w else w := by
  simp only [State.warpAt?, State.modWarp_warps]
  exact find?_mapIf_of_eq _ _ f (fun x _ => by rw [hf]) _

theorem State.warpAt?_key {s : State} {k : WarpKey} {w : Warp} (h : s.warpAt? k = some w) : w.key = k := by
  simpa using List.find?_some h

/-- The updated warp. -/
theorem State.warpAt?_modWarp_self {s : State} {k : WarpKey} {w : Warp} (f : Warp → Warp) (hf : ∀ w, (f w).key = w.key)
    (h : s.warpAt? k = some w) : (s.modWarp k f).warpAt? k = some (f w) := by
  simp [State.warpAt?_modWarp s k k f hf, h, State.warpAt?_key h]

/-- Every other warp. -/
theorem State.warpAt?_modWarp_ne {s : State} {k k' : WarpKey} (f : Warp → Warp) (hf : ∀ w, (f w).key = w.key)
    (hne : k' ≠ k) : (s.modWarp k f).warpAt? k' = s.warpAt? k' := by
  rw [State.warpAt?_modWarp s k k' f hf]
  cases h : s.warpAt? k' with
  | none => rfl
  | some w =>
    have : w.key ≠ k := by rw [State.warpAt?_key h]; exact hne
    simp [this]

/-- Two updates of one warp are one. -/
theorem State.modWarp_modWarp (s : State) (k : WarpKey) (f g : Warp → Warp) (hf : ∀ w, (f w).key = w.key) :
    (s.modWarp k f).modWarp k g = s.modWarp k fun w => g (f w) := by
  simp only [State.modWarp]
  congr 1
  exact mapIf_mapIf _ f g (fun x => by rw [hf]) _

/-! ### Lanes of a warp -/

@[simp] theorem Warp.eachLane_key (w : Warp) (f : Lane → Lane) : (w.eachLane f).key = w.key := rfl
@[simp] theorem Warp.mapLanes_key (w : Warp) (m : Mask) (f : Lane → Lane) : (w.mapLanes m f).key = w.key := rfl
@[simp] theorem Warp.modLane_key (w : Warp) (l : Nat) (f : Lane → Lane) : (w.modLane l f).key = w.key := rfl
@[simp] theorem Warp.modPath_key (w : Warp) (l : Nat) (f : Path → Path) : (w.modPath l f).key = w.key := rfl
@[simp] theorem Warp.eachLane_paths (w : Warp) (f : Lane → Lane) : (w.eachLane f).paths = w.paths := rfl
@[simp] theorem Warp.mapLanes_paths (w : Warp) (m : Mask) (f : Lane → Lane) : (w.mapLanes m f).paths = w.paths := rfl
@[simp] theorem Warp.modPath_lanes (w : Warp) (l : Nat) (f : Path → Path) : (w.modPath l f).lanes = w.lanes := rfl

theorem Warp.laneAt_of_hasLane {w : Warp} {n : Nat} (h : w.hasLane n) :
    ∃ l ∈ w.lanes, l.id = n ∧ w.lanes.find? (fun x => x.id == n) = some l ∧ w.laneAt n = l := by
  obtain ⟨l, hl, hn⟩ := h
  cases hf : w.lanes.find? (fun x => x.id == n) with
  | none =>
    have := List.find?_eq_none.mp hf l hl
    simp [hn] at this
  | some x =>
    refine ⟨x, List.mem_of_find?_eq_some hf, ?_, rfl, ?_⟩
    · simpa using List.find?_some hf
    · simp [Warp.laneAt, findD, hf]

theorem Warp.laneAt_of_not_hasLane {w : Warp} {n : Nat} (h : ¬ w.hasLane n) : w.laneAt n = blankLane n := by
  have : w.lanes.find? (fun x => x.id == n) = none := by
    rw [List.find?_eq_none]
    intro x hx hn
    exact h ⟨x, hx, by simpa using hn⟩
  simp [Warp.laneAt, findD, this]

/-- A lane after every lane has been changed by a function that keeps numbers. -/
theorem Warp.laneAt_eachLane (w : Warp) (f : Lane → Lane) (hf : ∀ l, (f l).id = l.id) {n : Nat} (h : w.hasLane n) :
    (w.eachLane f).laneAt n = f (w.laneAt n) := by
  obtain ⟨l, _, _, hfind, hl⟩ := Warp.laneAt_of_hasLane h
  have : (w.lanes.map f).find? (fun x => x.id == n) = some (f l) := by
    rw [find?_map_of_eq _ f (fun x => by rw [hf]), hfind]; rfl
  simp only [Warp.laneAt, findD, Warp.eachLane, this, hfind, Option.getD_some]

/-- A lane after the lanes of a mask have been changed by a function that keeps numbers. -/
theorem Warp.laneAt_mapLanes (w : Warp) (m : Mask) (f : Lane → Lane) (hf : ∀ l, (f l).id = l.id) {n : Nat} (h : w.hasLane n) :
    (w.mapLanes m f).laneAt n = if m.getLsbD n then f (w.laneAt n) else w.laneAt n := by
  obtain ⟨l, _, hid, hfind, hl⟩ := Warp.laneAt_of_hasLane h
  have : (mapIf (fun x => m.getLsbD x.id) f w.lanes).find? (fun x => x.id == n) =
      some (if m.getLsbD l.id then f l else l) := by
    rw [find?_mapIf_of_eq _ _ f (fun x _ => by rw [hf]), hfind]; rfl
  simp only [Warp.laneAt, findD, Warp.mapLanes, this, hfind, Option.getD_some, hid]

theorem Warp.hasLane_eachLane {w : Warp} {f : Lane → Lane} (hf : ∀ l, (f l).id = l.id) {n : Nat} :
    (w.eachLane f).hasLane n ↔ w.hasLane n := by
  simp [Warp.hasLane, Warp.eachLane, hf]

theorem Warp.hasLane_mapLanes {w : Warp} {m : Mask} {f : Lane → Lane} (hf : ∀ l, (f l).id = l.id) {n : Nat} :
    (w.mapLanes m f).hasLane n ↔ w.hasLane n := by
  simp only [Warp.hasLane, Warp.mapLanes, mapIf, List.mem_map]
  constructor
  · rintro ⟨_, ⟨x, hx, rfl⟩, hn⟩
    exact ⟨x, hx, by by_cases h : m.getLsbD x.id <;> simp_all⟩
  · rintro ⟨x, hx, hn⟩
    exact ⟨_, ⟨x, hx, rfl⟩, by by_cases h : m.getLsbD x.id <;> simp_all⟩

/-! ### Paths of a warp -/

/-- The changed path, when the change keeps its lanes. -/
theorem Warp.pathOf?_modPath {w : Warp} {l : Nat} {p : Path} (f : Path → Path) (hf : ∀ q, (f q).mask = q.mask)
    (h : w.pathOf? l = some p) : (w.modPath l f).pathOf? l = some (f p) := by
  have hp : p.mask.getLsbD l = true := by simpa using List.find?_some h
  simp only [Warp.pathOf?, Warp.modPath] at h ⊢
  rw [find?_mapIf_of_eq _ _ f (fun x _ => by rw [hf]), h]
  simp [hp]

/-- A path that has not the lane. -/
theorem Warp.pathOf?_modPath_ne {w : Warp} {l n : Nat} {p : Path} (f : Path → Path) (hf : ∀ q, (f q).mask = q.mask)
    (h : w.pathOf? n = some p) (hne : p.mask.getLsbD l = false) : (w.modPath l f).pathOf? n = some p := by
  simp only [Warp.pathOf?, Warp.modPath] at h ⊢
  rw [find?_mapIf_of_eq _ _ f (fun x _ => by rw [hf]), h]
  simp [hne]

/-! ### The issuing word -/

/-- What `cur?` finds. -/
theorem cur?_some {s : State} {c : Cur} (h : cur? s = some c) :
    (∃ r, s.issueQ = (c.key, c.lane0) :: r) ∧ s.warpAt? c.key = some c.w ∧ c.w.pathOf? c.lane0 = some c.p ∧
      c.p.inRun = some c.r ∧ c.pc = c.r.addr c.r.idx ∧ c.lanes = c.w.lanesIn c.p.mask := by
  unfold cur? at h
  split at h
  · cases h
  · rename_i k l rest hq
    split at h
    · cases h
    · rename_i w hw
      split at h
      · cases h
      · rename_i p hp
        split at h
        · cases h
        · rename_i r hr
          cases h
          exact ⟨⟨rest, hq⟩, hw, hp, hr, rfl, rfl⟩

/-- A word that issues and passes its checks has its effect. -/
theorem runWord_ok {i : Instr} {s : State} {c : Cur} {k : State → Cur → State} (h : cur? s = some c) (hk : wordCheck c i = none) :
    runWord i s k = k s c := by
  simp [runWord, h, hk]

/-- A word that fails a check traps. -/
theorem runWord_trap {i : Instr} {s : State} {c : Cur} {k : State → Cur → State} {cause : Nat} {tl : Mask} (h : cur? s = some c)
    (hk : wordCheck c i = some (cause, tl)) : runWord i s k = trapWord s c cause tl := by
  simp [runWord, h, hk]

/-- With no word to issue nothing happens. -/
theorem runWord_none {i : Instr} {s : State} {k : State → Cur → State} (h : cur? s = none) : runWord i s k = s := by
  simp [runWord, h]

theorem stepRun_mask (clk : Nat) (p : Path) : (stepRun clk p).mask = p.mask := by
  unfold stepRun
  split
  · rfl
  · split <;> rfl

/-- The lane after its word has issued: a watchpoint's mark at the word is gone. -/
def Lane.pastWord (c : Cur) (l : Lane) : Lane := if l.noMatch == some c.pc then { l with noMatch := none } else l

theorem Lane.pastWord_id (c : Cur) (l : Lane) : (l.pastWord c).id = l.id := by
  unfold Lane.pastWord; split <;> rfl

/-- `advance` as an update of the issuing warp and of the issue queue. -/
theorem advance_eq (s : State) (c : Cur) :
    advance s c =
      { s.modWarp c.key (fun w => (w.modPath c.lane0 (stepRun s.clk)).mapLanes c.p.mask (Lane.pastWord c)) with
        issueQ := s.issueQ.drop 1
        free := s.free + 1 } := rfl

/-! ### Fixed-latency results -/

/-- A lane after some of a list of results, those with its number, have entered flight. -/
def Lane.launchAll (clk due : Nat) (vals : List (Nat × Nat × W32)) (l : Lane) : Lane :=
  (vals.filter fun v => v.1 == l.id).foldl (fun l v => l.launchFix ⟨v.2.1, v.2.2, clk, due⟩) l

theorem insertBy_mem {α : Type} (key : α → Nat) (x y : α) : ∀ (l : List α), y ∈ insertBy key x l ↔ y = x ∨ y ∈ l
  | [] => by simp [insertBy]
  | z :: r => by
    unfold insertBy
    split
    · simp
    · simp [insertBy_mem key x y r]; tauto

theorem launchFold_spec (clk due : Nat) : ∀ (vals : List (Nat × Nat × W32)) (l : Lane),
    ∃ q : List FixWrite,
      vals.foldl (fun l v => l.launchFix ⟨v.2.1, v.2.2, clk, due⟩) l = { l with inflight := q } ∧
      ∀ x, x ∈ q ↔ x ∈ l.inflight ∨ ∃ v ∈ vals, x = ⟨v.2.1, v.2.2, clk, due⟩
  | [], l => ⟨l.inflight, rfl, by simp⟩
  | v :: r, l => by
    obtain ⟨q, hq, hm⟩ := launchFold_spec clk due r (l.launchFix ⟨v.2.1, v.2.2, clk, due⟩)
    refine ⟨q, ?_, ?_⟩
    · rw [List.foldl_cons, hq]; rfl
    · intro x
      rw [hm, Lane.launchFix]
      simp only [insertBy_mem, List.mem_cons, exists_eq_or_imp]
      tauto

/-- Everything that `launchAll` does: the lane is as before but for results in flight, which gain those of its number. -/
theorem Lane.launchAll_spec (clk due : Nat) (vals : List (Nat × Nat × W32)) (l : Lane) :
    ∃ q : List FixWrite, l.launchAll clk due vals = { l with inflight := q } ∧
      ∀ x, x ∈ q ↔ x ∈ l.inflight ∨ ∃ v ∈ vals, v.1 = l.id ∧ x = ⟨v.2.1, v.2.2, clk, due⟩ := by
  obtain ⟨q, hq, hm⟩ := launchFold_spec clk due (vals.filter fun v => v.1 == l.id) l
  refine ⟨q, hq, fun x => ?_⟩
  rw [hm]
  simp [and_assoc]

theorem Lane.launchAll_id (clk due : Nat) (vals : List (Nat × Nat × W32)) (l : Lane) : (l.launchAll clk due vals).id = l.id := by
  obtain ⟨q, hq, _⟩ := Lane.launchAll_spec clk due vals l
  rw [hq]

theorem putFix_eq (s : State) (c : Cur) (lat : Nat) (vals : List (Nat × Nat × W32)) :
    putFix s c lat vals = s.modWarp c.key fun w => w.eachLane (Lane.launchAll s.clk (s.clk + lat) vals) := rfl

end Sys2Proof.Machine
end

