-- ==== Sys2Proof/Laws/Words.lean ====
section
/-!
SUPPORT. What `advance` and the words that write registers leave, in the terms of Safety.lean: one lemma for each shared operation of a
word's issue.
-/

namespace Sys2Proof.Machine

open Classical in
/-- An update of the issuing warp followed by `advance`: what becomes of the warps, when the update keeps the warp's own fields, its other
paths and its lanes' numbers. -/
theorem advance_lanes {s u : State} {c : Cur} (hc : cur? s = some c) (g : Warp → Warp) (f : Lane → Lane) (e : InRun → InRun)
    (hg : ∀ w, g w = { w with lanes := w.lanes.map f, paths := (w.modPath c.lane0 fun p => { p with inRun := p.inRun.map e }).paths })
    (hf : ∀ l, (f l).id = l.id) (hu : u.warps = (s.modWarp c.key g).warps) (hclk : u.clk = s.clk) :
    Issued s (advance u c) c (e c.r) (fun _ _ => True) ∧
      ∀ n, s.laneAt c.key n = c.w.laneAt n ∧ (advance u c).laneAt c.key n =
        if c.w.hasLane n then (if c.p.mask.getLsbD n then (f (c.w.laneAt n)).pastWord c else f (c.w.laneAt n)) else blankLane n := by
  obtain ⟨_, hw, hp, hr, _, _⟩ := cur?_some hc
  have hkey : ∀ w, (g w).key = w.key := fun w => by rw [hg]
  let h : Warp → Warp := fun w => (w.modPath c.lane0 (stepRun u.clk)).mapLanes c.p.mask (Lane.pastWord c)
  have hh : ∀ w, (h w).key = w.key := fun _ => rfl
  have hs : ∀ k, (advance u c).warpAt? k = (s.modWarp c.key fun w => h (g w)).warpAt? k := by
    intro k
    rw [advance_eq, ← State.modWarp_modWarp s c.key g h hkey]
    simp only [State.warpAt?, State.modWarp_warps] at hu ⊢
    rw [hu]
  have hgh : ∀ w, (h (g w)).key = w.key := fun w => by rw [hh, hkey]
  have hself : (advance u c).warpAt? c.key = some (h (g c.w)) := by rw [hs]; exact State.warpAt?_modWarp_self _ hgh hw
  have hat : (advance u c).warpAt c.key = h (g c.w) := by simp [State.warpAt, hself]
  have hpaths : (h (g c.w)).paths = (c.w.modPath c.lane0 fun p => stepRun u.clk { p with inRun := p.inRun.map e }).paths := by
    show (Warp.modPath (g c.w) c.lane0 (stepRun u.clk)).paths = _
    rw [hg]
    simp only [Warp.modPath]
    exact mapIf_mapIf (fun p : Path => p.mask.getLsbD c.lane0) (fun p => { p with inRun := p.inRun.map e }) (stepRun u.clk) (fun _ => rfl) _
  have hpo : ∀ n, (h (g c.w)).pathOf? n = (c.w.modPath c.lane0 fun p => stepRun u.clk { p with inRun := p.inRun.map e }).pathOf? n := by
    intro n; simp only [Warp.pathOf?, hpaths]
  have hmask : ∀ q : Path, (stepRun u.clk { q with inRun := q.inRun.map e }).mask = q.mask := fun q => stepRun_mask _ _
  refine ⟨⟨?_, ⟨_, hself, ?_⟩, ?_, ?_, fun _ => trivial⟩, ?_⟩
  · intro k hk
    rw [hs]; exact State.warpAt?_modWarp_ne _ hgh hk
  · show Warp.mapLanes (Warp.modPath (g c.w) c.lane0 (stepRun u.clk)) c.p.mask (Lane.pastWord c) = _
    rw [hg]; rfl
  · rw [hat, hpo, Warp.pathOf?_modPath _ hmask hp, hr, hclk]; rfl
  · intro n p hn hne
    rw [hat, hpo]; exact Warp.pathOf?_modPath_ne _ hmask hn hne
  · intro n
    refine ⟨by simp [State.laneAt, State.warpAt, hw], ?_⟩
    have h2 : (advance u c).laneAt c.key n = (h (g c.w)).laneAt n := by rw [State.laneAt, hat]
    rw [h2]
    have hl : (h (g c.w)).lanes = ((c.w.eachLane f).mapLanes c.p.mask (Lane.pastWord c)).lanes := by
      show ((Warp.modPath (g c.w) c.lane0 (stepRun u.clk)).mapLanes c.p.mask (Lane.pastWord c)).lanes = _
      rw [hg]; rfl
    have h3 : (h (g c.w)).laneAt n = ((c.w.eachLane f).mapLanes c.p.mask (Lane.pastWord c)).laneAt n := by
      simp only [Warp.laneAt, hl]
    rw [h3]
    by_cases hn : c.w.hasLane n
    · have hn' : (c.w.eachLane f).hasLane n := (Warp.hasLane_eachLane hf).mpr hn
      rw [Warp.laneAt_mapLanes _ _ _ (Lane.pastWord_id c) hn', Warp.laneAt_eachLane _ f hf hn, if_pos hn]
    · have hn' : ¬ ((c.w.eachLane f).mapLanes c.p.mask (Lane.pastWord c)).hasLane n := by
        rw [Warp.hasLane_mapLanes (Lane.pastWord_id c), Warp.hasLane_eachLane hf]; exact hn
      rw [Warp.laneAt_of_not_hasLane hn', if_neg hn]

/-- What an issue leaves, from what it leaves of each lane. -/
theorem Issued.of_lanes {s t : State} {c : Cur} {r : InRun} {R : Lane → Lane → Prop} (h : Issued s t c r fun _ _ => True)
    (hR : ∀ n, R (s.laneAt c.key n) (t.laneAt c.key n)) : Issued s t c r R :=
  ⟨h.others, h.warp, h.path, h.otherPaths, hR⟩

theorem LaneKept.refl (l : Lane) : LaneKept l l := rfl

theorem LaneKept.pastWord {l l' : Lane} (c : Cur) (h : LaneKept l l') : LaneKept l (l'.pastWord c) := by
  unfold LaneKept at h ⊢
  unfold Lane.pastWord
  split
  · rw [h]
  · exact h

theorem Lane.pastWord_inflight (c : Cur) (l : Lane) : (l.pastWord c).inflight = l.inflight := by
  unfold Lane.pastWord; split <;> rfl

theorem Lane.pastWord_or (c : Cur) (l : Lane) (P : Prop) [Decidable P] (R : Lane → Prop) (h1 : R (l.pastWord c)) (h2 : R l) :
    R (if P then l.pastWord c else l) := by
  split
  · exact h1
  · exact h2

/-- A word that only moves its path on, after an update of its run. -/
theorem advance_run {s u : State} {c : Cur} (hc : cur? s = some c) (e : InRun → InRun)
    (hu : u.warps = (s.modPath c.key c.lane0 fun p => { p with inRun := p.inRun.map e }).warps) (hclk : u.clk = s.clk) :
    Issued s (advance u c) c (e c.r) LaneKept ∧
      ∀ n, ((advance u c).laneAt c.key n).inflight = (s.laneAt c.key n).inflight := by
  obtain ⟨h1, h2⟩ := advance_lanes hc (fun w => w.modPath c.lane0 fun p => { p with inRun := p.inRun.map e }) (fun l => l) e
    (fun w => by simp [Warp.modPath]) (fun _ => rfl) hu hclk
  refine ⟨h1.of_lanes fun n => ?_, fun n => ?_⟩
  · rw [(h2 n).1, (h2 n).2]
    by_cases hn : c.w.hasLane n
    · rw [if_pos hn]
      exact Lane.pastWord_or c _ _ _ (LaneKept.pastWord c (LaneKept.refl _)) (LaneKept.refl _)
    · rw [if_neg hn, Warp.laneAt_of_not_hasLane hn]; rfl
  · rw [(h2 n).1, (h2 n).2]
    by_cases hn : c.w.hasLane n
    · rw [if_pos hn]
      exact Lane.pastWord_or c (c.w.laneAt n) _ (fun l => l.inflight = (c.w.laneAt n).inflight) (Lane.pastWord_inflight c _) rfl
    · rw [if_neg hn, Warp.laneAt_of_not_hasLane hn]

/-- A word that only moves its path on. -/
theorem advance_plain {s : State} {c : Cur} (hc : cur? s = some c) :
    OnlyWarps s (advance s c) ∧ Issued s (advance s c) c c.r LaneKept ∧
      ∀ n, ((advance s c).laneAt c.key n).inflight = (s.laneAt c.key n).inflight := by
  have h := advance_run (u := s) hc (fun r => r) (by simp [State.modPath, State.modWarp, Warp.modPath, mapIf]) rfl
  exact ⟨rfl, h.1, h.2⟩

/-- Results that enter flight as a word issues: everything that `putFix` and `advance` leave. -/
theorem putFix_done {s : State} {c : Cur} (hc : cur? s = some c) (lat : Nat) (vals : List (Nat × Nat × W32)) :
    OnlyWarps s (advance (putFix s c lat vals) c) ∧ Issued s (advance (putFix s c lat vals) c) c c.r LaneKept ∧
      ∀ n x, x ∈ ((advance (putFix s c lat vals) c).laneAt c.key n).inflight ↔
        x ∈ (s.laneAt c.key n).inflight ∨ (c.w.hasLane n ∧ ∃ v ∈ vals, v.1 = n ∧ x = ⟨v.2.1, v.2.2, s.clk, s.clk + lat⟩) := by
  have hfid : ∀ l, (Lane.launchAll s.clk (s.clk + lat) vals l).id = l.id := Lane.launchAll_id _ _ _
  obtain ⟨h1, h2⟩ := advance_lanes (u := putFix s c lat vals) hc (fun w => w.eachLane (Lane.launchAll s.clk (s.clk + lat) vals))
    (Lane.launchAll s.clk (s.clk + lat) vals) (fun r => r) (fun w => by simp [Warp.modPath, mapIf, Warp.eachLane]) hfid rfl rfl
  refine ⟨rfl, h1.of_lanes fun n => ?_, fun n x => ?_⟩
  · rw [(h2 n).1, (h2 n).2]
    obtain ⟨q, hq, _⟩ := Lane.launchAll_spec s.clk (s.clk + lat) vals (c.w.laneAt n)
    by_cases hn : c.w.hasLane n
    · rw [if_pos hn, hq]
      exact Lane.pastWord_or c _ _ _ (LaneKept.pastWord c rfl) rfl
    · rw [if_neg hn, Warp.laneAt_of_not_hasLane hn]; rfl
  · rw [(h2 n).1, (h2 n).2]
    by_cases hn : c.w.hasLane n
    · obtain ⟨q, hq, hm⟩ := Lane.launchAll_spec s.clk (s.clk + lat) vals (c.w.laneAt n)
      have hid : (c.w.laneAt n).id = n := by
        obtain ⟨l, _, hl, _, he⟩ := Warp.laneAt_of_hasLane hn
        rw [he]; exact hl
      rw [if_pos hn, hq]
      refine Lane.pastWord_or c ({ c.w.laneAt n with inflight := q } : Lane) _ (fun l => x ∈ l.inflight ↔ _) ?_ ?_
      · rw [Lane.pastWord_inflight]; simp only [hm, hid, hn, true_and]
      · simp only [hm, hid, hn, true_and]
    · rw [if_neg hn, Warp.laneAt_of_not_hasLane hn]; simp [hn]

/-- A lane that executes a word is a lane of its warp. -/
theorem active_hasLane {s : State} {c : Cur} (hc : cur? s = some c) {h : Hdr} {l : Lane} (hl : l ∈ active s c h) : c.w.hasLane l.id := by
  obtain ⟨_, _, _, _, _, hls⟩ := cur?_some hc
  simp only [active, hls, Warp.lanesIn, List.mem_filter] at hl
  exact ⟨l, hl.1.1, rfl⟩

/-- A word whose executing lanes put what a row gives into flight completes as the row says. -/
theorem completes_of_putFix {i : Instr} {s : State} {c : Cur} {r : Row} (hi : Issues i s c)
    (he : exec i s = .next (advance (putFix s c r.lat
      ((active s c r.hdr).flatMap fun l => (r.out s c l).map fun v => (l.id, v))) c)) : Completes i s c r := by
  obtain ⟨h1, h2, h3⟩ := putFix_done hi.cur r.lat ((active s c r.hdr).flatMap fun l => (r.out s c l).map fun v => (l.id, v))
  refine ⟨_, he, h1, h2, ⟨?_, ?_, ?_⟩⟩
  · intro l hl v hv
    rw [h3]
    exact Or.inr ⟨active_hasLane hi.cur hl, (l.id, v), by simp only [List.mem_flatMap, List.mem_map]; exact ⟨l, hl, v, hv, rfl⟩, rfl, rfl⟩
  · intro n x hx
    rw [h3]; exact Or.inl hx
  · intro n x hx
    rw [h3] at hx
    rcases hx with hx | ⟨_, v, hv, hn, rfl⟩
    · exact Or.inl hx
    · simp only [List.mem_flatMap, List.mem_map] at hv
      obtain ⟨l, hl, w, hw, rfl⟩ := hv
      exact Or.inr ⟨l, hl, hn, w, hw, rfl⟩

/-- A word of fixed latency with the values of a row completes as the row says. -/
theorem completes_of_fixWord {i : Instr} {s : State} {c : Cur} {r : Row} (hi : Issues i s c) (f : State → Lane → List (Nat × W32))
    (hf : ∀ l ∈ active s c r.hdr, r.out s c l = f s l) (he : exec i s = .next (fixWord i r.hdr r.lat f s)) : Completes i s c r := by
  refine completes_of_putFix hi ?_
  rw [he, fixWord, runWord_ok hi.cur hi.ok]
  congr 3
  exact List.flatMap_congr fun l hl => by rw [hf l hl]

end Sys2Proof.Machine
end

