-- ==== Sys2Proof/Tests/Slice0.lean ====
section
/-!
SUPPORT. Tests: the words of the reference entries decode to their instructions and encode back, ill-formed terms are refused, single steps give
the values that the reference entries list, and the hypotheses of every statement are met by a concrete state.
-/

namespace Sys2Proof.Tests

-- One test after the other: a thread for each would take more address space than the check allows.
set_option Elab.async false

open Sys2Proof.Machine Sys2Proof.Claims

/-! ### Words of the reference (the full forms of chapters 23 to 28, and R65 to R68) -/

/-- PRED P7 and dist=1. -/
def h1 : Hdr := ⟨0#3, false, 7#3⟩
/-- PRED P7 and dist=2. -/
def h2 : Hdr := ⟨1#3, false, 7#3⟩

/-- A word decodes to an instruction, and the instruction encodes to the word. -/
def reads (e : W64 × Instr) : Bool :=
  match decode e.1 with
  | .ok i => i == e.2 && encode e.2 == e.1
  | .error _ => false

/-- Integer arithmetic and logic. -/
theorem test_decode_row00 : ([
  (0x0007020304000001#64, .iadd h1 2#8 3#8 4#8 1#2),
  (0x0087020304000000#64, .isub h1 2#8 3#8 4#8 0#2),
  (0x0107040203000000#64, .imul h1 4#8 2#8 3#8 0#2),
  (0x0187020304000001#64, .imulh h1 2#8 3#8 4#8 true),
  (0x0207020304050000#64, .imad h1 2#8 3#8 4#8 5#8),
  (0x0287020304000003#64, .idiv h1 2#8 3#8 4#8 true true),
  (0x0307020304050003#64, .idot4 h1 2#8 3#8 4#8 5#8 true true),
  (0x0387020304000001#64, .imin h1 2#8 3#8 4#8 true),
  (0x0407020304000000#64, .imax h1 2#8 3#8 4#8 false),
  (0x0487020300000000#64, .iabs h1 2#8 3#8),
  (0x0507020300000000#64, .ineg h1 2#8 3#8),
  (0x0587020304000000#64, .and h1 2#8 3#8 4#8),
  (0x0607020304000000#64, .or h1 2#8 3#8 4#8),
  (0x0687020304000000#64, .xor h1 2#8 3#8 4#8),
  (0x0707020300000000#64, .not h1 2#8 3#8),
  (0x0787020304000000#64, .shl h1 2#8 3#8 4#8)] : List (W64 × Instr)).all reads = true := by decide

/-- Shifts, bits, moves and selection. -/
theorem test_decode_row01 : ([
  (0x0807020304000000#64, .shr h1 2#8 3#8 4#8),
  (0x0887020304000000#64, .sar h1 2#8 3#8 4#8),
  (0x0907020304000001#64, .rot h1 2#8 3#8 4#8 true),
  (0x0987020300000000#64, .clz h1 2#8 3#8),
  (0x0A07020300000000#64, .popc h1 2#8 3#8),
  (0x0A87020300000000#64, .brev h1 2#8 3#8),
  (0x0B07020304000001#64, .bfx h1 2#8 3#8 4#8 true),
  (0x0B87020304050000#64, .bfi h1 2#8 3#8 4#8 5#8),
  (0x0C07920405000002#64, .icmp h1 146#8 4#8 5#8 2#4),
  (0x0C87020304910000#64, .sel h1 2#8 3#8 4#8 145#8 false),
  (0x0D070D0C00000000#64, .mov h1 13#8 12#8 false),
  (0x0D87030000000003#64, .movi h1 3#8 3#32),
  (0x0E07108800FF0000#64, .movhi h1 16#8 136#8 16711680#32),
  (0x0E871800000001A0#64, .lea h1 24#8 false 416#32)] : List (W64 × Instr)).all reads = true := by decide

/-- Integer immediates. -/
theorem test_decode_row02 : ([
  (0x100A050500000001#64, .iaddImm ⟨0#3, true, 2#3⟩ 5#8 5#8 1#32),
  (0x10871C1C00000001#64, .isubImm h1 28#8 28#8 1#32),
  (0x1107040200000003#64, .imulImm h1 4#8 2#8 3#32),
  (0x13870203FFFFFFFF#64, .iminImm h1 2#8 3#8 4294967295#32),
  (0x1407020300000000#64, .imaxImm h1 2#8 3#8 0#32),
  (0x15B70605FFFFFFFC#64, .andImm ⟨3#3, false, 7#3⟩ 6#8 5#8 4294967292#32),
  (0x16070203000000FF#64, .orImm h1 2#8 3#8 255#32),
  (0x16870202000000FF#64, .xorImm h1 2#8 2#8 255#32),
  (0x1787050400000002#64, .shlImm h1 5#8 4#8 2#32)] : List (W64 × Instr)).all reads = true := by decide

/-- Shift and compare immediates. -/
theorem test_decode_row03 : ([
  (0x1807060400000005#64, .shrImm h1 6#8 4#8 5#32),
  (0x1887020300000004#64, .sarImm h1 2#8 3#8 4#32),
  (0x1907020300000008#64, .rotImm h1 2#8 3#8 8#32),
  (0x1C07911D00000000#64, .icmpImm h1 145#8 29#8 0#4 0#28)] : List (W64 × Instr)).all reads = true := by decide

/-- Float arithmetic. -/
theorem test_decode_row04 : ([
  (0x2037060304000000#64, .fadd ⟨3#3, false, 7#3⟩ 6#8 3#8 4#8),
  (0x2087060304000000#64, .fsub h1 6#8 3#8 4#8),
  (0x2107060304000000#64, .fmul h1 6#8 3#8 4#8),
  (0x2187020304050000#64, .ffma h1 2#8 3#8 4#8 5#8),
  (0x2207020304000000#64, .fmin h1 2#8 3#8 4#8),
  (0x2287020304000000#64, .fmax h1 2#8 3#8 4#8),
  (0x2407910203000002#64, .fcmp h1 145#8 2#8 3#8 2#4),
  (0x2307020300000000#64, .fabs h1 2#8 3#8),
  (0x2387020300000000#64, .fneg h1 2#8 3#8),
  (0x2487020300000000#64, .frnd h1 2#8 3#8),
  (0x2507040500000050#64, .cvt h1 4#8 5#8 false 5#4 0#4),
  (0x2587020300000000#64, .rcp h1 2#8 3#8),
  (0x2607020300000000#64, .rsq h1 2#8 3#8),
  (0x2687020300000000#64, .sqrt h1 2#8 3#8),
  (0x2707020300000000#64, .ex2 h1 2#8 3#8),
  (0x2787020300000000#64, .lg2 h1 2#8 3#8)] : List (W64 × Instr)).all reads = true := by decide

/-- Special functions of the second row. -/
theorem test_decode_row05 : ([
  (0x2807020300000000#64, .sin h1 2#8 3#8),
  (0x2887020300000000#64, .cos h1 2#8 3#8),
  (0x2907020300000000#64, .tanh h1 2#8 3#8)] : List (W64 × Instr)).all reads = true := by decide

/-- Float immediates. -/
theorem test_decode_row06 : ([
  (0x300706033F800000#64, .faddImm h1 6#8 3#8 1065353216#32),
  (0x3087060340000000#64, .fsubImm h1 6#8 3#8 1073741824#32),
  (0x310706073F000000#64, .fmulImm h1 6#8 7#8 1056964608#32),
  (0x320702033F800000#64, .fminImm h1 2#8 3#8 1065353216#32),
  (0x3287020300000000#64, .fmaxImm h1 2#8 3#8 0#32),
  (0x3407910243F00000#64, .fcmpImm h1 145#8 2#8 4#4 66060288#28)] : List (W64 × Instr)).all reads = true := by decide

/-- Cross-lane words and predicates. -/
theorem test_decode_row08 : ([
  (0x4007020300000004#64, .lshfl h1 2#8 3#8 0#8 1#3 0#2),
  (0x4087020304000000#64, .lbcst h1 2#8 3#8 4#8 false),
  (0x4107069100000000#64, .lvote h1 6#8 145#8 0#2),
  (0x4187020300000001#64, .lredx h1 2#8 3#8 1#4),
  (0x4207292800000010#64, .lscan h1 41#8 40#8 0#4 true),
  (0x42871B1A00000000#64, .lmatch h1 27#8 26#8 false),
  (0x4307910000000000#64, .lelect h1 145#8 false),
  (0x4387020300000000#64, .spk24 h1 2#8 3#8 0#2),
  (0x4407140304910000#64, .vcompact h1 20#8 3#8 4#8 145#8 false),
  (0x4487919293000002#64, .pand h1 145#8 146#8 147#8 false true),
  (0x4507919293000001#64, .por h1 145#8 146#8 147#8 true false),
  (0x4587919293000000#64, .pxor h1 145#8 146#8 147#8 false false),
  (0x4607919200000000#64, .pnot h1 145#8 146#8),
  (0x4687001400000000#64, .wsync h1 20#8)] : List (W64 × Instr)).all reads = true := by decide

/-- Memory words. -/
theorem test_decode_row0C : ([
  (0x6017990A80480000#64, .ld h2 153#8 10#8 128#8 ⟨4#4, 4#3, 0#2, 0#4, 0#11⟩),
  (0x60911E101F480000#64, .st ⟨1#3, false, 1#3⟩ 30#8 16#8 31#8 ⟨4#4, 4#3, 0#2, 0#4, 0#11⟩),
  (0x6107000405480000#64, .pref h1 4#8 5#8 ⟨4#4, 4#3, 0#2, 0#4, 0#11⟩),
  (0x6187020406080002#64, .atom h1 2#8 4#8 6#8 ⟨0#4, 4#3, 0#2, 0#4, 2#11⟩),
  (0x6207020406480000#64, .cas h1 2#8 4#8 6#8 ⟨4#4, 4#3, 0#2, 0#4, 0#11⟩),
  (0x6287040200990004#64, .red h1 4#8 2#8 ⟨9#4, 4#3, 2#2, 0#4, 4#11⟩),
  (0x6307910406480000#64, .stt h1 145#8 4#8 6#8 ⟨4#4, 4#3, 0#2, 0#4, 0#11⟩),
  (0x6387920400498000#64, .retract h1 146#8 4#8 ⟨4#4, 4#3, 3#2, 0#4, 0#11⟩),
  (0x6407000400480000#64, .commit h1 4#8 ⟨4#4, 4#3, 0#2, 0#4, 0#11⟩),
  (0x6487000000440000#64, .fenceFull h1 2#3 0#4),
  (0x6487000406580000#64, .fenceWb h1 4#8 6#8 4#3 0#4),
  (0x6507060488488000#64, .mwait h1 6#8 4#8 136#8 ⟨4#4, 4#3, 1#2, 0#4, 0#11⟩),
  (0x6587000000000004#64, .enter h1 4#11),
  (0x6607000000000000#64, .leave h1)] : List (W64 × Instr)).all reads = true := by decide

/-- Control and system words. -/
theorem test_decode_row10 : ([
  (0x8007000000000000#64, .nop h1),
  (0x80870000FFFFFFFD#64, .bra h1 4294967293#32),
  (0x8117000100000004#64, .brc h2 false 1#3 4#32),
  (0x8187080000000000#64, .brx h1 8#8),
  (0x820700000000001E#64, .call h1 30#32),
  (0x8287140000000000#64, .callx h1 20#8),
  (0x8307000000000000#64, .ret h1),
  (0x8387000000000010#64, .joinh h1 16#7),
  (0x8407000000000000#64, .exit h1),
  (0x8487000000000000#64, .yield h1),
  (0x8507000000000005#64, .trap h1 5#16),
  (0x8587000000000000#64, .trapret h1),
  (0x8607000000000017#64, .bkpt h1 23#16),
  (0x8687050000000010#64, .csrr h1 5#8 16#12),
  (0x8717000600000010#64, .csrw h2 6#8 16#12),
  (0x8787060000000000#64, .clock h1 6#8)] : List (W64 × Instr)).all reads = true := by decide

/-- Barriers, ICINV and LAUNCH. -/
theorem test_decode_row11 : ([
  (0x8807000000000000#64, .icinv h1),
  (0x8887000000000002#64, .bar h1 0#2 2#4),
  (0x8907000000000011#64, .bara h1 1#2 1#4),
  (0x8987000000000023#64, .barw h1 2#2 3#4),
  (0x8A07090406000000#64, .launch h1 9#8 4#8 6#8)] : List (W64 × Instr)).all reads = true := by decide

/-- Copies, matrix, descriptors and futures. -/
theorem test_decode_row14 : ([
  (0xA007090D0E000000#64, .cpy h1 9#8 13#8 14#8),
  (0xA087090405060005#64, .cpyg h1 9#8 4#8 5#8 6#8 true 2#2),
  (0xA107090405060000#64, .cpyt h1 9#8 4#8 5#8 6#8 false 0#2),
  (0xA187090405060001#64, .mseat h1 9#8 4#8 5#8 6#8 true false),
  (0xA207090405060033#64, .mmul h1 9#8 4#8 5#8 6#8 3#4 true 1#2),
  (0xA287090000060000#64, .mprom h1 9#8 6#8),
  (0xA307090405060000#64, .mread h1 9#8 4#8 5#8 6#8),
  (0xA387090000060000#64, .mclr h1 9#8 6#8),
  (0xA407090000000000#64, .mstat h1 9#8),
  (0xA497000C10000000#64, .tdset h2 12#8 16#8),
  (0xA507200C00000000#64, .tdget h1 32#8 12#8),
  (0xA587910900000000#64, .ftest h1 145#8 9#8),
  (0xA587140900000001#64, .ftestRaw h1 20#8 9#8),
  (0xA607201E00000000#64, .fwait h1 32#8 30#8),
  (0xA687000900000000#64, .fcancel h1 9#8),
  (0xA687001E00000001#64, .fcancelRaw h1 30#8)] : List (W64 × Instr)).all reads = true := by decide

/-- Sets and base dies. -/
theorem test_decode_row18 : ([
  (0xC007040000000000#64, .snew h1 4#8 false),
  (0xC087090400000000#64, .sfree h1 9#8 4#8),
  (0xC107080418200000#64, .sins h1 8#8 4#8 24#8 32#8),
  (0xC18708061C210000#64, .sdel h1 8#8 6#8 28#8 33#8),
  (0xC2070B0305000000#64, .smemb h1 11#8 3#8 5#8),
  (0xC287090400000000#64, .scard h1 9#8 4#8),
  (0xC3070E0405000001#64, .sunion h1 14#8 4#8 5#8 true),
  (0xC387120E06000000#64, .sinter h1 18#8 14#8 6#8 false),
  (0xC4070F0506000000#64, .sdiff h1 15#8 5#8 6#8 false),
  (0xC487131224280000#64, .senum h1 19#8 18#8 36#8 40#8),
  (0xC507161415000000#64, .srep h1 22#8 20#8 21#8),
  (0xC587090405000001#64, .scost h1 9#8 4#8 5#8 1#2 false),
  (0xC607090400000000#64, .tqload h1 9#8 4#8),
  (0xC687090400000000#64, .tqry h1 9#8 4#8),
  (0xC707090400000000#64, .tqfree h1 9#8 4#8),
  (0xC7870A0600000000#64, .ired h1 10#8 6#8)] : List (W64 × Instr)).all reads = true := by decide

/-- Helpers. -/
theorem test_decode_row1C : ([
  (0xE017140D00000009#64, .recruit h2 20#8 13#8 9#32),
  (0xE087020300000000#64, .hldr h1 2#8 3#8),
  (0xE107000000000000#64, .hrelease h1),
  (0xE187159800000000#64, .hjoin h1 21#8 152#8 0#4)] : List (W64 × Instr)).all reads = true := by decide

/-- Words that R88 answers with ILLOP are refused by name: a reserved opcode, a nonzero reserved bit, an unused field in use, a reserved
code; and a trailer is no instruction. -/
theorem test_refused :
    decode 0x0F80000000000000#64 = .error .reservedOpcode ∧ decode 0x0007020304000004#64 = .error .reservedBits ∧
    decode 0x0007020304010000#64 = .error .unusedField ∧ decode 0x0007020304000003#64 = .error .reservedCode ∧
    decode 0xFF80000000000000#64 = .error .trailer := by decide

/-! ### Ill-formed terms -/

/-- Terms with a reserved code or a field in use that the form leaves unused are not legal, one for each check. -/
theorem test_illegal :
    ([.iadd h1 2#8 3#8 4#8 3#2, .isub h1 2#8 3#8 4#8 3#2, .imul h1 2#8 3#8 4#8 3#2, .icmp h1 0x91#8 3#8 4#8 10#4, .icmpImm h1 0x91#8 3#8 10#4 0,
      .fcmp h1 0x91#8 3#8 4#8 6#4, .fcmpImm h1 0x91#8 3#8 6#4 0, .cvt h1 2#8 3#8 false 0#4 0#4, .cvt h1 2#8 3#8 true 3#4 0#4,
      .lshfl h1 2#8 3#8 4#8 1#3 0#2, .lshfl h1 2#8 3#8 4#8 1#3 3#2, .lbcst h1 2#8 3#8 4#8 true, .lredx h1 2#8 3#8 11#4,
      .lscan h1 2#8 3#8 11#4 false, .spk24 h1 2#8 3#8 3#2, .ld h1 2#8 4#8 0x88#8 ⟨7#4, 0#3, 0#2, 0#4, 0#11⟩,
      .ld h1 2#8 4#8 0x88#8 ⟨4#4, 6#3, 0#2, 0#4, 0#11⟩, .ld h1 2#8 4#8 0x88#8 ⟨4#4, 0#3, 2#2, 0#4, 0#11⟩,
      .st h1 2#8 4#8 0x88#8 ⟨4#4, 0#3, 1#2, 0#4, 0#11⟩, .pref h1 4#8 0x88#8 ⟨5#4, 0#3, 0#2, 0#4, 0#11⟩,
      .atom h1 2#8 4#8 6#8 ⟨14#4, 0#3, 0#2, 0#4, 0#11⟩, .cas h1 2#8 4#8 6#8 ⟨3#4, 0#3, 0#2, 0#4, 0#11⟩,
      .red h1 2#8 4#8 ⟨0#4, 0#3, 1#2, 0#4, 0#11⟩, .stt h1 0x91#8 4#8 6#8 ⟨4#4, 0#3, 1#2, 0#4, 0#11⟩,
      .retract h1 0x91#8 4#8 ⟨4#4, 0#3, 2#2, 0#4, 0#11⟩, .commit h1 4#8 ⟨3#4, 0#3, 0#2, 0#4, 0#11⟩, .fenceFull h1 6#3 0#4,
      .fenceWb h1 4#8 6#8 6#3 0#4, .mwait h1 2#8 4#8 6#8 ⟨4#4, 0#3, 2#2, 0#4, 0#11⟩, .joinh h1 0#7, .joinh h1 65#7, .bar h1 3#2 0#4,
      .bara h1 1#2 8#4, .barw h1 2#2 4#4, .cpyg h1 2#8 4#8 6#8 8#8 false 1#2, .cpyt h1 2#8 4#8 6#8 8#8 false 1#2,
      .mmul h1 2#8 4#8 6#8 8#8 0#4 false 1#2, .scost h1 2#8 4#8 6#8 3#2 false, .hjoin h1 2#8 0x98#8 11#4] : List Instr).all
      (fun i => !i.legal) = true := by decide

/-- Terms with an operand code of a class that its position does not accept, one for each class. -/
theorem test_wrong_class :
    ([.iadd h1 0x88#8 3#8 4#8 0#2, .iadd h1 2#8 0x91#8 4#8 0#2, .iadd h1 2#8 3#8 0xA0#8 0#2, .idiv h1 0x80#8 3#8 4#8 true false,
      .icmp h1 2#8 3#8 4#8 0#4, .sel h1 2#8 3#8 4#8 5#8 false, .mov h1 3#8 4#8 true, .mov h1 2#8 5#8 true, .movhi h1 3#8 4#8 0,
      .cvt h1 3#8 4#8 false 6#4 3#4, .lvote h1 2#8 3#8 0#2, .lvote h1 0x91#8 0x91#8 3#2, .vcompact h1 3#8 4#8 5#8 0x91#8 false,
      .pand h1 0x91#8 2#8 0x92#8 false false, .wsync h1 0x88#8, .ld h1 0x80#8 4#8 0x88#8 ⟨4#4, 0#3, 0#2, 0#4, 0#11⟩,
      .ld h1 2#8 5#8 0x88#8 ⟨4#4, 0#3, 0#2, 0#4, 0#11⟩, .ld h1 2#8 4#8 0x88#8 ⟨6#4, 0#3, 0#2, 0#4, 0#11⟩,
      .atom h1 2#8 4#8 0x80#8 ⟨0#4, 0#3, 0#2, 0#4, 0#11⟩, .atom h1 2#8 4#8 7#8 ⟨12#4, 0#3, 0#2, 0#4, 0#11⟩, .brx h1 3#8, .clock h1 3#8,
      .tdset h1 4#8 8#8, .tdget h1 8#8 4#8, .ftest h1 0x91#8 0x88#8, .fwait h1 2#8 5#8, .hldr h1 2#8 4#8, .hjoin h1 2#8 4#8 0#4] :
      List Instr).all (fun i => i.legal && !i.classes) = true := by decide

/-! ### Single steps -/

/-- The state in which an instruction issues in one thread. -/
def sit (i : Instr) : State := State.reset.withFetchWord 64 (encode i).toNat

/-- The same, with registers of the thread set first. -/
def sitG (g : List (Nat × W32)) (i : Instr) : State := (sit i).modLane fetchKey 0 fun l => { l with g := g }

/-- The state after an outcome, if it is a next state. -/
def next? (o : Host.Outcome State Fault Refusal) : Option State := match o with | .next t => some t | _ => none

/-- The results in flight of the thread after one step: code and value. -/
def results (s : State) : Option (List (Nat × W32)) :=
  (next? (step s)).map fun t => (t.laneAt fetchKey 0).inflight.map fun x => (x.code, x.val)

/-- The table of IADD, ISUB, IMUL and IMULH (chapter 24). -/
theorem test_integer_table :
    results (sitG [(3, 0x7FFFFFFF#32), (4, 1#32)] (.iadd h1 2#8 3#8 4#8 1#2)) = some [(2, 0x7FFFFFFF#32)] ∧
    results (sitG [(3, 0x7FFFFFFF#32), (4, 1#32)] (.iadd h1 2#8 3#8 4#8 0#2)) = some [(2, 0x80000000#32)] ∧
    results (sitG [(3, 3#32), (4, 5#32)] (.isub h1 2#8 3#8 4#8 2#2)) = some [(2, 0#32)] ∧
    results (sitG [(3, 0x10000#32), (4, 0x8000#32)] (.imul h1 2#8 3#8 4#8 1#2)) = some [(2, 0x7FFFFFFF#32)] ∧
    results (sitG [(3, 0xFFFFFFFF#32), (4, 2#32)] (.imulh h1 2#8 3#8 4#8 true)) = some [(2, 1#32)] ∧
    results (sitG [(3, 0xFFFFFFFF#32), (4, 2#32)] (.imulh h1 2#8 3#8 4#8 false)) = some [(2, 0xFFFFFFFF#32)] := by decide

/-- The table of ROT and SAR (chapter 26). -/
theorem test_shift_table :
    results (sitG [(3, 0x80000001#32), (4, 33#32)] (.rot h1 2#8 3#8 4#8 false)) = some [(2, 3#32)] ∧
    results (sitG [(3, 0x12#32), (4, 4#32)] (.rot h1 2#8 3#8 4#8 true)) = some [(2, 0x20000001#32)] ∧
    results (sitG [(3, 0x80000010#32), (4, 4#32)] (.sar h1 2#8 3#8 4#8)) = some [(2, 0xF8000001#32)] ∧
    results (sitG [(3, 0x80000010#32), (4, 40#32)] (.sar h1 2#8 3#8 4#8)) = some [(2, 0xFFFFFFFF#32)] := by decide

/-- The result of a long-latency word that waits for its register. -/
def mathResult (s : State) : Option (List W32) := (next? (step s)).map fun t => t.maths.map (·.val)

/-- The table of IDIV (chapter 24): quotient and remainder. -/
theorem test_division_table :
    mathResult (sitG [(3, 0xFFFFFFF9#32), (4, 2#32)] (.idiv h1 2#8 3#8 4#8 true false)) = some [0xFFFFFFFD#32] ∧
    mathResult (sitG [(3, 0xFFFFFFF9#32), (4, 2#32)] (.idiv h1 2#8 3#8 4#8 true true)) = some [0xFFFFFFFF#32] ∧
    mathResult (sitG [(3, 7#32), (4, 0#32)] (.idiv h1 2#8 3#8 4#8 false false)) = some [0xFFFFFFFF#32] ∧
    mathResult (sitG [(3, 0x80000000#32), (4, 0xFFFFFFFF#32)] (.idiv h1 2#8 3#8 4#8 true false)) = some [0x80000000#32] ∧
    mathResult (sitG [(3, 0x80000000#32), (4, 0xFFFFFFFF#32)] (.idiv h1 2#8 3#8 4#8 true true)) = some [0#32] := by decide

/-- Float results that the format fixes (R109 to R111): 1.5 + 2.25, 1.5 × 2.25, infinity less infinity, and the order of the zeros. -/
theorem test_float :
    results (sitG [(3, 0x3FC00000#32), (4, 0x40100000#32)] (.fadd h1 2#8 3#8 4#8)) = some [(2, 0x40700000#32)] ∧
    results (sitG [(3, 0x3FC00000#32), (4, 0x40100000#32)] (.fmul h1 2#8 3#8 4#8)) = some [(2, 0x40580000#32)] ∧
    results (sitG [(3, 0x7F800000#32), (4, 0x7F800000#32)] (.fsub h1 2#8 3#8 4#8)) = some [(2, 0x7FC00000#32)] ∧
    results (sitG [(3, 0#32), (4, 0x80000000#32)] (.fmin h1 2#8 3#8 4#8)) = some [(2, 0x80000000#32)] := by decide

/-- A word that reads as no instruction raises ILLOP, which stops a context that has no handler (R88, R97): STATUS gives cause 0. -/
theorem test_illop_stops :
    (next? (step (State.reset.withFetchWord 64 0x0F80000000000000))).map (fun t => ((t.ctxAt 0).stopped, bitsN (t.ctxAt 0).status.toNat 63 32)) =
      some (true, 0x80000000 + cIllop * 256) := by decide

/-- Reset lists nothing in byte storage, which is in canonical form. -/
theorem reset_inv : State.reset.Inv := by decide

/-- Writing the unlisted byte takes an entry away, and equal memories are equal lists (log 3). -/
theorem test_memory_canonical :
    memWrite [(4, 1#8), (9, 2#8)] 8 2 0x0300 = [(4, 1#8), (9, 3#8)] ∧ memWrite [(4, 1#8), (9, 2#8)] 9 1 0 = [(4, 1#8)] ∧
    memRead [(4, 1#8), (5, 2#8)] 4 4 = 0x0201 := by decide

/-! ### States that meet the hypotheses of the statements -/

/-- The word whose turn it is. -/
def curOf (s : State) : Cur := (cur? s).getD ⟨0, fetchKey, 0, blankWarp fetchKey, newPath 0 0, fetchRun 0, 0, []⟩

/-- What `Issues` asks, as a test. -/
def issuesB (i : Instr) (s : State) : Bool := match cur? s with | some c => wordCheck c i == none | none => false

theorem issues_of {i : Instr} {s : State} (h : issuesB i s = true) : Issues i s (curOf s) := by
  unfold issuesB at h
  unfold curOf
  split at h
  · rename_i c hc
    exact ⟨by rw [hc]; rfl, by rw [hc]; exact eq_of_beq h⟩
  · exact absurd h (by decide)

theorem cur_of {s : State} (h : (cur? s).isSome = true) : cur? s = some (curOf s) := by
  unfold curOf
  cases hc : cur? s with
  | none => rw [hc] at h; exact absurd h (by decide)
  | some c => rfl

theorem ok_of {ε α : Type} {x : Except ε α} (h : x.isOk = true) : ∃ v, x = .ok v := by
  cases x with
  | ok v => exact ⟨v, rfl⟩
  | error e => exact absurd h (by simp [Except.isOk, Except.toBool])

theorem some_of {α : Type} {x : Option α} (h : x.isSome = true) : ∃ v, x = some v := Option.isSome_iff_exists.mp h

/-- A page table with one page of 1 GiB at address 0, kind C, that all may read, write and fetch, onto the HBM's first GiB. -/
def pages : Memory := [(0x1000, 0x01#8), (0x1001, 0x20#8), (0x2000, 0x01#8), (0x2001, 0x30#8), (0x3000, 0x3B#8), (0x3001, 0x01#8)]

/-- Context 0 with that page table, a handler at 0x8000 and trap slots from 0x10000, BOOT READY. -/
def paged (s : State) : State :=
  { s with
    mem := pages
    ctxs := [{ blankCtx 0 with
      live := true
      hdr := 1#512 <<< 472
      csr := [(0x1C, 0x8000#32), (0x1E, 0x10000#32)] }] }

/-- Lane 0 of the issuing thread changed. -/
def onLane (f : Lane → Lane) (s : State) : State := s.modLane fetchKey 0 f
/-- The path of the issuing thread changed. -/
def onPath (f : Path → Path) (s : State) : State := s.modWarp fetchKey fun w => w.modPath 0 f
/-- The run of the issuing thread changed. -/
def onRun (f : InRun → InRun) (s : State) : State := onPath (fun p => { p with inRun := p.inRun.map f }) s

/-- An access of the issuing thread to four bytes at a key. -/
def acc (kind : AccKind) (key : Nat) : Access :=
  { id := 7, grp := 7, half := false, kind := kind, ctx := 0, w := fetchKey, lane := 0, wid := 0, launch := 0, loc := .mem key, va := 0x4000,
    bytes := 4, page := .C, sem := 0, scope := 4, ty := 0, data := 0x01020304, wide := 0, cmp := 0, dst := 2, flag := some 0, walk := none,
    mask := 1, pc := 0, base := 0, fences := [], agent := ⟨0, some (0, 0), some 0, some (0, 0), some 0, true, true⟩, fcs := 0, fu := 0, rel := 0, tkey := 0,
    ts := 0, st := .pending, result := 0 }

/-- An engine command of the issuing thread in slot 3 of core 0. -/
def cmd (kind : EngKind) (st : OpState) : EngOp :=
  { core := 0, slot := 3, seq := 1, born := 5, issued := 1, kind := kind, ctx := 0, launch := 0, blk := 0, w := fetchKey, lanes := 1, dst := 10,
    epc := 0, ga := 0, gb := 0, gc := 0, ectl := 0, laneArgs := [], descs := [], fpctl := 8, heap := 0, slim := 0, flat := 0, vals := [],
    state := st, snaps := [], prog := 0, acc := 0, status := 0, laneSub := [], sectorsDone := [], reports := 0, target := none,
    resolved := false, retained := false, cancelReq := false, gone := false, file := [], asked := [], far := [], waits := [] }

/-- The command's reference. -/
def cmdRef : FutRef := ⟨0, 3, 1⟩

theorem witness_IntegerWordsComplete : ∃ i r s c, intRow i = some r ∧ Issues i s c :=
  ⟨.iadd h1 2#8 3#8 4#8 1#2, _, sit (.iadd h1 2#8 3#8 4#8 1#2), _, rfl, issues_of rfl⟩

theorem witness_BitWordsComplete : ∃ i r s c, bitRow i = some r ∧ Issues i s c :=
  ⟨.shl h1 127#8 3#8 4#8, _, sit (.shl h1 127#8 3#8 4#8), _, rfl, issues_of rfl⟩

theorem witness_PredicateWordsComplete : ∃ i r s c, predRow i = some r ∧ Issues i s c :=
  ⟨.pand h1 0x90#8 0x97#8 0x96#8 true false, _, sit (.pand h1 0x90#8 0x97#8 0x96#8 true false), _, rfl, issues_of rfl⟩

theorem witness_FloatWordsComplete : ∃ i r s c, floatRow i = some r ∧ Issues i s c :=
  ⟨.ffma h1 2#8 3#8 4#8 5#8, _, sit (.ffma h1 2#8 3#8 4#8 5#8), _, rfl, issues_of rfl⟩

theorem witness_FloatOrderOfNansAndZeros : isNan32 0x7F800001#32 = true ∧ isNan32 0xFFC00000#32 = true := by decide

theorem witness_NanResultsAreTheDefaultNan : isNan32 (fsub32 8#32 0x7F800000#32 0x7F800000#32) = true ∧ isNan32 0x7FC00001#32 = true := by
  decide

/-- A word of the family; 32 values; and two positions of a group that SPK24 keeps, of each format. -/
theorem witness_CrossLaneWordsComplete :
    (∃ i r s c, laneRow i = some r ∧ Issues i s c) ∧ (∃ vs : List W32, vs.length = 32) ∧
    ∀ fmt ∈ [0#2, 1#2, 2#2], (3#2 ≠ fmt) ∧ keeps fmt [1, 5, 5, 3] 1 ∧ keeps fmt [1, 5, 5, 3] 2 :=
  ⟨⟨.lredx h1 2#8 3#8 10#4, _, sit (.lredx h1 2#8 3#8 10#4), _, rfl, issues_of rfl⟩, ⟨List.replicate 32 0, rfl⟩, by
    unfold keeps magnitude
    decide +kernel⟩

/-- K in range at both ends, .idx, and K out of range. -/
theorem witness_ShuffleReadsItsSourceLane :
    (∀ k ∈ [1#3, 5#3], ∃ s c, Issues (.lshfl h1 2#8 3#8 0#8 k 0#2) s c) ∧ (∃ s c, Issues (.lshfl h1 2#8 3#8 4#8 0#3 3#2) s c) ∧
    ∀ k ∈ [0#3, 6#3], ∃ s c, Issues (.lshfl h1 2#8 3#8 0#8 k 1#2) s c := by
  refine ⟨?_, ⟨sit (.lshfl h1 2#8 3#8 4#8 0#3 3#2), _, issues_of rfl⟩, ?_⟩
  · intro k hk
    simp only [List.mem_cons, List.not_mem_nil, or_false] at hk
    obtain rfl | rfl := hk
    · exact ⟨sit (.lshfl h1 2#8 3#8 0#8 1#3 0#2), _, issues_of rfl⟩
    · exact ⟨sit (.lshfl h1 2#8 3#8 0#8 5#3 0#2), _, issues_of rfl⟩
  · intro k hk
    simp only [List.mem_cons, List.not_mem_nil, or_false] at hk
    obtain rfl | rfl := hk
    · exact ⟨sit (.lshfl h1 2#8 3#8 0#8 0#3 1#2), _, issues_of rfl⟩
    · exact ⟨sit (.lshfl h1 2#8 3#8 0#8 6#3 1#2), _, issues_of rfl⟩

/-- A CSRR; a TDGET without an acquire before it, and one with. -/
theorem witness_ReadingWordsComplete :
    (∃ r s c, readRow (.csrr h1 2#8 5#12) = some r ∧ Issues (.csrr h1 2#8 5#12) s c) ∧
    (∃ r s c, readRow (.tdget h1 16#8 4#8) = some r ∧ Issues (.tdget h1 16#8 4#8) s c ∧ ∀ l ∈ active s c h1, acquireOpen s c l = false) ∧
    ∃ s c, Issues (.tdget h1 16#8 4#8) s c ∧ ∃ l ∈ active s c h1, acquireOpen s c l = true := by
  refine ⟨⟨_, sit (.csrr h1 2#8 5#12), _, rfl, issues_of rfl⟩, ⟨_, sit (.tdget h1 16#8 4#8), _, rfl, issues_of rfl, ?_⟩,
    ⟨{ sit (.tdget h1 16#8 4#8) with accesses := [{ acc .ld 0x4000 with sem := 1 }] }, _, issues_of rfl, _, .head _, rfl⟩⟩
  intro l hl
  obtain rfl := List.mem_singleton.mp hl
  rfl

/-- A word of the family; a NaN, and a negative normal number at both ends. -/
theorem witness_LongArithmeticIssues : (∃ i r s c, longRow i = some r ∧ Issues i s c) ∧ isNan32 0xFFFFFFFF#32 = true ∧
    ∀ x ∈ [0x80800000#32, 0xFF7FFFFF#32], x.msb = true ∧ 0x00800000 ≤ x.toNat % 2 ^ 31 ∧ x.toNat % 2 ^ 31 < 0x7F800000 :=
  ⟨⟨.idiv h1 2#8 3#8 4#8 true false, _, sit (.idiv h1 2#8 3#8 4#8 true false), _, rfl, issues_of rfl⟩, by decide, by
    intro x hx
    simp only [List.mem_cons, List.not_mem_nil, or_false] at hx
    obtain rfl | rfl := hx <;> exact ⟨rfl, by decide, by decide⟩⟩

/-- A result that waits for a lane that stands, at both ends of the registers. -/
theorem witness_LongArithmeticLands : ∀ dst ∈ [0, 127], ∃ (m : MathOp) (s : State), s.maths.find? (fun x => x.id == 9) = some m ∧ m.dst = dst ∧ m.dst < 128 ∧
    (m.queued = true ∨ specialsFirst s m.w m.lane = false) ∧ ∃ w, s.warpAt? m.w = some w ∧ w.hasLane m.lane := by
  intro dst h
  refine ⟨⟨9, fetchKey, 0, dst, 42#32, 1, false⟩, { sit (.nop h1) with maths := [⟨9, fetchKey, 0, dst, 42#32, 1, false⟩] }, rfl, rfl, ?_, .inr rfl, _, rfl, _, .head _, rfl⟩
  simp only [List.mem_cons, List.not_mem_nil, or_false] at h
  show dst < 128
  omega

/-- What `Passes` asks, as a test. -/
def passesB (s : State) (c : Cur) (r : MemRow) : Bool :=
  (active s c r.hdr).all fun l =>
    (!r.form.store || l.noMatch == some c.pc || watchHit (s.ctxAt c.w.ctx) 16 (r.addr s l).toNat r.form.bytes == none) &&
      (checkAccess s c.w r.form l (r.addr s l).toNat).isOk

theorem passes_of {s : State} {c : Cur} {r : MemRow} (h : passesB s c r = true) : Passes s c r := by
  intro l hl
  have h := List.all_eq_true.mp h l hl
  simp only [Bool.and_eq_true, Bool.or_eq_true, Bool.not_eq_true', beq_iff_eq] at h
  refine ⟨fun hs hn => ?_, ok_of h.2⟩
  rcases h.1 with (h1 | h1) | h1
  · rw [hs] at h1; exact absurd h1 (by decide)
  · exact absurd h1 hn
  · exact h1

/-- A load and a store through the page table. -/
theorem witness_MemoryWordsIssue :
    (∃ i r s c, memRow i = some r ∧ Issues i s c ∧ Passes s c r ∧ r.form.kind = .ld) ∧
    ∃ i r s c, memRow i = some r ∧ Issues i s c ∧ Passes s c r ∧ r.form.kind = .st :=
  ⟨⟨.ld h1 2#8 0x88#8 4#8 ⟨4#4, 0#3, 0#2, 0#4, 0#11⟩, _, paged (sitG [(4, 0x4000#32)] (.ld h1 2#8 0x88#8 4#8 ⟨4#4, 0#3, 0#2, 0#4, 0#11⟩)), _,
      rfl, issues_of (by decide +kernel), passes_of (by decide +kernel), rfl⟩,
    ⟨.st h1 0#8 0x88#8 4#8 ⟨6#4, 0#3, 0#2, 0#4, 0#11⟩, _, paged (sitG [(4, 0x4000#32)] (.st h1 0#8 0x88#8 4#8 ⟨6#4, 0#3, 0#2, 0#4, 0#11⟩)), _,
      rfl, issues_of (by decide +kernel), passes_of (by decide +kernel), rfl⟩⟩

theorem witness_MisalignedAddressesRaiseMisalign : ∃ i r s l, memRow i = some r ∧ (r.addr s l).toNat % r.form.bytes ≠ 0 :=
  ⟨.ld h1 2#8 0x88#8 4#8 ⟨4#4, 0#3, 0#2, 0#4, 0#11⟩, _, sit (.nop h1), { blankLane 0 with g := [(4, 3#32)] }, rfl, by decide⟩

/-- What a load asks beside its place, in a state. -/
def LoadMeets (s : State) (a : Access) (key : Nat) : Prop :=
  s.accesses.find? (fun x => x.id == a.id) = some a ∧ canPerform s a = true ∧ failedPort? s a = none ∧ a.kind = .ld ∧ a.loc = .mem key ∧
    anyForeign s key a.bytes a.tkey = false ∧ ∀ e ∈ (s.coreAt a.w.core).l1, e.line = lineOf key → ∀ i < a.bytes, foreignIn s e.tags (key + i) a.tkey = false

/-- A load of the line at 0x4000, with an L1. -/
def loading (l1 : List L1Line) (sem : BitVec 2) : State :=
  { sit (.nop h1) with accesses := [{ acc .ld 0x4000 with sem := sem }], cores := [{ blankCore 0 with l1 := l1 }] }

/-- That line as an L1 may hold it. -/
def heldLine : L1Line := ⟨lineOf 0x4000, [(0x4000, 9#8)], [], .C, 1⟩

/-- The halves of a 16-byte load of scratch: the low one waits behind the high one. -/
def halves : State :=
  { sit (.nop h1) with
    accesses := [{ acc .ld (scratchKey 0 0) with bytes := 8 }, { acc .ld (scratchKey 0 8) with id := 8, bytes := 8, half := true, dst := 4 }] }

/-- A load of a line that does not stand in the L1, of one that does, and an acquire; two lanes that load the same bytes; and a 16-byte
load of scratch. -/
theorem witness_LoadsReadTheirBytes :
    (∀ l1 ∈ [[], [heldLine]], ∀ sem ∈ [0#2, 1#2], LoadMeets (loading l1 sem) { acc .ld 0x4000 with sem := sem } 0x4000 ∧
      otherHalf? (loading l1 sem) { acc .ld 0x4000 with sem := sem } = none) ∧
    (∃ s b, LoadMeets s (acc .ld 0x4000) 0x4000 ∧ sameLoads s (acc .ld 0x4000) = [acc .ld 0x4000, b]) ∧
    ∃ h, LoadMeets halves { acc .ld (scratchKey 0 8) with id := 8, bytes := 8, half := true, dst := 4 } (scratchKey 0 8) ∧
      otherHalf? halves { acc .ld (scratchKey 0 8) with id := 8, bytes := 8, half := true, dst := 4 } = some h ∧ h.kind = .ld ∧
      failedPort? halves h = none ∧ h.loc = .mem (scratchKey 0 0) ∧ h.flag.isSome = true ∧ isScratchKey (scratchKey 0 0) = true := by
  have held : ∀ i < 4, foreignIn (sit (.nop h1)) [] (0x4000 + i) 0 = false := by decide +kernel
  refine ⟨?_, ⟨{ sit (.nop h1) with accesses := [acc .ld 0x4000, { acc .ld 0x4000 with id := 8, lane := 1 }] },
      { acc .ld 0x4000 with id := 8, lane := 1 }, ⟨rfl, by decide +kernel, rfl, rfl, rfl, rfl, by intro e he; exact absurd he List.not_mem_nil⟩, rfl⟩,
    ⟨{ acc .ld (scratchKey 0 0) with bytes := 8 }, ⟨rfl, by decide +kernel, rfl, rfl, rfl, by decide +kernel, by intro e he; exact absurd he List.not_mem_nil⟩,
      by decide +kernel, rfl, by decide +kernel, rfl, rfl, by decide +kernel⟩⟩
  intro l1 hl sem hs
  have hp : ∀ l1 ∈ [[], [heldLine]], ∀ sem ∈ [0#2, 1#2], canPerform (loading l1 sem) { acc .ld 0x4000 with sem := sem } = true := by decide +kernel
  refine ⟨⟨rfl, hp l1 hl sem hs, rfl, rfl, rfl, rfl, ?_⟩, rfl⟩
  intro e he _ i hi
  simp only [List.mem_cons, List.not_mem_nil, or_false] at hl
  obtain rfl | rfl := hl
  · exact absurd he List.not_mem_nil
  · obtain rfl := List.mem_singleton.mp he
    exact held i hi

theorem witness_StoresWriteTheirBytes :
    let a := acc .st 0x4000
    let s := { sit (.nop h1) with accesses := [acc .st 0x4000] }
    s.accesses.find? (fun x => x.id == a.id) = some a ∧ otherHalf? s a = none ∧ canPerform s a = true ∧ failedPort? s a = none ∧ a.kind = .st ∧
      a.loc = .mem 0x4000 ∧ s.Inv ∧ stackOffset a.va.toNat = none := ⟨rfl, rfl, rfl, rfl, rfl, rfl, rfl, rfl⟩

/-- An atomic's hypotheses. -/
def AtomMeets (k : AccKind) (cmp : W64) : Prop :=
  let a := { acc k 0x4000 with cmp := cmp }
  let s := { sit (.nop h1) with accesses := [{ acc k 0x4000 with cmp := cmp }] }
  s.accesses.find? (fun x => x.id == a.id) = some a ∧ otherHalf? s a = none ∧ canPerform s a = true ∧ failedPort? s a = none ∧ (a.kind = .atom ∨ a.kind = .red ∨ a.kind = .cas) ∧
    a.loc = .mem 0x4000 ∧ s.Inv ∧ anyForeign s 0x4000 a.bytes a.tkey = false

/-- ATOM, RED, and a CAS that matches (memory reads 0) and one that does not. -/
theorem witness_AtomicsReadModifyWrite : AtomMeets .atom 0 ∧ AtomMeets .red 0 ∧ AtomMeets .cas 0 ∧ AtomMeets .cas 1 :=
  ⟨⟨rfl, rfl, rfl, rfl, .inl rfl, rfl, rfl, rfl⟩, ⟨rfl, rfl, rfl, rfl, .inr (.inl rfl), rfl, rfl, rfl⟩,
    ⟨rfl, rfl, rfl, rfl, .inr (.inr rfl), rfl, rfl, rfl⟩, ⟨rfl, rfl, rfl, rfl, .inr (.inr rfl), rfl, rfl, rfl⟩⟩

theorem witness_DecodeInvertsEncode :
    (Instr.mmul h1 2#8 4#8 6#8 8#8 15#4 true 3#2).isEvent = false ∧ (Instr.mmul h1 2#8 4#8 6#8 8#8 15#4 true 3#2).legal = true := by decide

theorem witness_EncodeInvertsDecode : decode 0x0007020304000001#64 = .ok (.iadd h1 2#8 3#8 4#8 1#2) := by decide

/-- A word that decodes, one that does not, an event of the agenda, and neither. -/
theorem witness_StepRunsTheDecodedWord :
    (∃ s c, cur? s = some c ∧ decode (nextWord c.r) = .ok (.nop h1)) ∧
    (∃ s c, cur? s = some c ∧ decode (nextWord c.r) = .error .reservedOpcode) ∧
    (∃ s : State, s.issueQ = [] ∧ s.agenda = [.kilnLogMirror] ∧ (Instr.kilnLogMirror).isEvent = true) ∧ ∃ s : State, s.issueQ = [] ∧ s.agenda = [] :=
  ⟨⟨sit (.nop h1), _, rfl, rfl⟩, ⟨State.reset.withFetchWord 64 0x0F80000000000000, _, rfl, rfl⟩,
    ⟨{ State.reset with agenda := [.kilnLogMirror] }, rfl, rfl, rfl⟩, ⟨State.reset, rfl, rfl⟩⟩

theorem witness_StepNeverStops : agendaOk State.reset := fun _ h => nomatch h

/-- A lane that nothing has happened to; and a lent lane of a group whose recruiter is lane 0 of a warp. -/
theorem witness_OperandsReadAsCoded :
    ((blankLane 31).helper = none ∧ (blankLane 31).inflight = []) ∧
    ∃ (s : State) (l : Lane) (h : HelperPart) (t : Lent) (g : HelperGroup), l.helper = some h ∧ h.lent = some t ∧ h.inBody = true ∧
      s.groupAt? h.grp = some g ∧ (s.laneAt g.w g.lane).inflight = [] :=
  ⟨⟨rfl, rfl⟩,
    { sit (.nop h1) with groups := [⟨4, fetchKey, 0, 2, 1, 0, 0, [], [], [], []⟩] },
    { blankLane 1 with helper := some ⟨4, 0, 0, none, true, 0, some ⟨[], 0, [], false, 0⟩⟩ }, _, _, _, rfl, rfl, rfl, rfl, rfl⟩

/-- A complete result, and one still in flight. -/
theorem witness_ResultsAreSeen :
    (∃ l : Lane, l.inflight = [] ++ ⟨2, 5#32, 1, 3⟩ :: [] ∧ 3 ≤ 3) ∧ ∃ l : Lane, ∀ x ∈ l.inflight, x.code = 2 → 2 < x.due :=
  ⟨⟨{ blankLane 0 with inflight := [⟨2, 5#32, 1, 3⟩] }, rfl, by decide⟩,
    { blankLane 0 with inflight := [⟨2, 5#32, 1, 3⟩] }, by decide⟩

/-- ILLOP, ILLOPND and RANGE. -/
theorem witness_FailedChecksTrapInOrder :
    (∃ s c m, cur? s = some c ∧ wordCheck c (.iadd h1 2#8 3#8 4#8 3#2) = some (cIllop, m)) ∧
    (∃ s c m, cur? s = some c ∧ wordCheck c (.iadd h1 0x88#8 3#8 4#8 0#2) = some (cIllopnd, m)) ∧
    ∃ s c m, cur? s = some c ∧ wordCheck c (.iadd h1 2#8 3#8 16#8 0#2) = some (cRange, m) :=
  ⟨⟨sit (.nop h1), _, _, rfl, rfl⟩, ⟨sit (.nop h1), _, _, rfl, rfl⟩,
    ⟨(sit (.nop h1)).modWarp fetchKey (fun w => { w with nreg := 16 }), _, _, rfl, rfl⟩⟩

theorem handled {s : State} {w : Warp} (h : (s.ctxFor 0 w.ctx).csr64 0x1C = 0x8000 := by decide +kernel) : hasHandler s fetchKey w := by
  unfold hasHandler
  rw [show fetchKey.core = 0 from rfl, h]
  decide

theorem stopping {s : State} {w : Warp} (h : ((s.ctxFor 0 w.ctx).csrOf 0x13).getLsbD 0 = false := by decide +kernel) :
    faultStops s fetchKey w := h

/-- A word of a context with a handler; out of trap mode and in it. -/
theorem witness_WordCausesRaiseTheirTrap :
    (∃ s c, cur? s = some c ∧ bodyOf c = [] ∧ hasHandler s c.key c.w ∧ c.p.handler = false ∧ c.w.trapMode = false ∧ c.w.trapReq = none) ∧
    ∃ s c, cur? s = some c ∧ bodyOf c = [] ∧ hasHandler s c.key c.w ∧ c.p.handler = false ∧ c.w.trapMode = true :=
  ⟨⟨paged (sit (.nop h1)), _, rfl, rfl, handled, rfl, rfl, rfl⟩,
    ⟨(paged (sit (.nop h1))).modWarp fetchKey (fun w => { w with trapMode := true }), _, rfl, rfl, handled, rfl, rfl⟩⟩

/-- No handler; and a cause in the handler. -/
theorem witness_CausesStopTheirContext :
    (∃ s c, cur? s = some c ∧ bodyOf c = [] ∧ ¬ hasHandler s c.key c.w ∧ (s.ctxAt c.w.ctx).stopped = false) ∧
    ∃ s c, cur? s = some c ∧ bodyOf c = [] ∧ hasHandler s c.key c.w ∧ c.p.handler = true ∧ (s.ctxAt c.w.ctx).stopped = false :=
  ⟨⟨sit (.nop h1), _, rfl, rfl, fun h => h (by decide +kernel), rfl⟩,
    ⟨onPath (fun p => { p with handler := true }) (paged (sit (.nop h1))), _, rfl, rfl, handled, rfl, rfl⟩⟩

/-- The launch lists barriers 0 of the block and of the grid. -/
def barred (s : State) : State := { s with launches := [{ blankLaunch with started := true, record := 1#512 <<< 33 }] }

/-- A word without conditions, CSRW of a register that it may write, and an arrival at a barrier that the launch lists. -/
theorem witness_RunEndWordsNote :
    (∃ i r s c, noteRow i = some r ∧ Issues i s c ∧ r.ok s c) ∧
    (∃ s c, ∃ r, noteRow (.csrw h1 2#8 0x10#12) = some r ∧ Issues (.csrw h1 2#8 0x10#12) s c ∧ r.ok s c) ∧
    ∃ s c, ∃ r, noteRow (.bar h1 0#2 0#4) = some r ∧ Issues (.bar h1 0#2 0#4) s c ∧ r.ok s c :=
  ⟨⟨.exit h1, _, sit (.exit h1), _, rfl, issues_of rfl, trivial⟩,
    ⟨sit (.csrw h1 2#8 0x10#12), _, _, rfl, issues_of rfl, rfl⟩,
    ⟨barred (sit (.bar h1 0#2 0#4)), _, _, rfl, issues_of (by decide +kernel), rfl, by decide +kernel⟩⟩

/-- CSRW of CTX and, out of the handler, of TRAPBASE; a second arrival; a barrier that the launch does not list. -/
theorem witness_SystemWordsRefuse :
    (∃ s c, Issues (.csrw h1 2#8 4#12) s c ∧ (csrInfo (4#12).toNat).map (·.2) = some .ro) ∧
    (∃ s c, Issues (.csrw h1 2#8 0x1C#12) s c ∧ (csrInfo (0x1C#12).toNat).map (·.2) = some .tw ∧ c.p.handler = false) ∧
    (∃ s c, Issues (.bar h1 0#2 15#4) s c ∧ arrivedBefore c 0#2 15#4 = true) ∧
    ∃ s c, Issues (.barw h1 2#2 3#4) s c ∧ arrivedBefore c 2#2 3#4 = false ∧ (s.launchOf c.w).hasBar 2 3 = false :=
  ⟨⟨sit (.csrw h1 2#8 4#12), _, issues_of rfl, rfl⟩, ⟨sit (.csrw h1 2#8 0x1C#12), _, issues_of rfl, rfl, rfl⟩,
    ⟨onRun (fun r => { r with words := [encode (.bara h1 0#2 15#4), encode (.bar h1 0#2 15#4)], idx := 1 }) (sit (.nop h1)), _, issues_of rfl, rfl⟩,
    ⟨sit (.barw h1 2#2 3#4), _, issues_of rfl, rfl, by decide +kernel⟩⟩

/-- A branch, and ENTER of a frame that just fits. -/
theorem witness_BranchAndStackWordsComplete :
    (∃ i r s c, stackRow i = some r ∧ Issues i s c ∧ ∀ l ∈ active s c r.hdr, r.ok s c l) ∧
    ∃ r s c, stackRow (.enter h1 255#11) = some r ∧ Issues (.enter h1 255#11) s c ∧ ∀ l ∈ active s c r.hdr, r.ok s c l := by
  refine ⟨⟨.bra h1 0xFFFFFFFF#32, _, sit (.bra h1 0xFFFFFFFF#32), _, rfl, issues_of rfl, fun _ _ => trivial⟩,
    ⟨_, sit (.enter h1 255#11), _, rfl, issues_of rfl, ?_⟩⟩
  have h : ∀ l ∈ active (sit (.enter h1 255#11)) (curOf (sit (.enter h1 255#11))) h1, depthOf false l + (16 + 16 * (255#11).toNat) ≤ limitOf false l := by
    decide
  exact h

/-- ENTER of a frame that is 16 bytes too large, and a misaligned load and store, in a context with a handler. -/
theorem witness_FaultingLanesTrap :
    ∀ i ∈ [Instr.enter h1 256#11, .ld h1 2#8 0x88#8 4#8 ⟨4#4, 0#3, 0#2, 0#4, 0#11⟩, .st h1 2#8 0x88#8 4#8 ⟨4#4, 0#3, 0#2, 0#4, 0#11⟩],
    ∃ r s c l ls k, faultRow i = some r ∧ Issues i s c ∧ active s c r.hdr = l :: ls ∧ r.cause s c l k ∧ (∀ x ∈ ls, ∃ j, r.cause s c x j) ∧
      (r.store = true → ∀ wp < 4, ((s.ctxAt c.w.ctx).csrOf (0x102 + 4 * wp)).getLsbD 16 = false) ∧ bodyOf c = [] ∧
      hasHandler s c.key c.w ∧ faultStops s c.key c.w ∧ c.p.handler = false ∧ c.w.trapMode = false ∧ c.w.trapReq = none := by
  intro i hi
  simp only [List.mem_cons, List.not_mem_nil, or_false] at hi
  obtain rfl | rfl | rfl := hi
  · refine ⟨_, paged (sit (.enter h1 256#11)), _, _, [], cStack, rfl, issues_of (by decide +kernel), rfl, ?_, by simp,
      fun h => (by cases h), rfl, handled, stopping, rfl, rfl, rfl⟩
    have h : ¬ (depthOf false { blankLane 0 with slim := 4096 } + (16 + 16 * (256#11).toNat) ≤ limitOf false { blankLane 0 with slim := 4096 }) := by
      decide
    exact ⟨h, rfl⟩
  · exact ⟨_, paged (sitG [(4, 3#32)] (.ld h1 2#8 0x88#8 4#8 ⟨4#4, 0#3, 0#2, 0#4, 0#11⟩)), _, _, [], cMisalign, rfl,
      issues_of (by decide +kernel), rfl, ⟨3, rfl⟩, by simp, fun h => (by cases h), rfl, handled, stopping, rfl,
      rfl, rfl⟩
  · exact ⟨_, paged (sitG [(4, 3#32)] (.st h1 2#8 0x88#8 4#8 ⟨4#4, 0#3, 0#2, 0#4, 0#11⟩)), _, _, [], cMisalign, rfl,
      issues_of (by decide +kernel), rfl, ⟨3, rfl⟩, by simp, fun _ => by decide +kernel, rfl, handled, stopping,
      rfl, rfl, rfl⟩

/-- A store of four bytes that watchpoint 0 of the context matches in its byte 0, with a value of DBGCTL. -/
def watched (dbg : W32) : State :=
  (paged (sitG [(4, 0x4000#32)] (.st h1 2#8 0x88#8 4#8 ⟨4#4, 0#3, 0#2, 0#4, 0#11⟩))).modCtx 0 fun x =>
    { x with csr := x.csr ++ [(0x100, 0x4000#32), (0x102, 0x10001#32), (0x110, dbg)] }

/-- A hit without DBGCTL.BKHALT, and with it. -/
theorem witness_WatchHits : ∀ d ∈ [0#32, 1#32], ∃ i r s c n wp b rest, memRow i = some r ∧ r.form.store = true ∧ Issues i s c ∧
    hitLanes s c r = (n, wp, b) :: rest ∧ bodyOf c = [] ∧ (∀ e ∈ hitLanes s c r, c.w.hasLane e.1) ∧
    ((s.ctxAt c.w.ctx).csrOf 0x110).getLsbD 0 = d.getLsbD 0 ∧ hasHandler s c.key c.w ∧ c.p.handler = false ∧ c.w.trapMode = false ∧
    c.w.trapReq = none ∧ c.r.effs = [] ∧ c.w.halt = false ∧ c.w.haltReq = none ∧ c.w.paths = [c.p] := by
  intro d hd
  simp only [List.mem_cons, List.not_mem_nil, or_false] at hd
  obtain rfl | rfl := hd
  · refine ⟨.st h1 2#8 0x88#8 4#8 ⟨4#4, 0#3, 0#2, 0#4, 0#11⟩, _, watched 0#32, _, 0, 0, 0, [], rfl, rfl, issues_of (by decide +kernel),
      by decide +kernel, rfl, ?_, by decide +kernel, handled, rfl, rfl, rfl, rfl, rfl, rfl, rfl⟩
    unfold Warp.hasLane
    decide +kernel
  · refine ⟨.st h1 2#8 0x88#8 4#8 ⟨4#4, 0#3, 0#2, 0#4, 0#11⟩, _, watched 1#32, _, 0, 0, 0, [], rfl, rfl, issues_of (by decide +kernel),
      by decide +kernel, rfl, ?_, by decide +kernel, handled, rfl, rfl, rfl, rfl, rfl, rfl, rfl⟩
    unfold Warp.hasLane
    decide +kernel

/-- TRAP and BKPT, whose guard is true in a lane, and in none; and BKPT under BKHALT. -/
theorem witness_TrapWordsTakeTheirTrap :
    (∃ s c, Issues (.trap h1 0#16) s c ∧ bodyOf c = [] ∧ activeMask s c h1 ≠ 0#32 ∧ hasHandler s c.key c.w ∧ c.p.handler = false ∧
      c.w.trapMode = false ∧ c.w.trapReq = none) ∧
    (∃ s c, Issues (.bkpt ⟨0#3, true, 7#3⟩ 0#16) s c ∧ bodyOf c = [] ∧ ((s.ctxAt c.w.ctx).csrOf 0x110).getLsbD 0 = false ∧
      activeMask s c ⟨0#3, true, 7#3⟩ = 0#32) ∧
    ∃ s c, Issues (.bkpt h1 0#16) s c ∧ bodyOf c = [] ∧ activeMask s c h1 ≠ 0#32 ∧ ((s.ctxAt c.w.ctx).csrOf 0x110).getLsbD 0 = true ∧
      c.r.effs = [] ∧ c.w.halt = false ∧ c.w.haltReq = none ∧ c.w.paths = [c.p] :=
  ⟨⟨paged (sit (.trap h1 0#16)), _, issues_of (by decide +kernel), rfl, by decide +kernel, handled, rfl, rfl, rfl⟩,
    ⟨sit (.bkpt ⟨0#3, true, 7#3⟩ 0#16), _, issues_of rfl, rfl, rfl, rfl⟩,
    ⟨(paged (sit (.bkpt h1 0#16))).modCtx 0 (fun x => { x with csr := x.csr ++ [(0x110, 1#32)] }), _, issues_of (by decide +kernel), rfl,
      by decide +kernel, by decide +kernel, rfl, rfl, rfl, rfl⟩⟩

/-- A trap that waits for its entry. -/
def req : TrapReq := ⟨cTrap, 0, 0, 0, 1, 0, 0, 0, 0, 0, []⟩

/-- A warp whose one lane stands at a run boundary and has a trap to enter. -/
def entering (s : State) : State :=
  s.modWarp fetchKey fun w =>
    { w with
      trapReq := some req
      lanes := [{ blankLane 0 with tset := 0xFF, t := (List.range 8).map fun i => (i, 0#32) }]
      paths := [newPath 0 1#32] }

/-- An entry whose frame can be written, and one whose frame cannot. -/
theorem witness_TrapEntryStartsTheHandler : ∀ f ∈ [paged, id],
    ∃ s w, s.warpAt? fetchKey = some w ∧ w.trapReq = some req ∧ entryReady s w = true ∧
      let s1 := settled s fetchKey req
      let w1 := s1.warpAt fetchKey
      if (s1.ctxAt 0).csr64 0x1C ≠ 0 then (∃ s2, partStores s1 w1.ctx (frameStores s1 w1 req) = .ok s2)
      else (partStores s1 w1.ctx (frameStores s1 w1 req) = .error cPage ∧ (s1.ctxAt w1.ctx).stopped = false) := by
  intro f hf
  simp only [List.mem_cons, List.not_mem_nil, or_false] at hf
  obtain rfl | rfl := hf
  · refine ⟨entering (paged (sit (.nop h1))), _, rfl, rfl, rfl, ?_⟩
    have h : ((settled (entering (paged (sit (.nop h1)))) fetchKey req).ctxAt 0).csr64 0x1C ≠ 0 := by decide +kernel
    rw [if_pos h]
    exact ok_of (by decide +kernel)
  · refine ⟨entering (sit (.nop h1)), _, rfl, rfl, rfl, ?_⟩
    have h : ¬ ((settled (entering (sit (.nop h1))) fetchKey req).ctxAt 0).csr64 0x1C ≠ 0 := by decide +kernel
    rw [if_neg h]
    exact ⟨by decide +kernel, rfl⟩

/-- A path of the warp whose run has issued its last word. -/
def ending (t : Transfer) (s : State) : State := onPath (fun p => { p with inRun := none, ending := some ⟨0, 0, 0, 0, 16, 0, [], t⟩ }) s

/-- A return from the trap to the records that memory holds: zeros, of a lane that stands in no barrier. -/
theorem witness_TrapReturnRestoresTheLanes : ∃ s w p e fs, Ends s fetchKey 0 w p e ∧ e.transfer = .trapret 1 ∧
    let s1 := effected s fetchKey w p e
    let w1 := s1.warpAt fetchKey
    w1.haltReq = none ∧ (∀ a ∈ s.accesses, a.w = fetchKey → a.refusal = none) ∧ w1.lanes.mapM (fun l => readFrameLane s1 w1 l.id) = .ok fs ∧
      (∀ f ∈ fs, stateOk (smGet (3, 0) w1.entryState f.lane).1 f.state = true) ∧
      ∃ f ∈ fs, f.state ≠ 3 ∧ (smGet (3, 0) w1.entryState f.lane).1 ≠ 4 := by
  refine ⟨ending (.trapret 1) (paged (sit (.nop h1))), _, _, _,
    [⟨0, 0, 0, 0, 0, 0, 0, [0, 0, 0, 0, 0, 0, 0, 0]⟩], ⟨rfl, rfl, rfl, by decide +kernel⟩, rfl, rfl,
    fun a ha => (by cases ha), by decide +kernel, by decide, ?_⟩
  exact ⟨_, .head _, by decide, by decide⟩

/-- A run that falls through, and one that branches. -/
theorem witness_RunEndsTransferControl : ∀ t ∈ [Transfer.fall, .goto [(0, 0x80)]],
    ∃ s w p e, Ends s fetchKey 0 w p e ∧ e.transfer = t ∧
      let w1 := (effected s fetchKey w p e).warpAt fetchKey
      w1.haltReq = none ∧ ∃ l ∈ w1.lanes, l.exited = false := by
  intro t ht
  simp only [List.mem_cons, List.not_mem_nil, or_false] at ht
  obtain rfl | rfl := ht
  · exact ⟨ending .fall (sit (.nop h1)), _, _, _, ⟨rfl, rfl, rfl, rfl⟩, rfl, rfl, _, .head _, rfl⟩
  · exact ⟨ending (.goto [(0, 0x80)]) (sit (.nop h1)), _, _, _, ⟨rfl, rfl, rfl, rfl⟩, rfl, rfl, _, .head _, rfl⟩

/-- EXIT of the one lane of a warp, and of none of its lanes. -/
theorem witness_ExitsRetireTheirLanes :
    (∃ s w p e, Ends s fetchKey 0 w p e ∧ e.transfer = .exit 1 ∧
      let w1 := (effected s fetchKey w p e).warpAt fetchKey
      w1.haltReq = none ∧ (∀ l ∈ w1.lanes, (l.exited = true ∨ (1#32).getLsbD l.id = true) ∧ l.helper = none) ∧ w1.trapReq = none) ∧
    ∃ s w p e, Ends s fetchKey 0 w p e ∧ e.transfer = .exit 2 ∧
      let w1 := (effected s fetchKey w p e).warpAt fetchKey
      w1.haltReq = none ∧ ∃ l ∈ w1.lanes, l.exited = false ∧ (2#32).getLsbD l.id = false := by
  refine ⟨⟨ending (.exit 1) (sit (.nop h1)), _, _, _, ⟨rfl, rfl, rfl, rfl⟩, rfl, rfl, ?_, rfl⟩,
    ⟨ending (.exit 2) (sit (.nop h1)), _, _, _, ⟨rfl, rfl, rfl, rfl⟩, rfl, rfl, _, .head _, rfl, rfl⟩⟩
  intro l hl
  obtain rfl := List.mem_singleton.mp hl
  exact ⟨.inr rfl, rfl⟩

/-- A lane that stands, within the masks and outside them; with an arrival, and a value of CSRW. -/
theorem witness_RunEndEffectsAct :
    ∃ (s : State) (w : Warp), s.warpAt? fetchKey = some w ∧ w.hasLane 0 ∧ (1#32).getLsbD 0 = true ∧ (2#32).getLsbD 0 = false ∧
      (w.laneAt 0).arrived.any (fun a => a.1 == 0 && a.2.1 == 15) = true ∧ (w.laneAt 0).arrived.any (fun a => a.1 == 0 && a.2.1 == 0) = false ∧
      smFind ([(0, 7#32)].filter fun v => (1#32).getLsbD v.1) 0 = some 7#32 :=
  ⟨onLane (fun l => { l with arrived := [(0, 15, 1)] }) (sit (.nop h1)), _, rfl, ⟨_, .head _, rfl⟩, rfl, rfl, rfl, rfl, rfl⟩


/-- Two words of CSRW in a run, the second of which the lane executes, or only the first; a write of the same clk by a source not above; and a
bit of STICKY that is set in the clk beside one that is not. -/
theorem witness_CsrWordsAct : ∃ (s : State) (w : Warp), s.warpAt? fetchKey = some w ∧ w.hasLane 0 ∧ (1#32).getLsbD 0 = true ∧ w.trapMode = true ∧
    (∀ ys ∈ [[(0, 7#32)], []], ∃ xs v, (xs.map (·.1)).Nodup ∧ (ys.map (·.1)).Nodup ∧ (∀ e ∈ xs ++ ys, (1#32).getLsbD e.1 = true → e.1 ≤ 0) ∧
      (smFind ys 0 = some v ∨ (smFind ys 0 = none ∧ smFind xs 0 = some v))) ∧
    (∃ e src, smFind (s.ctxAt w.ctx).csrBy 0x13 = some (e, src) ∧ (e ≠ s.ts ∨ src ≤ sourceOf fetchKey)) ∧
    (∀ i ∈ [0, 31], ∀ e ∈ (s.ctxAt w.ctx).stickySet, e.1 = i → e.2 ≠ s.clk) := by
  refine ⟨((sit (.nop h1)).modWarp fetchKey fun w => { w with trapMode := true }).modCtx 0 (fun x =>
    { x with csrBy := [(0x13, (0, 0))], stickySet := [(3, 0)] }), _, rfl, ⟨_, .head _, rfl⟩, rfl, rfl, ?_, ⟨0, 0, by decide +kernel, .inr (Nat.zero_le _)⟩, ?_⟩
  · intro ys hy
    simp only [List.mem_cons, List.not_mem_nil, or_false] at hy
    obtain rfl | rfl := hy
    · exact ⟨[(0, 5#32)], 7#32, by decide, by decide, by decide, .inl rfl⟩
    · exact ⟨[(0, 7#32)], 7#32, by decide, by decide, by decide, .inr ⟨rfl, rfl⟩⟩
  · decide +kernel
/-- WSYNC at lane 0, with a mask, of a warp of two lanes. -/
def twoLanes (m : W32) : State :=
  (sitG [(12, m)] (.wsync h1 12#8)).modWarp fetchKey fun w => { w with lanes := w.lanes ++ [blankLane 1] }

/-- A WSYNC whose lanes agree, of a phase that it completes and of one that it does not; and one whose lane is not in its mask, with a
handler. -/
theorem witness_WsyncJoinsItsPhase :
    (∀ m ∈ [1#32, 3#32], ∃ s c f ls, Issues (.wsync h1 12#8) s c ∧ active s c h1 = f :: ls ∧ c.w.phase = none ∧ rd s f 12#8 = m ∧
      (∀ l ∈ active s c h1, rd s l 12#8 = m ∧ m.getLsbD l.id = true) ∧ activeMask s c h1 = 1#32 ∧ c.w.hasLane 1 ∧ (c.w.laneAt 1).exited = false ∧
      (c.w.laneAt 0).isLent = false) ∧
    ∃ s c f ls, Issues (.wsync h1 12#8) s c ∧ active s c h1 = f :: ls ∧ c.w.phase = none ∧ (rd s f 12#8).getLsbD f.id = false ∧ bodyOf c = [] ∧
      hasHandler s c.key c.w ∧ c.p.handler = false ∧ c.w.trapMode = false ∧ c.w.trapReq = none := by
  refine ⟨?_,
    ⟨paged (sitG [(12, 2#32)] (.wsync h1 12#8)), _, _, [], issues_of (by decide +kernel), rfl, rfl, rfl, rfl, handled, rfl, rfl, rfl⟩⟩
  intro m hm
  simp only [List.mem_cons, List.not_mem_nil, or_false] at hm
  obtain rfl | rfl := hm
  · refine ⟨twoLanes 1#32, curOf (twoLanes 1#32), _, [], issues_of (by decide +kernel), rfl, rfl, rfl, ?_, by decide +kernel, ⟨_, .tail _ (.head _), rfl⟩, rfl, rfl⟩
    intro l hl
    obtain rfl := List.mem_singleton.mp hl
    exact ⟨rfl, by decide⟩
  · refine ⟨twoLanes 3#32, curOf (twoLanes 3#32), _, [], issues_of (by decide +kernel), rfl, rfl, rfl, ?_, by decide +kernel, ⟨_, .tail _ (.head _), rfl⟩, rfl, rfl⟩
    intro l hl
    obtain rfl := List.mem_singleton.mp hl
    exact ⟨rfl, by decide⟩

theorem witness_VcompactPacksKeptElements :
    ∃ s c f ls, Issues (.vcompact h1 20#8 3#8 4#8 0x97#8 false) s c ∧ active s c h1 = f :: ls ∧ ((rd s f 4#8).extractLsb' 0 16).toNat = 65535 :=
  ⟨sitG [(4, 0xFFFF#32)] (.vcompact h1 20#8 3#8 4#8 0x97#8 false), _, _, [], issues_of rfl, rfl, rfl⟩

/-- Both fences, and a prefetch of a page that may be read. -/
theorem witness_FencesAndPrefetchesIssue :
    (∃ s c, Issues (.fenceFull h1 5#3 0#4) s c) ∧ (∃ s c, Issues (.fenceWb h1 4#8 6#8 3#3 0#4) s c) ∧
    ∃ s c l p, Issues (.pref h1 0x88#8 4#8 ⟨4#4, 0#3, 0#2, 0#4, 0#11⟩) s c ∧ active s c h1 = [l] ∧
      isAperture (address (rd64 s l 0x88#8) (rd s l 4#8) 0#11 4).toNat = false ∧
      translate s (s.ctxAt c.w.ctx) (address (rd64 s l 0x88#8) (rd s l 4#8) 0#11 4).toNat .rd = .ok p ∧ p.remote = none ∧ portDown s p = false ∧
      tentLine s (lineOf p.key) = false :=
  ⟨⟨sit (.fenceFull h1 5#3 0#4), _, issues_of rfl⟩, ⟨sit (.fenceWb h1 4#8 6#8 3#3 0#4), _, issues_of rfl⟩,
    ⟨paged (sitG [(4, 0x4000#32)] (.pref h1 0x88#8 4#8 ⟨4#4, 0#3, 0#2, 0#4, 0#11⟩)), _, _, ⟨0x4000, .C, none, 0, 0, 0⟩,
      issues_of (by decide +kernel), rfl, by decide +kernel, by decide +kernel, rfl, rfl, rfl⟩⟩

theorem witness_DescriptorAndRawWordsComplete :
    (∃ s c, Issues (.tdset h1 4#8 112#8) s c) ∧ ∃ s c, Issues (.ftestRaw h1 126#8 10#8) s c :=
  ⟨⟨sit (.tdset h1 4#8 112#8), _, issues_of rfl⟩, ⟨sit (.ftestRaw h1 126#8 10#8), _, issues_of rfl⟩⟩

/-- The issuing lane has G10 pending for a command. -/
def pendingCmd (o : EngOp) (s : State) : State := onLane (fun l => { l with pend := [(10, cmdRef)] }) { s with ops := [o] }

/-- No command; one that runs, one that waits for the matrix engine behind another block's; one that is armed; and one that a raw handle
names. -/
theorem witness_CancelWordsAskTheirCommands :
    (∃ s c, Issues (.fcancel h1 10#8) s c ∧ ∀ l ∈ active s c h1, pendRef? s l 10#8 = none) ∧
    (∃ s c, Issues (.fcancelRaw h1 10#8) s c ∧ ∀ l ∈ active s c h1, rawTarget? s c.w.ctx (rd64 s l 10#8) = none) ∧
    (∃ s c l o, Issues (.fcancel h1 10#8) s c ∧ active s c h1 = [l] ∧ pendRef? s l 10#8 = some cmdRef ∧ s.opOf? cmdRef = some o ∧ o.over = false ∧
      o.state ≠ .armed) ∧
    (∃ s c l o, Issues (.fcancel h1 10#8) s c ∧ active s c h1 = [l] ∧ pendRef? s l 10#8 = some cmdRef ∧ s.opOf? cmdRef = some o ∧ o.over = false ∧
      o.state ≠ .armed ∧ behindOther s o = true) ∧
    (∃ s c l o, Issues (.fcancel h1 10#8) s c ∧ active s c h1 = [l] ∧ pendRef? s l 10#8 = some cmdRef ∧ s.opOf? cmdRef = some o ∧ o.over = false ∧
      o.state = .armed ∧ opWarp? s o = some (s.warpAt o.w) ∧ (s.warpAt o.w).mq.find? (fun e => e.2 == cmdRef) = some (2, cmdRef) ∧ smFind (s.warpAt o.w).mq 2 = some cmdRef) ∧
    ∃ s c l o, Issues (.fcancelRaw h1 10#8) s c ∧ active s c h1 = [l] ∧ rawTarget? s c.w.ctx (rd64 s l 10#8) = some o ∧
      s.ops.filter (fun q => q.ref == o.ref) = [o] ∧ o.state ≠ .armed := by
  refine ⟨⟨sit (.fcancel h1 10#8), _, issues_of rfl, ?_⟩, ⟨sit (.fcancelRaw h1 10#8), _, issues_of rfl, ?_⟩,
    ⟨pendingCmd (cmd .cpy .running) (sit (.fcancel h1 10#8)), _, _, _, issues_of rfl, rfl, rfl, rfl, rfl, by decide⟩,
    ⟨(pendingCmd (cmd .mmul .queued) (sit (.fcancel h1 10#8))).modCore 0 fun c => { c with mat := { c.mat with holder := some 1 } },
      _, _, _, issues_of rfl, rfl, rfl, rfl, rfl, by decide, by decide +kernel⟩,
    ⟨(pendingCmd (cmd .mmul .armed) (sit (.fcancel h1 10#8))).modWarp fetchKey (fun w => { w with mq := [(2, cmdRef)] }), _, _, _,
      issues_of rfl, rfl, rfl, rfl, rfl, rfl, rfl, rfl, rfl⟩,
    ⟨{ sitG [(10, 0x00030001#32), (11, 0x80000000#32)] (.fcancelRaw h1 10#8) with ops := [{ cmd .cpy .running with retained := true }] }, _, _, _,
      issues_of rfl, rfl, rfl, rfl, by decide⟩⟩
  · intro l hl
    obtain rfl := List.mem_singleton.mp hl
    rfl
  · intro l hl
    obtain rfl := List.mem_singleton.mp hl
    rfl

theorem witness_EngineLaneWordsIssue :
    ∃ i r s c, sendRow i = some r ∧ Issues i s c ∧ (active s c r.hdr).length ≤ slotsLeft s c :=
  ⟨.snew h1 4#8 true, _, sit (.snew h1 4#8 true), _, rfl, issues_of rfl, by decide +kernel⟩

/-- A path command with an executing lane and with none, and an armed MMUL. -/
theorem witness_EnginePathWordsIssue :
    (∃ i r s c l ls, pathRow i = some r ∧ Issues i s c ∧ active s c r.hdr = l :: ls ∧ r.ok s l ∧ 1 ≤ slotsLeft s c) ∧
    (∃ i r s c, pathRow i = some r ∧ Issues i s c ∧ active s c r.hdr = []) ∧
    ∃ s c l ls, Issues (.mmul h1 9#8 4#8 5#8 6#8 0#4 true 3#2) s c ∧ active s c h1 = l :: ls ∧ 1 ≤ slotsLeft s c :=
  ⟨⟨.mstat h1 9#8, _, sit (.mstat h1 9#8), _, _, [], rfl, issues_of rfl, rfl, trivial, by decide +kernel⟩,
    ⟨.mstat ⟨0#3, true, 7#3⟩ 9#8, _, sit (.mstat ⟨0#3, true, 7#3⟩ 9#8), _, rfl, issues_of rfl, rfl⟩,
    ⟨sit (.mmul h1 9#8 4#8 5#8 6#8 0#4 true 3#2), _, _, [], issues_of rfl, rfl, by decide +kernel⟩⟩

/-- A state with one access that waits. -/
def waiting (a : Access) (tw : List TentWord) : State := { sit (.nop h1) with accesses := [a], tentWords := tw }

/-- A tentative word of a thread at a key. -/
def tword (key : Nat) (wid : W64) (observed : Bool) : TentWord := ⟨key, 9#32, observed, 0, wid, some 0⟩

/-- Entries of core 0 for tentative lines. -/
def tented (es : List TentEntry) (s : State) : State := s.modCore 0 fun c => { c with tent := es }

/-- What `AtHome` asks, as a test. -/
def atHomeB (s : State) (a : Access) (key : Nat) : Bool :=
  s.accesses.find? (fun x => x.id == a.id) == some a && canPerform s a && a.loc == .mem key && (failedPort? s a).isNone && !isScratchKey key &&
    !anyForeign s key a.bytes a.tkey

theorem atHome_of {s : State} {a : Access} {key : Nat} (h : atHomeB s a key = true) : AtHome s a key := by
  simp only [atHomeB, Bool.and_eq_true, Bool.not_eq_true', Option.isNone_iff_eq_none] at h
  exact ⟨eq_of_beq h.1.1.1.1.1, h.1.1.1.1.2, eq_of_beq h.1.1.1.2, h.1.1.2, h.1.2, h.2⟩

/-- Accesses of 32 and of 64 bits: STT to words that are nobody's, with room, in a line that is tracked and without a free line; to a word
of another thread; and to words of the thread's own. RETRACT of an evicted line, of unobserved words, of an observed one, and of words not
all its own. COMMIT. -/
theorem witness_TentativeWordsAtHome : ∀ n ∈ [4, 8],
    let a (k : AccKind) : Access := { acc k 0x4000 with bytes := n }
    let own : List TentWord := [tword 0x4004 0 false, tword 0x4000 0 false]
    (let s := waiting (a .stt) []
     atHomeB s (a .stt) 0x4000 = true ∧ Memory.wf s.mem ∧ (s.coreAt 0).tent.length < Config.tentLines) ∧
    (let s := tented [⟨lineOf 0x4000, []⟩] (waiting (a .stt) [])
     atHomeB s (a .stt) 0x4000 = true ∧ Memory.wf s.mem ∧ (s.coreAt 0).tent.any (fun e => e.line == lineOf 0x4000) = true) ∧
    (let s := tented (List.replicate 64 ⟨0, []⟩) (waiting (a .stt) [])
     atHomeB s (a .stt) 0x4000 = true ∧ (s.coreAt 0).tent.any (fun e => e.line == lineOf 0x4000) = false ∧
       Config.tentLines ≤ (s.coreAt 0).tent.length) ∧
    (let s := waiting (a .stt) [tword 0x4000 5 false]
     atHomeB s (a .stt) 0x4000 = true ∧ ∃ x ∈ s.tentWords, x.key = 0x4000 ∧ ¬ (x.key = 0x4000 ∧ x.ctx = 0 ∧ x.wid = 0)) ∧
    (let s := waiting (a .stt) own
     atHomeB s (a .stt) 0x4000 = true ∧ ∀ k ∈ [0x4000, 0x4004], ∃ x ∈ s.tentWords, x.key = k ∧ x.ctx = 0 ∧ x.wid = 0) ∧
    (let s := tented [⟨lineOf 0x4000, [(0, 0)]⟩] (waiting (a .retract) [])
     atHomeB s (a .retract) 0x4000 = true ∧ evictedEntry s 0 (lineOf 0x4000) (0, 0) = true) ∧
    (let s := waiting (a .retract) own
     atHomeB s (a .retract) 0x4000 = true ∧ evictedEntry s 0 (lineOf 0x4000) (0, 0) = false ∧ (s.tentWords.map (·.key)).Nodup ∧
       ∀ x ∈ s.tentWords, x.observed = false) ∧
    (let s := waiting (a .retract) [tword 0x4000 0 true]
     atHomeB s (a .retract) 0x4000 = true ∧ ∃ x ∈ s.tentWords, x.observed = true) ∧
    (let s := waiting (a .retract) []
     atHomeB s (a .retract) 0x4000 = true ∧ ∀ x ∈ s.tentWords, x.key ≠ 0x4000) ∧
    (let s := waiting (a .commit) own
     atHomeB s (a .commit) 0x4000 = true) := by
  intro n hn
  simp only [List.mem_cons, List.not_mem_nil, or_false] at hn
  obtain rfl | rfl := hn <;> decide +kernel

/-- The conditions of the statement follow from these tests. -/
theorem witness_AtHome : (acc .stt 0x4000).ctx = 0 ∧ (acc .stt 0x4000).wid = 0 ∧ (acc .stt 0x4000).flag.isSome = true ∧
    AtHome (waiting (acc .stt 0x4000) []) (acc .stt 0x4000) 0x4000 ∧ (waiting (acc .stt 0x4000) []).Inv :=
  ⟨rfl, rfl, rfl, atHome_of (by decide +kernel), by decide +kernel⟩

/-- An MWAIT that looks for the first time, with a word that equals its value and one that differs, and one that is parked. -/
theorem witness_MwaitParksAndWakes : ∀ cmp ∈ [0#64, 1#64],
    (let a := { acc .mwait 0x4000 with cmp := cmp }
     let s := waiting a []
     s.accesses.find? (fun x => x.id == a.id) = some a ∧ anyForeign s 0x4000 a.bytes a.tkey = false ∧ canPerform s a = true ∧ otherHalf? s a = none ∧
       a.loc = .mem 0x4000 ∧ failedPort? s a = none ∧ a.flag.isSome = true ∧ hideControl s a (memRead s.mem 0x4000 a.bytes) = 0) ∧
    let a := { acc .mwait 0x4000 with cmp := cmp, st := .parked }
    (waiting a []).accesses.find? (fun x => x.id == a.id) = some a ∧ a.st = .parked ∧ failedPort? (waiting a []) a = none := by
  intro cmp _
  exact ⟨⟨rfl, rfl, rfl, rfl, rfl, rfl, rfl, rfl⟩, rfl, rfl, rfl⟩

/-- Results of a load into a register, into G127 and into ZERO, of STT, and of the high half of a 16-byte load; and of an MWAIT of interrupted
code. -/
theorem witness_LoadResultsLand : ∀ e ∈ [(AccKind.ld, 126, false), (.ld, 127, false), (.ld, 0x88, false), (.stt, 0x96, false), (.ld, 124, true)],
    (let a := { acc e.1 0x4000 with st := .performed, dst := e.2.1, half := e.2.2 }
     let s := waiting a []
     s.maths.find? (fun m => m.id == a.id) = none ∧ s.accesses.find? (fun x => x.id == a.id) = some a ∧ a.st = .performed ∧ a.flag = some 0 ∧
      heldForHandler s a = false ∧ specialsFirst s a.w a.lane = false ∧
      (a.half = true ∨ ∀ b ∈ s.accesses, ¬ (b.half = true ∧ b.grp = a.grp ∧ b.lane = a.lane)) ∧
      ∃ w, s.warpAt? a.w = some w ∧ w.hasLane a.lane) ∧
    let a := { acc .mwait 0x4000 with st := .performed }
    let s := (waiting a []).modWarp fetchKey fun w => { w with trapMode := true, trapId := 8, entryState := [(0, 0, 0)] }
    s.maths.find? (fun m => m.id == a.id) = none ∧ s.accesses.find? (fun x => x.id == a.id) = some a ∧ a.st = .performed ∧ a.flag = some 0 ∧
      heldForHandler s a = true := by
  intro e he
  refine ⟨⟨rfl, rfl, rfl, rfl, ?_, rfl, ?_, _, rfl, _, .head _, rfl⟩, rfl, rfl, rfl, rfl, by decide +kernel⟩
  all_goals
    simp only [List.mem_cons, List.not_mem_nil, or_false] at he
    obtain rfl | rfl | rfl | rfl | rfl := he <;> decide +kernel

/-- A state with one command. -/
def commanded (o : EngOp) : State := { sit (.nop h1) with ops := [o] }

/-- A partition that has had this clk with another that has not, both, and none; a missing run of 1 word in memory, and a run that is
there. -/
theorem witness_PartitionEventsComplete :
    (∃ s : State, (s.partAt 0 0).served = some s.clk ∧ (residentParts s).any (fun q => q != (0, 0) && !servedNow s q.1 q.2) = true) ∧
    (∃ s : State, (s.partAt 0 0).served = some s.clk ∧ (residentParts s).any (fun q => q != (0, 0) && !servedNow s q.1 q.2) = false) ∧
    (∃ s : State, (s.partAt 0 0).served ≠ some s.clk) ∧
    (∃ (s : State) (p : Xlat), (∀ b ∈ (s.partAt 0 0).runbuf, ¬ (b.ctx = 0 ∧ b.pc = 0x4000#64)) ∧
      (s.coreAt 0).icache.find? (fun e => e.ctx == 0 && e.va == 0x4000#64) = none ∧ isAperture 0x4000 = false ∧
      translate s (s.ctxAt 0) 0x4000 .fetch = .ok p ∧ portDown s p = false ∧ p.remote = none ∧
      (∀ i < 16, anyForeign s (p.key + 8 * i) 8 p.tkey = false) ∧
      (((List.range 16).map fun i => BitVec.ofNat 64 (memRead s.mem (p.key + 8 * i) 8)).takeWhile fun w => !isTrailer w).length = 1) ∧
    ∃ s : State, ∃ b ∈ (s.partAt 0 0).runbuf, b.ctx = 0 ∧ b.pc = 0x4000#64 := by
  refine ⟨⟨{ sit (.nop h1) with warps := [blankWarp ⟨1, 2, 3⟩], parts := [{ blankPart 0 0 with served := some 1 }] }, rfl, rfl⟩,
    ⟨{ sit (.nop h1) with parts := [{ blankPart 0 0 with served := some 1 }] }, rfl, rfl⟩, ⟨sit (.nop h1), by decide⟩,
    ⟨{ paged (sit (.nop h1)) with mem := pages ++ [(0x400E, 0x80#8), (0x400F, 0xFF#8)] }, ⟨0x4000, .C, none, 0, 0, 0⟩,
      by intro b hb; exact absurd hb List.not_mem_nil, rfl, rfl, by decide +kernel, rfl, rfl, by decide +kernel, by decide +kernel⟩,
    ⟨{ sit (.nop h1) with parts := [{ blankPart 0 0 with runbuf := [⟨0, 0x4000#64, [], none⟩] }] }, _, .head _, rfl, rfl⟩⟩

/-- A hold that binds and one that does not; walks that end with and without an entry. -/
theorem witness_HoldAndCacheEventsComplete :
    (∃ (s : State) (w : Warp) (p : Path), s.warpAt? fetchKey = some w ∧ w.pathOf? 0 = some p ∧ held s w p = false) ∧
    (∃ (s : State) (w : Warp) (p : Path), s.warpAt? fetchKey = some w ∧ w.pathOf? 0 = some p ∧ held s w p = true) ∧
    (∃ (s : State) (w : Warp), s.warpAt? fetchKey = some w ∧ w.hasLane 0 ∧ w.hasLane 1 ∧ (w.laneAt 0).cached = 0 ∧ (w.laneAt 0).stk ≠ []) ∧
    (∃ (s : State) (w : Warp), s.warpAt? fetchKey = some w ∧ w.hasLane 0 ∧ ¬ ((w.laneAt 0).cached = 0 ∧ (w.laneAt 0).stk ≠ [])) ∧
    (∃ (s : State) (v : Walk) (e size : Nat), v ∈ s.walks ∧ (v.active = true ∧ v.ctx = 0 ∧ v.page = 0x4000) ∧ walkTable s (s.ctxAt 0).root 0x4000 = some (e, size) ∧ tlbFind s 0 0x4000 = none) ∧
    ∃ s : State, ∀ v ∈ s.walks, ¬ (v.active = true ∧ v.ctx = 0 ∧ v.page = 0x4000) := by
  refine ⟨⟨sit (.nop h1), _, _, rfl, rfl, rfl⟩,
    ⟨(onPath (fun p => { p with hold := some 9 }) (sit (.nop h1))).modWarp fetchKey fun w =>
        { w with lanes := w.lanes ++ [{ blankLane 1 with slim := 4096 }], paths := w.paths ++ [{ newPath 0 2#32 with inRun := some (fetchRun 0) }] },
      _, _, rfl, rfl, by decide +kernel⟩,
    ⟨(onLane (fun l => { l with stk := [⟨0, true, 0, false, false⟩] }) (sit (.nop h1))).modWarp fetchKey fun w =>
        { w with lanes := w.lanes ++ [blankLane 1] }, _, rfl, ⟨_, .head _, rfl⟩, ⟨_, .tail _ (.head _), rfl⟩, rfl, by decide⟩,
    ⟨sit (.nop h1), _, rfl, ⟨_, .head _, rfl⟩, fun h => h.2 rfl⟩,
    ⟨{ paged (sit (.nop h1)) with walks := [⟨0, 0, 0x4000, true⟩] }, _, 315, 2 ^ 30, .head _, ⟨rfl, rfl, rfl⟩, by decide +kernel, rfl⟩,
    ⟨sit (.nop h1), by intro v hv; exact absurd hv List.not_mem_nil⟩⟩

/-- A command that its fork releases: matrix, copy, and an FWAIT on a handle of class F; commands that are over in each way; and an entry with
and without its command. -/
theorem witness_EngineEventsComplete :
    (∃ (s : State) (o : EngOp), s.opAt? 0 3 = some o ∧ forkReady s o = false) ∧
    (∃ (s : State) (o : EngOp), s.opAt? 0 3 = some o ∧ forkReady s o = true ∧ isMatrix o.kind = true) ∧
    (∃ (s : State) (o : EngOp), s.opAt? 0 3 = some o ∧ forkReady s o = true ∧ isMatrix o.kind = false ∧ isSet o.kind = false ∧ o.kind ≠ .fwait) ∧
    (∃ (s : State) (o : EngOp), s.opAt? 0 3 = some o ∧ forkReady s o = true ∧ o.kind = .fwait ∧ o.ga = 0x80000000F0000000#64) ∧
    (∀ st ∈ [OpState.done [(0, 5#32)], .stopped, .fault 9], ∃ (s : State) (o : EngOp) (w : Warp), s.opAt? 0 3 = some o ∧ o.over = true ∧
      o.resolved = false ∧ (s.blockAt o.blk).saved = false ∧ s.warpAt? o.w = some w ∧ w.blk = o.blk ∧ (∀ r ∈ s.reports, r.owner ≠ o.born) ∧
      o.laneSub = [] ∧ o.gone = false ∧ launchDrained s o = true ∧ o.retained = false ∧ s.ops.filter (fun q => q.ref == o.ref) = [o] ∧ w.hasLane 0 ∧ o.lanes.getLsbD 0 = true ∧ o.state = st) ∧
    (∃ s : State, ∃ e ∈ (s.coreAt 0).ranges, e.id = 1 ∧ entryDone s e = true) ∧
    ∃ s : State, ∀ e ∈ (s.coreAt 0).ranges, e.id = 1 → entryDone s e = false := by
  refine ⟨⟨commanded (cmd .cpy .queued), _, rfl, rfl⟩, ⟨commanded (cmd .mread .held), _, rfl, rfl, rfl⟩,
    ⟨commanded (cmd .cpy .held), _, rfl, rfl, rfl, rfl, by decide⟩,
    ⟨commanded { cmd .fwait .held with ga := 0x80000000F0000000#64 }, _, rfl, rfl, rfl, rfl⟩, ?_,
    ⟨{ sit (.nop h1) with cores := [{ blankCore 0 with ranges := [⟨1, true, 0, 64, cmdRef, true⟩] }] }, _, .head _, rfl, rfl⟩,
    ⟨sit (.nop h1), by intro e he; exact absurd he List.not_mem_nil⟩⟩
  intro st hst
  refine ⟨commanded (cmd .cpy st), _, _, rfl, ?_, rfl, rfl, rfl, rfl, by intro r hr; exact absurd hr List.not_mem_nil, rfl, rfl, rfl, rfl, rfl, ⟨_, .head _, rfl⟩, (by decide : (1#32).getLsbD 0 = true), rfl⟩
  simp only [List.mem_cons, List.not_mem_nil, or_false] at hst
  obtain rfl | rfl | rfl := hst <;> rfl

/-- The engine of core 0 held by a block, or by none, with commands that wait at it. -/
def heldBy (b : Option Nat) (wait : List Nat) (os : List EngOp) : State :=
  { sit (.nop h1) with clk := 5, ops := os, cores := [{ blankCore 0 with mat := { blankMatrix with holder := b, waiting := wait } }] }

/-- The bytes of a number in memory, from an address. -/
def bytesAt (a v : Nat) : Memory :=
  (List.range 64).filterMap fun i => if v / 256 ^ i % 256 == 0 then none else some (a + i, BitVec.ofNat 8 (v / 256 ^ i))

/-- The header of a heap with 16 entries and a pool of a length at 0x100000. -/
def heapHdr (len : Nat) : Nat := 4 + 0x100000 * 2 ^ 448 + len * 2 ^ 384

/-- A directory entry of the heap at 0x4000 with index 1. -/
def dirEntry (log : List (Nat × Bool)) (fold : Option (List Chunk)) : SetEntry :=
  ⟨0x4000, 1, log, 0, [], none, 0, 0, 1, 1, 0, 0, 0, fold, 0, 0, 0⟩

/-- Context 0 with a page table, the heap's header and a directory entry, at a clk. -/
def holding (clk len : Nat) (e : SetEntry) : State :=
  let s := paged (sit (.nop h1))
  { s.modCtx 0 (fun c => { c with sets := [e] }) with clk := clk, mem := pages ++ bytesAt 0x4000 (heapHdr len) }

/-- SINS or SDEL of one key, 0, by the handle of a set. -/
def keyCmd (k : EngKind) (ga gb : W64) : EngOp :=
  { cmd k .running with status := 1, ga := ga, gb := gb, gc := 1, heap := 0x4000, descs := [4] }

/-- A state with that command and a set with a log. -/
def keyState (o : EngOp) (log : List (Nat × Bool)) (fold : Option (List Chunk)) : State := { holding 9 0x1000 (dirEntry log fold) with ops := [o] }

/-- An answer of 0, as a test. -/
def isZero (x : Except Nat Nat) : Bool := match x with | .ok n => n == 0 | .error _ => false

theorem zero_of {x : Except Nat Nat} (h : isZero x = true) : x = .ok 0 := by
  cases x with
  | ok n => exact congrArg _ (eq_of_beq h)
  | error e => exact absurd h Bool.false_ne_true

theorem error_of {α : Type} {x : Except Nat α} (h : x.isOk = false) : ∃ e, x = .error e := by
  cases x with
  | ok v => exact absurd h (by simp [Except.isOk, Except.toBool])
  | error e => exact ⟨e, rfl⟩

theorem entry_of {s : State} {o : EngOp} {h : W32} (hk : (entryFor s o h).isOk = true) :
    entryFor s o h = .ok (setEntry s o.ctx o.heap.toNat (h.toNat % 2 ^ 24)) := by
  unfold entryFor at *
  simp only at *
  split at hk
  · exact absurd hk (by simp [Except.isOk, Except.toBool])
  · rename_i h1
    rw [if_neg h1]
    split at hk
    · exact absurd hk (by simp [Except.isOk, Except.toBool])
    · rename_i h2
      split at hk
      · exact absurd hk (by simp [Except.isOk, Except.toBool])
      · rename_i h3
        rw [if_neg h3]

/-- Logs that a key 0 is appended to by SINS (true) or SDEL: short, with the key, and full but one while a fold is in flight. -/
def keyLogs (ins : Bool) : List (List (Nat × Bool) × Option (List Chunk)) :=
  [(if ins then [] else [(0, true)], none), (if ins then [(0, true)] else [], none),
    ((List.range 15).map fun i => (if ins then i + 1 else i, true), some [])]

/-- The state in which a fold of that log, with what it has read, makes its table. -/
def folding (len : Nat) (log : List (Nat × Bool)) : State :=
  (foldReads (dirEntry log none)).foldl (fun s r => crockTouch s 0 r) (crockTouch (holding 9000 len (dirEntry log none)) 0 (0x4000, 64))

/-- What a fold of a log makes, as a test: chunks, none of them, or no room. -/
def foldMade (len : Nat) (log : List (Nat × Bool)) : Option (Option Nat) :=
  match writeTable (folding len log) 0 (heapHdr len) 0 0x4000 (foldChunks (dirEntry log none) log.length).1
    (foldChunks (dirEntry log none) log.length).2 with
  | some (.ok (_, cs, _)) => some (some cs.length)
  | some (.error _) => some none
  | none => none

theorem fold_makes : foldMade 0x1000 [(7, true), (65536, true)] = some (some 2) ∧ foldMade 0x1000 [(7, false)] = some (some 0) ∧
    foldMade 0 [(7, true)] = none := by decide +kernel

theorem fold_header : ∀ len ∈ [0, 0x1000], ∀ log ∈ [[(7, true)], [(7, false)], [(7, true), (65536, true)]],
    (match heapHeader (holding 9000 len (dirEntry log none)) 0 0x4000 with | .ok h => h == heapHdr len | .error _ => false) = true := by decide +kernel

theorem header_of {s : State} {x b h : Nat} (hh : (match heapHeader s x b with | .ok k => k == h | .error _ => false) = true) :
    heapHeader s x b = .ok h := by
  cases hk : heapHeader s x b with
  | ok k => rw [hk] at hh; exact congrArg _ (eq_of_beq hh)
  | error e => rw [hk] at hh; exact absurd hh Bool.false_ne_true

theorem table_of {log : List (Nat × Bool)} {n : Nat} (h : foldMade 0x1000 log = some (some n)) :
    ∃ u cs tab, writeTable (folding 0x1000 log) 0 (heapHdr 0x1000) 0 0x4000 (foldChunks (dirEntry log none) log.length).1
      (foldChunks (dirEntry log none) log.length).2 = some (.ok (u, cs, tab)) := by
  unfold foldMade at h
  split at h
  · rename_i u cs tab hu; exact ⟨u, cs, tab, hu⟩
  · exact absurd h (by simp)
  · exact absurd h (by simp)

theorem table_none {len : Nat} {log : List (Nat × Bool)} (h : foldMade len log = none) :
    writeTable (folding len log) 0 (heapHdr len) 0 0x4000 (foldChunks (dirEntry log none) log.length).1
      (foldChunks (dirEntry log none) log.length).2 = none := by
  unfold foldMade at h
  split at h
  · exact absurd h (by simp)
  · exact absurd h (by simp)
  · assumption

/-- MMUL of INT8 with a number of k-steps. -/
def mmulCmd (j : Nat) : EngOp := { cmd .mmul .running with ectl := j, descs := [3#512 <<< 64] }

/-- A command that reaches a free engine, its own block's and another block's, and one behind another that waits; MSTAT; a command that has
not come to the engine; rows of an MMUL of INT8, the last of their k-steps and one before; SINS and SDEL whose handle is of no set, of a key
whose word cannot be read, and that finds a short log, the key as it is to be, and a log of 15 with a fold in flight; a set that a
fold starts on with chunks and with none, and without room; and a fold that has ended. -/
theorem witness_MatrixAndSetEventsComplete :
    (∀ b ∈ [none, some 0, some 7], ∀ k ∈ [EngKind.mmul, .mstat], ∃ (s : State) (o : EngOp), s.opAt? 0 3 = some o ∧ isMatrix o.kind = true ∧
      o.state = .queued ∧ (s.coreAt (engCore s o)).mat.queue.contains o.born = false ∧ mayReach s o = true ∧
      (s.coreAt (engCore s o)).mat.holder = b ∧ o.blk = 0 ∧ noneWaits s (s.coreAt (engCore s o)).mat o = true ∧ o.kind = k) ∧
    (∃ (s : State) (o : EngOp), s.opAt? 0 3 = some o ∧ isMatrix o.kind = true ∧ o.state = .queued ∧
      (s.coreAt (engCore s o)).mat.queue.contains o.born = false ∧ (s.coreAt (engCore s o)).mat.waiting.contains o.born = true ∧
      (s.coreAt (engCore s o)).mat.holder = some o.blk ∧ noneWaits s (s.coreAt (engCore s o)).mat o = false) ∧
    (∃ (s : State) (o : EngOp), s.opAt? 0 3 = some o ∧ isMatrix o.kind = false) ∧
    (∃ (s : State) (o : EngOp), s.opAt? 0 3 = some o ∧ isMatrix o.kind = true ∧ o.state ≠ .queued) ∧
    (∀ j ∈ [0, 1], ∃ (s : State) (o : EngOp) (row : ARow),
      s.ops.find? (fun o => engCore s o == 0 && o.kind == .mmul && o.state == .running && o.prog < (rowsNamed o).2) = some o ∧
        (rowsNamed o).1 + o.prog < 64 ∧ feedRow s o ((s.coreAt 0).mat.seat (mSeat o)) o.prog = .ok row ∧ o.ectl % 16 = j ∧
        smGet 0 (s.coreAt 0).mat.steps ((rowsNamed o).1 + o.prog) = 0) ∧
    (∃ (s : State) (o : EngOp) (c : Nat), s.opAt? 0 3 = some o ∧ keyReady s o = true ∧ entryFor s o (o.ga.setWidth 32) = .error c) ∧
    (∃ (s : State) (o : EngOp) (e : SetEntry) (c : Nat), s.opAt? 0 3 = some o ∧ keyReady s o = true ∧
      entryFor s o (o.ga.setWidth 32) = .ok e ∧ engRead s o (vaPlus o.gb.toNat (4 * o.prog)) 4 = .error c) ∧
    (∀ ins ∈ [true, false], ∀ l ∈ keyLogs ins, ∃ (s : State) (o : EngOp) (e : SetEntry) (n : Nat), s.opAt? 0 3 = some o ∧ keyReady s o = true ∧
      engRead s o (vaPlus o.gb.toNat (4 * o.prog)) 4 = .ok n ∧ entryFor s o (o.ga.setWidth 32) = .ok e ∧
      (tableReads e.repAt e.rep fun c => c.hi == n / 2 ^ 16).findSome? (crockCause s o.ctx .rd) = none ∧
      decide (o.kind = .sins) = ins ∧ e.log = l.1 ∧ e.fold = l.2 ∧ s.Inv) ∧
    (∀ ins ∈ [true, false], (keyLogs ins).map (fun l => (present [] l.1 0 == ins, decide (l.1.length < 15), l.1.length == 15 && l.2.isSome)) =
      [(false, true, false), (true, true, false), (false, false, true)]) ∧
    (∀ log ∈ [[(7, true), (65536, true)], [(7, false)]], ∃ (s : State) (e : SetEntry) (hdr : Nat) (u : State) (cs : List Chunk) (tab : Nat),
      (s.ctxAt 0).sets.find? (fun e => e.idx == 1 && foldIdle s e) = some e ∧ heapHeader s 0 e.heap = .ok hdr ∧
      (let read := (foldReads e).foldl (fun s r => crockTouch s 0 r) (crockTouch s 0 (e.heap, 64))
       writeTable read 0 hdr e.tier e.heap (foldChunks e e.log.length).1 (foldChunks e e.log.length).2 = some (.ok (u, cs, tab)) ∧
       (foldReads e).findSome? (crockCause read 0 .rd) = none) ∧ e.log = log) ∧
    (∃ (s : State) (e : SetEntry) (hdr : Nat), (s.ctxAt 0).sets.find? (fun e => e.idx == 1 && foldIdle s e) = some e ∧
      heapHeader s 0 e.heap = .ok hdr ∧
      writeTable ((foldReads e).foldl (fun s r => crockTouch s 0 r) (crockTouch s 0 (e.heap, 64))) 0 hdr e.tier e.heap
        (foldChunks e e.log.length).1 (foldChunks e e.log.length).2 = none) ∧
    (∃ s : State, (s.ctxAt 0).sets.find? (fun e => e.idx == 1 && foldIdle s e) = none) ∧
    (∃ (s : State) (e : SetEntry) (cs : List Chunk), (s.ctxAt 0).sets.find? (fun e => e.idx == 1 && foldDone e) = some e ∧ e.fold = some cs) ∧
    ∃ s : State, (s.ctxAt 0).sets.find? (fun e => e.idx == 1 && foldDone e) = none := by
  refine ⟨?_, ⟨heldBy (some 0) [4, 5] [cmd .mmul .queued, { cmd .mmul .queued with slot := 4, born := 4 }], _, rfl, rfl, rfl, rfl, rfl, rfl, rfl⟩,
    ⟨commanded (cmd .cpy .queued), _, rfl, rfl⟩, ⟨commanded (cmd .mmul .running), _, rfl, rfl, by decide⟩, ?_, ?_, ?_, ?_, by decide, ?_, ?_,
    ⟨holding 9 0x1000 (dirEntry [(7, true)] none), rfl⟩, ⟨holding 9 0x1000 (dirEntry [(7, true)] (some [])), _, _, rfl, rfl⟩,
    ⟨holding 9 0x1000 (dirEntry [(7, true)] none), rfl⟩⟩
  · intro b _ k hk
    have hm : isMatrix k = true := (by decide : ∀ k ∈ [EngKind.mmul, .mstat], isMatrix k = true) k hk
    have hr : ∀ b ∈ [none, some 0, some 7], ∀ k ∈ [EngKind.mmul, .mstat], mayReach (heldBy b [] [cmd k .queued]) (cmd k .queued) = true := by
      decide +kernel
    exact ⟨heldBy b [] [cmd k .queued], _, rfl, hm, rfl, rfl, hr b ‹_› k hk, rfl, rfl, rfl, rfl⟩
  · intro j hj
    have hr : ∀ j ∈ [0, 1], (feedRow (commanded (mmulCmd j)) (mmulCmd j) (((commanded (mmulCmd j)).coreAt 0).mat.seat (mSeat (mmulCmd j)))
        (mmulCmd j).prog).isOk = true ∧ (rowsNamed (mmulCmd j)).1 + (mmulCmd j).prog < 64 ∧ (mmulCmd j).ectl % 16 = j := by decide +kernel
    obtain ⟨row, h⟩ := ok_of (hr j hj).1
    exact ⟨commanded (mmulCmd j), mmulCmd j, row, rfl, (hr j hj).2.1, h, (hr j hj).2.2, rfl⟩
  · have h : keyReady (keyState (keyCmd .sins 0x02000001#64 0x8000#64) [] none) (keyCmd .sins 0x02000001#64 0x8000#64) = true ∧
      (entryFor (keyState (keyCmd .sins 0x02000001#64 0x8000#64) [] none) (keyCmd .sins 0x02000001#64 0x8000#64) 0x02000001#32).isOk = false := by
      decide +kernel
    obtain ⟨c, hc⟩ := error_of h.2
    exact ⟨_, _, c, rfl, h.1, hc⟩
  · have h : keyReady (keyState (keyCmd .sins 0x01000001#64 0x80000000#64) [] none) (keyCmd .sins 0x01000001#64 0x80000000#64) = true ∧
      (entryFor (keyState (keyCmd .sins 0x01000001#64 0x80000000#64) [] none) (keyCmd .sins 0x01000001#64 0x80000000#64) 0x01000001#32).isOk = true ∧
      (engRead (keyState (keyCmd .sins 0x01000001#64 0x80000000#64) [] none) (keyCmd .sins 0x01000001#64 0x80000000#64) 0x80000000 4).isOk = false := by
      decide +kernel
    obtain ⟨c, hc⟩ := error_of h.2.2
    exact ⟨_, _, _, c, rfl, h.1, entry_of h.2.1, hc⟩
  · intro ins hi l hl
    let k : EngKind := if ins then .sins else .sdel
    have hr : ∀ ins ∈ [true, false], ∀ l ∈ keyLogs ins,
        let o := keyCmd (if ins then .sins else .sdel) 0x01000001#64 0x8000#64
        keyReady (keyState o l.1 l.2) o = true ∧ isZero (engRead (keyState o l.1 l.2) o 0x8000 4) = true ∧
        (entryFor (keyState o l.1 l.2) o 0x01000001#32).isOk = true ∧ decide (o.kind = .sins) = ins ∧ Memory.wf (keyState o l.1 l.2).mem = true := by
      decide +kernel
    obtain ⟨h1, h2, h3, h4, h5⟩ := hr ins hi l hl
    exact ⟨_, keyCmd k 0x01000001#64 0x8000#64, dirEntry l.1 l.2, 0, rfl, h1, zero_of h2, entry_of h3, rfl, h4, rfl, rfl, h5⟩
  · intro log hl
    have hm : ∃ n, foldMade 0x1000 log = some (some n) := by
      simp only [List.mem_cons, List.not_mem_nil, or_false] at hl
      obtain rfl | rfl := hl
      · exact ⟨_, fold_makes.1⟩
      · exact ⟨_, fold_makes.2.1⟩
    obtain ⟨n, hn⟩ := hm
    obtain ⟨u, cs, tab, h⟩ := table_of hn
    refine ⟨holding 9000 0x1000 (dirEntry log none), dirEntry log none, heapHdr 0x1000, u, cs, tab, ?_, ?_, ⟨h, rfl⟩, rfl⟩
    · exact (by decide : ∀ log ∈ [[(7, true), (65536, true)], [(7, false)]],
        ((holding 9000 0x1000 (dirEntry log none)).ctxAt 0).sets.find? (fun e => e.idx == 1 && foldIdle (holding 9000 0x1000 (dirEntry log none)) e) =
          some (dirEntry log none)) log hl
    · refine header_of (fold_header 0x1000 (by decide) log ?_)
      exact (by decide : ∀ log ∈ [[(7, true), (65536, true)], [(7, false)]], log ∈ [[(7, true)], [(7, false)], [(7, true), (65536, true)]]) log hl
  · have hh : heapHeader (holding 9000 0 (dirEntry [(7, true)] none)) 0 0x4000 = .ok (heapHdr 0) :=
      header_of (fold_header 0 (by decide) [(7, true)] (by decide))
    have ht := table_none fold_makes.2.2
    have hf : ((holding 9000 0 (dirEntry [(7, true)] none)).ctxAt 0).sets.find?
      (fun e => e.idx == 1 && foldIdle (holding 9000 0 (dirEntry [(7, true)] none)) e) = some (dirEntry [(7, true)] none) := by decide
    exact ⟨_, _, _, hf, hh, ht⟩

/-- A stack with the items of its queue, and a token level. -/
def queued (level : Int) (items : List StackItem) (ops : List EngOp) : State :=
  { sit (.nop h1) with ops := ops, hbm := [{ blankStack 2 with level := level, fifo := items }] }

/-- The head of a stack's queue when the stack is ready: its operation gone; its weight covered by the refilled level; and, behind one that
is gone, one whose weight the level does not cover. An item that waits; an alert that names an operation; and a table copy that is being
rebuilt, or not. -/
theorem witness_BucketEventsComplete :
    let live (s : State) := (s.stackAt 2).fifo.filter fun it => s.ops.any fun o => o.ref == it.op && !o.over
    let level (s : State) :=
      min (Int.ofNat (s.stackAt 2).depth) ((s.stackAt 2).level + Int.ofNat ((s.stackAt 2).refill * (s.clk * 10 / 13 - (s.stackAt 2).last * 10 / 13)))
    (∃ s : State, itemReady s (s.stackAt 2) = true ∧ live s = []) ∧
    (∃ (s : State) (it : StackItem) (o : EngOp), itemReady s (s.stackAt 2) = true ∧ live s = [it] ∧ Int.ofNat it.weight ≤ level s ∧ s.opOf? it.op = some o) ∧
    (∃ (s : State) (it : StackItem), itemReady s (s.stackAt 2) = true ∧ live s = [it] ∧ level s < Int.ofNat it.weight) ∧
    (∃ s : State, itemReady s (s.stackAt 2) = false) ∧
    (∃ s : State, ∃ o ∈ s.ops, (o.core, o.slot) ∈ [(0, 3)] ∧ (o.kind = .tqry ∨ o.kind = .ired) ∧ o.over = false) ∧
    (∃ s : State, (1, 5) ∈ (s.stackAt 2).rebuilding) ∧ ∃ s : State, (1, 5) ∉ (s.stackAt 2).rebuilding :=
  ⟨⟨queued 0 [⟨cmdRef, 8, 0, none⟩] [], by decide, rfl⟩,
    ⟨queued 8 [⟨cmdRef, 8, 0, none⟩] [cmd .ired .running], _, _, by decide, rfl, by decide, rfl⟩,
    ⟨queued 7 [⟨⟨0, 9, 1⟩, 8, 0, none⟩, ⟨cmdRef, 8, 0, none⟩] [cmd .ired .running], _, by decide, rfl, by decide⟩,
    ⟨queued 7 [⟨cmdRef, 8, 0, none⟩] [cmd .ired .running], by decide⟩, ⟨queued 7 [] [cmd .ired .running], _, .head _, .head _, .inr rfl, rfl⟩,
    ⟨{ sit (.nop h1) with hbm := [{ blankStack 2 with rebuilding := [(1, 5)] }] }, .head _⟩, ⟨sit (.nop h1), List.not_mem_nil⟩⟩

/-- The lane has arrived at barrier 3 of its block. -/
def arrives (l : Lane) : Lane := { l with arrived := [(0, 3, 5)] }
/-- A live context alone, at clk 1300. -/
def inCtx (c : Ctx) (s : State) : State := { s with clk := 1300, ctxs := [{ c with live := true }] }

/-- A LAUNCH that waits for the answer of rank 1. -/
def awaited : Launch := { blankLaunch with started := true, fut := some cmdRef, ranks := [1] }

/-- A phase of the block's barrier 3 that is complete, one whose latency is over, and none; a watchdog tick that is due in a context that
is active, one whose warp is halted, resident or saved, one without warps, with and without one in the tick, one that is stopped, one whose
WDOG is 0 and one that waits; a watchdog that has run out; a warp that waits on another rank; and a LAUNCH that waits for its answer. -/
theorem witness_BarrierAndWatchdogEventsComplete :
    let b : BarKey := ⟨0, 0, 0, 3⟩
    (∃ s : State, barReady s b = false ∧ barComplete s b = false) ∧
    (∃ s : State, barDueAt? s b = none ∧ barComplete s b = true ∧ spansPod s b.launch = false) ∧
    (∃ (s : State) (w : Warp), barReady s b = true ∧ s.warpAt? fetchKey = some w ∧ (∃ x ∈ barBlocks s b, x.id = w.blk) ∧ w.hasLane 0 ∧
      (w.laneAt 0).rearrive.find? (fun r => r.1 % 4 == b.lvl && r.2 == b.num) = none) ∧
    (∃ s : State, ∃ l ∈ s.launches, l.id = b.launch) ∧
    (∀ halt ∈ [false, true], ∀ act ∈ [false, true], ∃ s : State, tickReady s 0 = true ∧ (s.ctxAt 0).stopped = false ∧ (s.ctxAt 0).csrOf 0x15 ≠ 0 ∧
      watchActive s (s.ctxAt 0) = act ∧ ∃ w ∈ s.warps, w.ctx = (s.ctxAt 0).num ∧ w.halt = halt) ∧
    (∃ s : State, tickReady s 0 = true ∧ (s.ctxAt 0).stopped = false ∧ (s.ctxAt 0).csrOf 0x15 ≠ 0 ∧ (∀ w ∈ s.warps, w.ctx ≠ (s.ctxAt 0).num) ∧
      (s.ctxAt 0).wdSeen = false) ∧
    (∃ s : State, tickReady s 0 = true ∧ (s.ctxAt 0).stopped = false ∧ (s.ctxAt 0).csrOf 0x15 ≠ 0 ∧ (∀ w ∈ s.warps, w.ctx ≠ (s.ctxAt 0).num) ∧
      (s.ctxAt 0).wdSeen = true ∧ watchActive s (s.ctxAt 0) = false ∧ ∃ w ∈ s.saved.flatMap (·.warps), w.ctx = (s.ctxAt 0).num ∧ w.halt = true) ∧
    (∃ s : State, tickReady s 0 = true ∧ (s.ctxAt 0).csrOf 0x15 ≠ 0 ∧ (s.ctxAt 0).stopped = true) ∧
    (∃ s : State, tickReady s 0 = true ∧ (s.ctxAt 0).csrOf 0x15 = 0 ∧ (s.ctxAt 0).csrOf 0x16 ≠ 0) ∧
    (∃ s : State, tickReady s 0 = false ∧ deadlockReady s 0 = false) ∧ (∃ s : State, deadlockReady s 0 = true) ∧
    (∃ s : State, ∃ w ∈ s.warps, waitsOnLost s 1 w = true ∧ (s.ctxAt w.ctx).stopped = false) ∧
    ∃ (s : State) (l : Launch) (r : FutRef) (o : EngOp), s.launches.find? (fun x => x.id == l.id) = some l ∧ l.fut = some r ∧ 1 ∈ l.ranks ∧
      reachesRank s l 1 = true ∧ s.opOf? r = some o ∧ o.state = .running ∧ (s.ctxAt l.ctx).rank < (s.ctxAt l.ctx).span := by
  refine ⟨⟨sit (.nop h1), rfl, rfl⟩, ⟨onLane arrives (sit (.nop h1)), rfl, rfl, by decide +kernel⟩,
    ⟨{ onLane arrives (sit (.nop h1)) with barDue := [(⟨0, 0, 0, 3⟩, 2)] }, _, rfl, rfl, ⟨_, .head _, rfl⟩, ⟨_, .head _, rfl⟩, rfl⟩,
    ⟨sit (.nop h1), _, .head _, rfl⟩, ?_,
    ⟨{ inCtx (blankCtx 0) (sit (.nop h1)) with warps := [] }, by decide +kernel, rfl, by decide +kernel, ?_, rfl⟩,
    ⟨{ inCtx { blankCtx 0 with wdSeen := true } (sit (.nop h1)) with
        warps := []
        saved := [⟨0, [{ fetchWarp 0 with halt := true }], [], [], none, [], [], [], []⟩] },
      by decide +kernel, rfl, by decide +kernel, ?_, rfl, by decide +kernel, _, .head _, rfl, rfl⟩,
    ⟨inCtx { blankCtx 0 with stopped := true } (sit (.nop h1)), by decide +kernel, by decide +kernel, rfl⟩,
    ⟨inCtx { blankCtx 0 with csr := [(0x15, 0#32), (0x16, 5#32)] } (sit (.nop h1)), by decide +kernel, by decide +kernel, by decide +kernel⟩,
    ⟨sit (.nop h1), rfl, by decide +kernel⟩, ⟨inCtx { blankCtx 0 with csr := [(0x16, 1000000#32)] } (sit (.nop h1)), by decide +kernel⟩,
    ⟨{ onLane (fun l => { l with waits := [⟨2, 3, none⟩] }) (sit (.nop h1)) with ctxs := [{ blankCtx 0 with live := true, hdr := 4#512 <<< 396 }] },
      _, .head _, by decide +kernel, rfl⟩,
    ⟨{ commanded (cmd .launch .running) with
        launches := [awaited]
        ctxs := [{ blankCtx 0 with live := true, hdr := 4#512 <<< 396 }] },
      awaited, _, _, rfl, rfl, .head _, by decide +kernel, rfl, rfl, by decide +kernel⟩⟩
  · intro halt _ act _
    refine ⟨inCtx { blankCtx 0 with wdActive := act } ((sit (.nop h1)).modWarp fetchKey fun w => { w with halt := halt }), ?_, rfl, ?_, ?_, _, .head _, rfl,
      rfl⟩
    · cases halt <;> cases act <;> decide +kernel
    · cases halt <;> cases act <;> decide
    · cases act <;> rfl
  · intro w hw
    exact absurd hw List.not_mem_nil
  · intro w hw
    exact absurd hw List.not_mem_nil

/-- A request of a peer for four bytes at 0x4000 under key 0. -/
def peer (op : PeerOp) : PeerReq := ⟨0, op, 0x4000, 4, 7, 0, 0, 4, 1⟩
/-- Tenant 0 of port 2 is context 0. -/
def tenanted (s : State) : State := { paged s with tenants := [(512, 0x140#32)] }
/-- Requests of one word to another device, from two lanes, the second at an address. -/
def remotes (key : Nat) (q : List (Nat × List TenantQ)) : State :=
  { paged (sit (.nop h1)) with
    accesses := [{ acc .ld 0x4000 with st := .remoteWait }, { acc .ld key with id := 8, lane := 1, st := .remoteWait }]
    ports := q }
/-- A request of a size at a port. -/
def outReq (id bytes : Nat) : OutReq := ⟨id, bytes, 1, 0x4000, 1, 0, 4⟩
/-- One request. -/
def remote1 : State := { paged (sit (.nop h1)) with accesses := [{ acc .ld 0x4000 with st := .remoteWait }] }

/-- A request that is placed, at bytes that read as they are, as a test. -/
def placedPeer (op : PeerOp) : Bool :=
  match peerPlace (tenanted (sit (.nop h1))) ((tenanted (sit (.nop h1))).ctxAt 0) (peer op) with
  | .ok p => !anyForeign (tenanted (sit (.nop h1))) p.key 4 p.tkey
  | .error _ => false

theorem placed_of {op : PeerOp} (h : placedPeer op = true) :
    ∃ p, peerPlace (tenanted (sit (.nop h1))) ((tenanted (sit (.nop h1))).ctxAt 0) (peer op) = .ok p ∧
      anyForeign (tenanted (sit (.nop h1))) p.key 4 p.tkey = false := by
  unfold placedPeer at h
  split at h
  · rename_i p hp
    exact ⟨p, hp, by simpa using h⟩
  · exact absurd h Bool.false_ne_true

/-- An access to the second tier, whose port is down. -/
def tierState : State := { paged (sit (.nop h1)) with accesses := [acc .ld (keyTier2 + 0x4000)], cxlDown := [4] }

theorem trapsAlone {s : State} {a : Access} {w : Warp} {p : Path} {r : InRun} (h1 : s.accesses = [a]) (h2 : s.warpAt? fetchKey = some w)
    (h3 : w.pathOf? 0 = some p) (h4 : p.inRun = some r) (h5 : a.w = fetchKey ∧ a.lane = 0)
    (h6 : (!p.handler && w.lanes.all (fun l => l.helper.isNone) && !w.trapMode && w.trapReq.isNone) = true)
    (h7 : (s.ctxFor 0 w.ctx).csr64 0x1C = 0x8000) (h8 : ((s.ctxFor 0 w.ctx).csrOf 0x13).getLsbD 0 = false) : TrapsAlone s a w p r := by
  simp only [Bool.and_eq_true, Bool.not_eq_true', List.all_eq_true, Option.isNone_iff_eq_none] at h6
  refine ⟨by rw [h1]; simp, by rw [h5.1]; exact h2, by rw [h5.2]; exact h3, h4, by rw [h5.2]; decide, ⟨h6.1.1.1, h6.1.1.2, h6.1.2, h6.2⟩, ?_, ?_⟩
  · rw [h5.1]
    exact handled h7
  · rw [h5.1]
    exact stopping h8

/-- An answer with an error, as a test. -/
def errorIs {α : Type} (x : Except Nat α) (c : Nat) : Bool := match x with | .error e => e == c | .ok _ => false

theorem errorIs_of {α : Type} {x : Except Nat α} {c : Nat} (h : errorIs x c = true) : x = .error c := by
  cases x with
  | ok v => exact absurd h Bool.false_ne_true
  | error e => exact congrArg _ (eq_of_beq h)

/-- Requests that are refused for each reason, by RANGE of the checks, and by another; of each kind that are placed; accesses that no
answer is due for: not waiting, queued at a port, and served with the load of another lane; an answer with another of its word outstanding,
and the last, of a warp that may trap; loads; commands that wait for an answer, running and over, and an answer that nothing waits for; an
access whose port is down; and a round that covers a request and one that does not. -/
theorem witness_RemoteEventsComplete :
    (∃ s : State, tenantCtx s 2 0 = none) ∧ (∃ s : State, tenantCtx s 2 0 = some 0 ∧ (s.ctxAt 0).live = false) ∧
    (∃ (s : State) (r : PeerReq), tenantCtx s 2 r.key = some 0 ∧ (s.ctxAt 0).live = true ∧ peerPlace s (s.ctxAt 0) r = .error cRange ∧
      s.cxlDown ++ s.cxlPoison = []) ∧
    (∃ (s : State) (r : PeerReq), tenantCtx s 2 r.key = some 0 ∧ (s.ctxAt 0).live = true ∧ peerPlace s (s.ctxAt 0) r = .error cPage) ∧
    (∀ op ∈ [PeerOp.load, .store, .atom 2#4, .red 2#4], ∃ (s : State) (p : Xlat), tenantCtx s 2 (peer op).key = some 0 ∧ (s.ctxAt 0).live = true ∧
      peerPlace s (s.ctxAt 0) (peer op) = .ok p ∧ s.Inv ∧ (∀ q ∈ s.reports, q.owner ≠ portOwner 2) ∧
      watchMatches (s.ctxAt 0) 18 (vaRange (peer op).va.toNat (peer op).bytes) = [] ∧ anyForeign s p.key (peer op).bytes p.tkey = false) ∧
    (∃ (s : State) (a : Access), s.accesses.find? (fun x => x.id == a.id) = some a ∧ a.st ≠ .remoteWait) ∧
    (∃ (s : State) (a : Access), s.accesses.find? (fun x => x.id == a.id) = some a ∧ queuedAtPort s a.id = true) ∧
    (∃ (s : State) (a : Access), s.accesses.find? (fun x => x.id == a.id) = some a ∧ a.st = .remoteWait ∧ queuedAtPort s a.id = false ∧
      (sameLoads s a).head?.map (·.id) ≠ some a.id) ∧
    (∃ (s : State) (a : Access), s.accesses.find? (fun x => x.id == a.id) = some a ∧ a.st = .remoteWait ∧ queuedAtPort s a.id = false ∧
      (sameLoads s a).head?.map (·.id) = some a.id ∧ ∃ b ∈ s.accesses, b.grp = a.grp ∧ b.st = .remoteWait ∧ ∀ c ∈ sameLoads s a, c.id ≠ b.id) ∧
    (∃ (s : State) (a : Access) (w : Warp) (p : Path) (r : InRun), s.accesses.find? (fun x => x.id == a.id) = some a ∧ a.st = .remoteWait ∧
      queuedAtPort s a.id = false ∧ TrapsAlone s a w p r) ∧
    (∃ (s : State) (a : Access), s.accesses.find? (fun x => x.id == a.id) = some a ∧ a.st = .remoteWait ∧ queuedAtPort s a.id = false ∧
      (sameLoads s a).head?.map (·.id) = some a.id ∧ a.kind = .ld ∧ a.flag.isSome = true ∧ stackOffset a.va.toNat = none ∧
      (∀ b ∈ s.accesses, b.id = a.id → b = a) ∧ ∀ b ∈ s.accesses, b.grp = a.grp → b.refusal = none) ∧
    (∀ st ∈ [OpState.running, .stopped], ∃ (s : State) (o : EngOp), queuedAtPort s 5 = false ∧ s.accesses.find? (fun a => a.id == 5) = none ∧
      s.ops.find? (fun o => o.far.contains 5) = some o ∧ o.state = st) ∧
    (∃ s : State, queuedAtPort s 5 = false ∧ s.accesses.find? (fun a => a.id == 5) = none ∧ (∀ o ∈ s.ops, 5 ∉ o.far) ∧
      (∀ q ∈ s.queues, ∀ e ∈ q.far, e.1 ≠ 5) ∧ ∀ l ∈ s.launches, l.id ≠ 5) ∧
    (∃ (s : State) (a : Access) (key : Nat) (w : Warp) (p : Path) (r : InRun), s.accesses.find? (fun x => x.id == a.id) = some a ∧
      canPerform s a = true ∧ a.loc = .mem key ∧ failedPort? s a = some 4 ∧ TrapsAlone s a w p r) ∧
    ∀ n ∈ [256, 257], ∃ (s : State) (q : TenantQ) (r : OutReq), (∀ r ∈ s.reports, r.owner ≠ portOwner 2) ∧ smGet [] s.ports 2 = [q] ∧ q.reqs = [r] ∧
      r.bytes = n ∧ tenantWeight s 2 q.key = 1 := by
  refine ⟨⟨sit (.nop h1), rfl⟩, ⟨{ tenanted (sit (.nop h1)) with ctxs := [] }, rfl, rfl⟩,
    ⟨tenanted (sit (.nop h1)), { peer .load with va := 0x00FE000000000000 }, rfl, rfl, ?_, rfl⟩,
    ⟨{ tenanted (sit (.nop h1)) with mem := [] }, peer .load, rfl, rfl, ?_⟩, ?_,
    ⟨waiting (acc .ld 0x4000) [], acc .ld 0x4000, rfl, by decide⟩,
    ⟨remotes 0x4000 [(2, [⟨0, [outReq 7 64], 0⟩])], { acc .ld 0x4000 with st := .remoteWait }, rfl, rfl⟩,
    ⟨remotes 0x4000 [], { acc .ld 0x4000 with id := 8, lane := 1, st := .remoteWait }, rfl, rfl, rfl, by decide⟩,
    ⟨remotes 0x4010 [], { acc .ld 0x4000 with st := .remoteWait }, rfl, rfl, rfl, rfl, _, .tail _ (.head _), rfl, rfl, by decide⟩,
    ⟨remote1, { acc .ld 0x4000 with st := .remoteWait }, _, _, _, rfl, rfl, rfl,
      trapsAlone rfl rfl rfl rfl ⟨rfl, rfl⟩ (by decide +kernel) (by decide +kernel) (by decide +kernel)⟩,
    ⟨remote1, { acc .ld 0x4000 with st := .remoteWait }, rfl, rfl, rfl, rfl, rfl, rfl, by decide +kernel, ?_, ?_⟩, ?_,
    ⟨sit (.nop h1), rfl, rfl, fun o ho => (by cases ho), fun q hq => (by cases hq), ?_⟩,
    ⟨tierState, acc .ld (keyTier2 + 0x4000), _, _, _, _, rfl, by decide +kernel, rfl, by decide +kernel,
      trapsAlone rfl rfl rfl rfl ⟨rfl, rfl⟩ (by decide +kernel) (by decide +kernel) (by decide +kernel)⟩, ?_⟩
  · exact errorIs_of (by decide +kernel)
  · exact errorIs_of (by decide +kernel)
  · intro op hop
    have hp : ∀ op ∈ [PeerOp.load, .store, .atom 2#4, .red 2#4], placedPeer op = true ∧
        watchMatches ((tenanted (sit (.nop h1))).ctxAt 0) 18 (vaRange (peer op).va.toNat (peer op).bytes) = [] := by decide +kernel
    obtain ⟨p, h, hf⟩ := placed_of (hp op hop).1
    exact ⟨tenanted (sit (.nop h1)), p, (by decide +kernel : tenantCtx (tenanted (sit (.nop h1))) 2 0 = some 0), rfl, h, by decide +kernel,
      by intro r hr; exact absurd hr List.not_mem_nil, (hp op hop).2, hf⟩
  · intro b hb _
    exact List.mem_singleton.mp hb
  · intro b hb _
    obtain rfl := List.mem_singleton.mp hb
    rfl
  · intro st _
    exact ⟨commanded { cmd .tqload st with far := [5] }, _, rfl, rfl, rfl, rfl⟩
  · decide
  · intro n _
    exact ⟨{ tenanted (sit (.nop h1)) with ports := [(2, [⟨0, [outReq 7 n], 0⟩])] }, _, _, by intro r hr; exact absurd hr List.not_mem_nil, rfl, rfl, rfl,
      (by decide +kernel : tenantWeight (tenanted (sit (.nop h1))) 2 0 = 1)⟩

/-- A launch record of one block of one thread, NREG 16, with a signal word and value. -/
def record (nreg sig val : Nat) : Nat :=
  2 ^ 154 + 2 ^ 149 + 2 ^ 133 + 2 ^ 117 + 2 ^ 101 + 2 ^ 85 + nreg * 2 ^ 77 + sig / 8 * 2 ^ 401 + val * 2 ^ 337

/-- Queue 0 of context 0 at 0x5000, with a record; the context has code. -/
def queue (q : Queue) (rec : Nat) (ls : List Launch) : State :=
  { paged (sit (.nop h1)) with
    mem := pages ++ bytesAt 0x5000 rec
    queues := [q]
    launches := ls
    ctxs := [{ blankCtx 0 with live := true, hdr := 1#512 <<< 472 ||| 9#512 <<< 252 }]
    tenants := [(0, 0x140#32)] }

/-- A queue that runs. -/
def running : Queue := { blankQueue 0 with qbase := 0x5000, enable := true }

/-- The queue before a restart, or a doorbell, lets it go on. -/
def before (restart : Bool) (Q : Queue) : Queue := if restart then { Q with stopped := true } else { Q with tail := 0 }

/-- What a queue may do that a restart or a doorbell lets go on as `Q`. -/
def Starts (restart : Bool) (s : State) (Q : Queue) : Prop :=
  Q.forwards = [] ∧
    if restart then (s.queueAt 0).stopped = true ∧ Q = { s.queueAt 0 with stopped := false, cause := 0 } else Q = { s.queueAt 0 with tail := Q.tail }

/-- It runs, with a record that is in range. -/
def Runs (s : State) (Q : Queue) : Prop :=
  Q.enable = true ∧ Q.stopped = false ∧ Q.head ≠ Q.tail ∧ (s.ctxAt Q.ctx).live = true ∧ (s.ctxAt Q.ctx).stopped = false

theorem starts_of (restart : Bool) (Q : Queue) (rec : Nat) (h : Q.forwards = [] ∧ Q.stopped = false ∧ Q.cause = 0 ∧ Q.id = 0) :
    Starts restart (queue (before restart Q) rec []) Q := by
  obtain ⟨h1, h2, h3, h4⟩ := h
  obtain ⟨⟩ := Q
  simp only at h1 h2 h3 h4
  subst h1 h2 h3 h4
  cases restart
  · exact ⟨rfl, rfl⟩
  · exact ⟨rfl, rfl, rfl⟩

/-- What the record of a queue that goes on asks, as a test: the code of the rejection. -/
def takes (restart : Bool) (rec : Nat) : Except Nat (Option Nat) :=
  let s := queue (before restart { running with tail := 1 }) rec []
  match translate s (s.ctxAt 0) (recordVa running 0) .rd with
  | .error c => .error c
  | .ok p =>
    if p.remote.isSome then .error 99
    else (readRecord s 0 (recordVa running 0)).map fun r => rejectCode s { blankLaunch with ctx := 0, record := r }

theorem takes_code : ∀ restart ∈ [true, false], ∀ c ∈ [none, some 1],
    (match takes restart (record (if c = none then 16 else 0) 0 0) with | .ok x => decide (x = c) | _ => false) = true := by decide +kernel

theorem takes_of {restart : Bool} {rec : Nat} {c : Option Nat} (h : (match takes restart rec with | .ok x => decide (x = c) | _ => false) = true) :
    let s := queue (before restart { running with tail := 1 }) rec []
    ∃ p r, translate s (s.ctxAt 0) (recordVa running 0) .rd = .ok p ∧ p.remote = none ∧ readRecord s 0 (recordVa running 0) = .ok r ∧
      rejectCode s { blankLaunch with ctx := 0, record := r } = c := by
  intro s
  unfold takes at h
  change (match (match translate s (s.ctxAt 0) (recordVa running 0) .rd with
    | .error c => Except.error c
    | .ok p => if p.remote.isSome then .error 99
      else (readRecord s 0 (recordVa running 0)).map fun r => rejectCode s { blankLaunch with ctx := 0, record := r }) with
    | .ok x => decide (x = c) | _ => false) = true at h
  cases hp : translate s (s.ctxAt 0) (recordVa running 0) .rd with
  | error e => rw [hp] at h; exact absurd h Bool.false_ne_true
  | ok p =>
    rw [hp] at h
    by_cases hq : p.remote.isSome = true
    · simp [hq] at h
    · simp only [hq] at h
      cases hr : readRecord s 0 (recordVa running 0) with
      | error e => rw [hr] at h; exact absurd h Bool.false_ne_true
      | ok r => rw [hr] at h; exact ⟨p, r, rfl, by simpa using hq, rfl, of_decide_eq_true h⟩

/-- A launch that waits for its signal word at 0x6000 to reach a value. -/
def waitingLaunch (val : Nat) (f : FarReq) : Launch :=
  { blankLaunch with id := 5, sig := f, record := BitVec.ofNat 512 (record 16 0x6000 val) }

/-- The queue of that launch: its context has no page table (0), the one of `pages` (1), or one with the page on another device (2). -/
def signals (val root : Nat) (f : FarReq) : State :=
  { queue { running with cur := some 5 } 0 [waitingLaunch val f] with
    mem := if root = 2 then pages ++ [(0x3006, 0x0F#8)] else pages
    bar0 := [(8, 0x10001#64)]
    ctxs := [{ blankCtx 0 with live := true, hdr := BitVec.ofNat 512 (min root 1 * 2 ^ 472) }] }

/-- A LAUNCH whose answer from two ranks, or one, is awaited. -/
def answered (rs : List Nat) : State :=
  { commanded (cmd .launch .running) with launches := [{ blankLaunch with fut := some cmdRef, ranks := rs }] }

/-- Where the signal word of the waiting launch is, as a test: on another device, or its value here. -/
def signalAt (val root : Nat) (f : FarReq) : Option (Option Nat) :=
  (signalPlace (signals val root f) (waitingLaunch val f)).map fun p =>
    if p.remote.isSome then none else some (homeRead (signals val root f) p.key 8 p.tkey)

theorem signal_at : signalAt 0 1 .none = some (some 0) ∧ signalAt 1 1 .none = some (some 0) ∧ signalAt 0 0 .none = none ∧
    (∀ f ∈ [FarReq.none, .out], signalAt 0 2 f = some none) ∧ (waitingLaunch 0 .none).sigVal = 0 ∧ (waitingLaunch 1 .none).sigVal = 1 := by decide +kernel

theorem local_of {val root v : Nat} {f : FarReq} (h : signalAt val root f = some (some v)) :
    ∃ p, signalPlace (signals val root f) (waitingLaunch val f) = some p ∧ p.remote = none ∧ homeRead (signals val root f) p.key 8 p.tkey = v := by
  unfold signalAt at h
  cases hp : signalPlace (signals val root f) (waitingLaunch val f) with
  | none => rw [hp] at h; exact absurd h (by simp)
  | some p =>
    rw [hp] at h
    by_cases hr : p.remote.isSome = true
    · simp [hr] at h
    · refine ⟨p, rfl, by simpa using hr, by simpa [hr] using h⟩

theorem remote_of {val root : Nat} {f : FarReq} (h : signalAt val root f = some none) :
    ∃ p, signalPlace (signals val root f) (waitingLaunch val f) = some p ∧ p.remote.isSome = true := by
  unfold signalAt at h
  cases hp : signalPlace (signals val root f) (waitingLaunch val f) with
  | none => rw [hp] at h; exact absurd h (by simp)
  | some p =>
    rw [hp] at h
    by_cases hr : p.remote.isSome = true
    · exact ⟨p, rfl, hr⟩
    · simp [hr] at h

theorem lost_of {val root : Nat} {f : FarReq} (h : signalAt val root f = none) : signalPlace (signals val root f) (waitingLaunch val f) = none := by
  unfold signalAt at h
  simpa using h

/-- A queue that a doorbell or a restart lets go on: that does not run, whose TAIL is too far, that has a record in hand, whose next record
cannot be read, is accepted and is not. A queue that is not stopped; a record that awaits no signal, and one whose signal has not come, has
come, cannot be read, and is on another device, asked for or not; a forwarded record without its queue, of a stopped context, at a stopped
queue, and with room; and the last answer of a rank and one before it, of a launch that has failed or not. -/
theorem witness_QueueEventsComplete :
    (∀ restart ∈ [true, false],
      (∃ (s : State) (Q : Queue), Starts restart s Q ∧ ¬ Runs s Q) ∧
      (∃ (s : State) (Q : Queue), Starts restart s Q ∧ Runs s Q ∧ ¬ (Q.tail - Q.head).toNat ≤ 2 ^ Q.log2n) ∧
      (∃ (s : State) (Q : Queue), Starts restart s Q ∧ Runs s Q ∧ (Q.tail - Q.head).toNat ≤ 2 ^ Q.log2n ∧ Q.cur.isSome = true) ∧
      (∃ (s : State) (Q : Queue) (c : Nat), Starts restart s Q ∧ Runs s Q ∧ (Q.tail - Q.head).toNat ≤ 2 ^ Q.log2n ∧ Q.cur = none ∧
        translate s (s.ctxAt Q.ctx) (recordVa Q Q.head.toNat) .rd = .error c) ∧
      ∀ c ∈ [none, some 1], ∃ (s : State) (Q : Queue) (p : Xlat) (r : BitVec 512), Starts restart s Q ∧ Runs s Q ∧
        (Q.tail - Q.head).toNat ≤ 2 ^ Q.log2n ∧ Q.cur = none ∧ Q.tail = Q.head + 1#32 ∧
        translate s (s.ctxAt Q.ctx) (recordVa Q Q.head.toNat) .rd = .ok p ∧ p.remote = none ∧
        readRecord s Q.ctx (recordVa Q Q.head.toNat) = .ok r ∧ rejectCode s { blankLaunch with ctx := Q.ctx, record := r } = c) ∧
    (∃ s : State, (s.queueAt 0).stopped = false) ∧
    (∃ s : State, (s.queueAt 0).cur = none) ∧
    (∃ (s : State) (l : Launch), (s.queueAt 0).cur = some 5 ∧ s.launches.find? (fun x => x.id == 5) = some l ∧ awaitsSignal s l = false) ∧
    (∀ val ∈ [0, 1], ∃ (s : State) (l : Launch) (p : Xlat), (s.queueAt 0).cur = some 5 ∧ s.launches.find? (fun x => x.id == 5) = some l ∧
      awaitsSignal s l = true ∧ signalPlace s l = some p ∧ p.remote = none ∧ homeRead s p.key 8 p.tkey = 0 ∧ l.sigVal = val ∧
      (s.queueAt l.q).head = (s.queueAt l.q).tail ∧ (s.queueAt l.q).forwards = []) ∧
    (∃ (s : State) (l : Launch), (s.queueAt 0).cur = some 5 ∧ s.launches.find? (fun x => x.id == 5) = some l ∧ awaitsSignal s l = true ∧
      signalPlace s l = none) ∧
    (∀ f ∈ [FarReq.none, .out], ∃ (s : State) (l : Launch) (p : Xlat), (s.queueAt 0).cur = some 5 ∧ s.launches.find? (fun x => x.id == 5) = some l ∧
      awaitsSignal s l = true ∧ signalPlace s l = some p ∧ p.remote.isSome = true ∧ l.sig = f) ∧
    (∃ s : State, ¬ (tenantCtx s 0 0 = some (s.queueAt 0).ctx ∧ (s.queueAt 0).enable = true)) ∧
    (∃ s : State, tenantCtx s 0 0 = some (s.queueAt 0).ctx ∧ (s.queueAt 0).enable = true ∧ (s.ctxAt (s.queueAt 0).ctx).stopped = true) ∧
    (∀ st ∈ [true, false], ∃ s : State, tenantCtx s 0 0 = some (s.queueAt 0).ctx ∧ (s.queueAt 0).enable = true ∧
      (s.ctxAt (s.queueAt 0).ctx).stopped = false ∧ (s.queueAt 0).stopped = st ∧
      (s.queueAt 0).forwards = [] ∧ (s.queueAt 0).cur.isSome = true ∧ (s.queueAt 0).log2n ≤ 16 ∧
      ((s.queueAt 0).tail - (s.queueAt 0).head).toNat < 2 ^ (s.queueAt 0).log2n) ∧
    ∀ rs ∈ [[3], [3, 4]], ∀ f ∈ [true, false], ∃ (s : State) (l : Launch) (o : EngOp), s.launches.find? (fun x => x.id == 0) = some l ∧ l.failed = f ∧
      l.fut = some cmdRef ∧ o ∈ s.ops ∧ o.ref = cmdRef ∧ o.state = .running ∧ l.ranks = rs := by
  obtain ⟨a1, a2, a3, a4, a5, a6⟩ := signal_at
  refine ⟨?_, ⟨sit (.nop h1), rfl⟩, ⟨sit (.nop h1), rfl⟩,
    ⟨queue { running with cur := some 5 } 0 [{ waitingLaunch 0 .none with started := true }], _, rfl, rfl, rfl⟩, ?_,
    ⟨signals 0 0 .none, _, rfl, rfl, rfl, lost_of a3⟩, ?_, ⟨sit (.nop h1), by decide⟩,
    ⟨{ queue running 0 [] with ctxs := [{ blankCtx 0 with live := true, stopped := true }] },
      (by decide +kernel : tenantCtx (queue running 0 []) 0 0 = some 0), rfl, rfl⟩, ?_, ?_⟩
  · intro restart hr
    refine ⟨⟨_, { running with enable := false }, starts_of restart _ 0 ⟨rfl, rfl, rfl, rfl⟩, fun h => Bool.false_ne_true h.1⟩,
      ⟨_, { running with tail := 2 }, starts_of restart _ 0 ⟨rfl, rfl, rfl, rfl⟩, ⟨rfl, rfl, by decide, rfl, rfl⟩, by decide⟩,
      ⟨_, { running with tail := 1, cur := some 5 }, starts_of restart _ 0 ⟨rfl, rfl, rfl, rfl⟩, ⟨rfl, rfl, by decide, rfl, rfl⟩, by decide, rfl⟩,
      ⟨_, { running with tail := 1, qbase := 0x80000000 }, cPage, starts_of restart _ 0 ⟨rfl, rfl, rfl, rfl⟩, ⟨rfl, rfl, by decide, rfl, rfl⟩,
        by decide, rfl, ?_⟩, ?_⟩
    · exact errorIs_of ((by decide +kernel : ∀ restart ∈ [true, false],
        let s := queue (before restart { running with tail := 1, qbase := 0x80000000 }) 0 []
        errorIs (translate s (s.ctxAt 0) (recordVa { running with tail := 1, qbase := 0x80000000 } 0) .rd) cPage = true) restart hr)
    · intro c hc
      obtain ⟨p, r, h1, h2, h3, h4⟩ := takes_of (takes_code restart hr c hc)
      exact ⟨_, { running with tail := 1 }, p, r, starts_of restart _ _ ⟨rfl, rfl, rfl, rfl⟩, ⟨rfl, rfl, by decide, rfl, rfl⟩, by decide, rfl, rfl, h1, h2,
        h3, h4⟩
  · intro val hv
    simp only [List.mem_cons, List.not_mem_nil, or_false] at hv
    obtain rfl | rfl := hv
    · obtain ⟨p, h, hr, hv⟩ := local_of a1
      exact ⟨_, _, p, rfl, rfl, rfl, h, hr, hv, a5, rfl, rfl⟩
    · obtain ⟨p, h, hr, hv⟩ := local_of a2
      exact ⟨_, _, p, rfl, rfl, rfl, h, hr, hv, a6, rfl, rfl⟩
  · intro f hf
    obtain ⟨p, h, hr⟩ := remote_of (a4 f hf)
    exact ⟨signals 0 2 f, _, p, rfl, rfl, rfl, h, hr, rfl⟩
  · intro st _
    exact ⟨queue { running with stopped := st, cur := some 5 } 0 [], (by decide +kernel : tenantCtx (queue running 0 []) 0 0 = some 0), rfl, rfl, rfl, rfl,
      rfl, Nat.zero_le 16, (by decide : ((0 : W32) - 0).toNat < 2 ^ 0)⟩
  · intro rs _ f _
    exact ⟨{ answered rs with launches := [{ blankLaunch with fut := some cmdRef, ranks := rs, failed := f }] }, _, _, rfl, rfl, rfl, .head _, rfl, rfl, rfl⟩

/-- A queue whose launch waits for a place; `since` is the start of its wait. -/
def placing (rec : Nat) (since : Option Nat) (clk : Nat) : State :=
  { queue { running with cur := some 5 } 0 [{ blankLaunch with id := 5, started := true, record := BitVec.ofNat 512 rec, waitSince := since }] with
    clk := clk }

/-- A record whose blocks find no core: 32 warps of NREG 255. -/
def bigRecord : Nat := record 255 0 0 + 1023 * 2 ^ 154

/-- Block 0, whose save is asked, or that is saved. -/
def block (save : Option Bool) (saved : Bool) : Block :=
  { blankBlock with launch := 5, warps := [fetchKey], retired := false, saving := save, saved := saved }

/-- Block 0 alone, its warp at a run boundary. -/
def leaving (save : Option Bool) : State := { onPath (fun p => { p with inRun := none }) (sit (.nop h1)) with blocks := [block save false] }

/-- Block 0 saved, with a scratchpad range of a length, its launch's queue at hand. -/
def restorable (len : Nat) : State :=
  { placing (record 16 0 0) none 1 with
    warps := []
    blocks := [{ block none true with scrLen := len }]
    saved := [⟨0, [fetchWarp 0], [], [], none, [], [], [], []⟩] }

theorem jobs_of {s : State} {j : Job} (h : (queueOrder s).map (·.2) = [j]) : ∃ q, queueOrder s = [(q, j)] := by
  match hq : queueOrder s with
  | [] => rw [hq] at h; exact absurd h (List.cons_ne_nil _ _).symm
  | [(q, k)] => rw [hq] at h; obtain rfl : k = j := (List.cons.inj h).1; exact ⟨q, rfl⟩
  | a :: b :: r => rw [hq] at h; exact absurd (congrArg List.length h) (by simp)

theorem fresh_jobs : (queueOrder (placing (record 16 0 0) none 1)).map (·.2) = [.fresh 5 0] ∧
    (queueOrder (placing bigRecord none 1)).map (·.2) = [.fresh 5 0] ∧ (tryJob (placing (record 16 0 0) none 1) (.fresh 5 0)).isSome = true ∧
    (tryJob (placing bigRecord none 1) (.fresh 5 0)).isNone = true ∧
    (planWarps (placing (record 16 0 0) none 1) (jobPref (placing (record 16 0 0) none 1) (.fresh 5 0)) 16 1).isSome = true ∧
    (scratchAt? (placing (record 16 0 0) none 1) (jobPref (placing (record 16 0 0) none 1) (.fresh 5 0)) 0).isSome = true := by decide +kernel

theorem waiting_jobs : ∀ clk ∈ [5200, 5199], .fresh 5 0 ∈ jobsOf (placing bigRecord (some 0) clk) 5 := by decide +kernel

theorem saved_jobs : (queueOrder (restorable 0)).map (·.2) = [.restore 5 0 [0]] ∧
    (queueOrder (restorable (2 ^ 20))).map (·.2) = [.restore 5 0 [0]] ∧
    (tryJob (restorable 0) (.restore 5 0 [0])).isSome = true ∧ (tryJob (restorable (2 ^ 20)) (.restore 5 0 [0])).isNone = true ∧
    (placeSaved (restorable 0) 0 3).isSome = true := by decide +kernel

/-- A new block with a place and without; a wait that is over and one that is not; a block that may be saved and one that may not; a saved
block that is the first with a place, another beside it, and none with one; and a core that is cool, hot or droops. -/
theorem witness_PlacementEventsComplete :
    (∃ s : State, queueOrder s = []) ∧
    (∃ (s u : State) (q : Queue) (ks : List WarpKey) (off : Nat),
      let l := s.launchAt 5
      queueOrder s = [(q, .fresh 5 0)] ∧ tryJob s (.fresh 5 0) = some u ∧ l.ext 1 ≤ 1 ∧ l.waited = false ∧
        planWarps s (jobPref s (.fresh 5 0)) l.nreg l.warpsPer = some ks ∧ scratchAt? s (jobPref s (.fresh 5 0)) l.scratch = some off) ∧
    (∃ (s : State) (q : Queue), queueOrder s = [(q, .fresh 5 0)] ∧ tryJob s (.fresh 5 0) = none ∧ ∃ l ∈ s.launches, l.id = 5 ∧ l.waitSince = none) ∧
    (∀ clk ∈ [5200, 5199], ∃ s : State, s.clk = clk ∧ .fresh 5 0 ∈ jobsOf s 5 ∧ ∃ l ∈ s.launches, l.id = 5 ∧ l.waitSince = some 0) ∧
    (∃ s : State, saveReady s (s.blockAt 0) = false) ∧ (∃ s : State, saveReady s (s.blockAt 0) = true ∧ (s.warps.map (·.key)).Nodup ∧ (s.blocks.map (·.id)).Nodup ∧
      (∀ w ∈ s.warps, ∀ l ∈ w.lanes, l.stk = [] ∧ l.hstk = []) ∧
      (∃ c ∈ clusterAll s (s.blockAt 0).launch (s.blockAt 0).cluster, c.saved = false ∧ ∃ w ∈ s.warps, w.blk = c.id)) ∧
    (∃ (s u : State) (e : Queue × Job), (queueOrder s).find? (fun e => (tryJob s e.2).isSome) = some e ∧ tryJob s e.2 = some u ∧
      (∃ l c bs, e.2 = .restore l c bs ∧ 0 ∈ bs) ∧ ¬ ∃ l c bs, e.2 = .restore l c bs ∧ 1 ∈ bs) ∧
    (∃ s : State, queueOrder s ≠ [] ∧ (queueOrder s).find? (fun e => (tryJob s e.2).isSome) = none) ∧
    (∃ (s u : State) (x : SavedBlock), placeSaved s 0 3 = some u ∧ s.savedAt? 0 = some x ∧ ∃ b ∈ s.blocks, b.id = 0) ∧
    ∀ r ∈ [(⟨0, 95, 32⟩ : ConeReading), ⟨0, 96, 0⟩, ⟨0, 95, 33⟩], ∃ (s : State) (b : Block), r ∈ [r] ∧ ([r].map fun q => q.core).Nodup ∧ (∀ e ∈ s.kilnLog, e.src ≤ 4095) ∧
      b ∈ s.blocks ∧ s.blockAt b.id = b ∧ b.core = r.core ∧ b.saved = false ∧ b.retired = false ∧ b.since + 2600000 ≤ s.clk ∧ s.droopMax = 32 := by
  obtain ⟨f1, f2, f3, f4, f5, f6⟩ := fresh_jobs
  obtain ⟨g1, g2, g3, g4, g5⟩ := saved_jobs
  refine ⟨⟨sit (.nop h1), rfl⟩, ?_, ?_, ?_, ⟨sit (.nop h1), rfl⟩, ⟨leaving (some true), by decide +kernel, by decide, by decide, ?_, _, .head _, rfl, _, .head _, rfl⟩, ?_, ?_, ?_, ?_⟩
  · obtain ⟨q, h⟩ := jobs_of f1
    obtain ⟨u, hu⟩ := some_of f3
    obtain ⟨ks, hk⟩ := some_of f5
    obtain ⟨off, ho⟩ := some_of f6
    have hl : ((placing (record 16 0 0) none 1).launchAt 5).nreg = 16 ∧ ((placing (record 16 0 0) none 1).launchAt 5).warpsPer = 1 ∧
      ((placing (record 16 0 0) none 1).launchAt 5).scratch = 0 ∧ ((placing (record 16 0 0) none 1).launchAt 5).ext 1 ≤ 1 := by decide +kernel
    exact ⟨_, u, q, ks, off, h, hu, hl.2.2.2, rfl, by rw [hl.1, hl.2.1]; exact hk, by rw [hl.2.2.1]; exact ho⟩
  · obtain ⟨q, h⟩ := jobs_of f2
    exact ⟨_, q, h, Option.isNone_iff_eq_none.mp f4, _, .head _, rfl, rfl⟩
  · intro clk hc
    exact ⟨_, rfl, waiting_jobs clk hc, _, .head _, rfl, rfl⟩
  · intro w hw l hl
    obtain rfl := List.mem_singleton.mp hw
    obtain rfl := List.mem_singleton.mp hl
    exact ⟨rfl, rfl⟩
  · obtain ⟨q, h⟩ := jobs_of g1
    obtain ⟨u, hu⟩ := some_of g3
    refine ⟨restorable 0, u, (q, .restore 5 0 [0]), ?_, hu, ⟨5, 0, [0], rfl, .head _⟩, ?_⟩
    · rw [h, List.find?_cons_of_pos (by rw [hu]; rfl)]
    · rintro ⟨l, c, bs, h1, h2⟩
      obtain ⟨-, -, rfl⟩ := Job.restore.inj h1
      exact absurd h2 (by decide)
  · obtain ⟨q, h⟩ := jobs_of g2
    refine ⟨restorable (2 ^ 20), by rw [h]; exact List.cons_ne_nil _ _, ?_⟩
    rw [h, List.find?_cons_of_neg (by rw [Option.isNone_iff_eq_none.mp g4]; exact Bool.false_ne_true)]
    rfl
  · obtain ⟨u, hu⟩ := some_of g5
    exact ⟨_, u, _, hu, rfl, _, .head _, rfl⟩
  · intro r hr
    have hc : r.core = 0 := (by decide : ∀ r ∈ [(⟨0, 95, 32⟩ : ConeReading), ⟨0, 96, 0⟩, ⟨0, 95, 33⟩], r.core = 0) r hr
    exact ⟨{ leaving none with clk := 2600000 }, _, .head _, by simp, by intro e he; exact absurd he List.not_mem_nil, .head _, rfl, hc.symm, rfl, rfl, Nat.le_refl _, rfl⟩

/-- The warp at a run boundary, halted or not, with a request or not. -/
def atRest (halt : Bool) (req : Option Nat) : State :=
  (onPath (fun p => { p with inRun := none }) (sit (.nop h1))).modWarp fetchKey fun w => { w with halt := halt, haltReq := req }

/-- A warp that is halted, one inside a run, one in a run that it has to finish and one at run boundaries, beside another warp of its block
with BHALT; a path that STEP may advance, an index without one, and serial mode; and a live context and one that is not. -/
theorem witness_DebugEventsComplete :
    (∀ h ∈ [true, false], ∃ (s : State) (w : Warp), s.warpAt? fetchKey = some w ∧ w.halt = h ∧ w.haltReq = none ∧
      (∀ p ∈ w.paths, p.atBoundary = true ∧ midRun s { w with haltReq := some 0 } p = false) ∧
      w.hasLane 0 ∧ (w.pathOf? 0).isSome = true ∧ ∀ l ∈ w.lanes, w.laneAt l.id = l) ∧
    (∃ (s : State) (w : Warp), s.warpAt? fetchKey = some w ∧ w.halt = false ∧ w.haltReq = none ∧ ∃ p ∈ w.paths, p.atBoundary = false) ∧
    (∃ (s : State) (w : Warp), s.warpAt? fetchKey = some w ∧ w.halt = false ∧ w.haltReq = none ∧
      ∃ p ∈ w.paths, p.atBoundary = true ∧ midRun s { w with haltReq := some 0 } p = true) ∧
    (∃ (s : State) (w v : Warp) (k : WarpKey), s.warpAt? fetchKey = some w ∧ k ≠ fetchKey ∧ s.warpAt? k = some v ∧
      (((s.ctxAt w.ctx).csrOf 0x110).getLsbD 1 = true ∧ v.blk = w.blk ∧ v.ctx = w.ctx) ∧ v.halt = false ∧ v.haltReq = none) ∧
    (∃ (s : State) (w : Warp) (p : Path), s.warpAt? fetchKey = some w ∧ w.halt = true ∧ (reformPaths w).serial = false ∧
      (reformPaths w).paths[0]? = some p ∧ p.fp = false ∧ parked s (reformPaths w) p = false ∧ (reformPaths w).paths[1]? = none) ∧
    (∃ (s : State) (w : Warp), s.warpAt? fetchKey = some w ∧ w.halt = true ∧ (reformPaths w).serial = true) ∧
    (∃ s : State, (s.ctxAt 0).live = true ∧ ∀ e ∈ (s.ctxAt 0).stickySet, e.2 ≠ s.clk) ∧
    (∃ s : State, (s.ctxAt 0).live = true ∧ ∃ e ∈ (s.ctxAt 0).stickySet, e.2 = s.clk) ∧ ∃ s : State, (s.ctxAt 0).live = false := by
  refine ⟨?_, ⟨sit (.nop h1), _, rfl, rfl, rfl, _, .head _, rfl⟩,
    ⟨(onPath (fun p => { p with run := 0x80 }) (atRest false none)), _, rfl, rfl, rfl, _, .head _, rfl, by decide +kernel⟩,
    ⟨{ sit (.nop h1) with
        warps := [fetchWarp 0, blankWarp ⟨0, 0, 1⟩]
        ctxs := [{ blankCtx 0 with csr := [(0x110, 2#32)] }] }, _, _, ⟨0, 0, 1⟩, rfl, by decide, rfl, ⟨rfl, rfl, rfl⟩, rfl, rfl⟩,
    ⟨atRest true none, _, _, rfl, rfl, rfl, rfl, rfl, rfl, rfl⟩,
    ⟨(atRest true none).modWarp fetchKey fun w =>
        { w with
          serial := true
          lanes := (List.range 8).map fun i => { blankLane i with pc := BitVec.ofNat 64 (128 * i) }
          paths := (List.range 8).map fun i => newPath (BitVec.ofNat 64 (128 * i)) (BitVec.ofNat 32 (2 ^ i)) }, _, rfl, rfl, by decide +kernel⟩,
    ⟨sit (.nop h1), rfl, by intro e he; exact absurd he List.not_mem_nil⟩,
    ⟨{ sit (.nop h1) with clk := 4, ctxs := [{ blankCtx 0 with live := true, stickySet := [(2, 4)] }] }, rfl, _, .head _, rfl⟩, ⟨State.reset, rfl⟩⟩
  intro h _
  refine ⟨atRest h none, _, rfl, rfl, rfl, ?_, ⟨_, .head _, rfl⟩, rfl, ?_⟩
  · intro p hp
    obtain rfl := List.mem_singleton.mp hp
    exact ⟨rfl, rfl⟩
  · intro l hl
    obtain rfl := List.mem_singleton.mp hl
    rfl

/-- Context 1 of the machine after reset, with a record and a header. -/
def made (live : Bool) (rec : BitVec 512) : State := { State.reset with ctxs := [{ blankCtx 1 with live := live, record := rec }] }

/-- A context that is live or not, with BOOT.READY or not, with a record that is in order or not, and words in its image; one that an
UPDATE finds inside a run on its core, and at run boundaries; one at rest and one that is not; registers of each kind at both ends of their
ranges; and bytes through the window at both ends. -/
theorem witness_HostEventsComplete :
    (∀ ok ∈ [true, false], ∃ s : State, 1 < 64 ∧ (∀ q ∈ s.queues, q.ctx ≠ 1) ∧ (s.ctxAt 1).live = false ∧ (smGet 0#64 s.bar0 0).getLsbD 8 = true ∧
      recordOk (s.ctxAt 1) = ok) ∧
    (∃ s : State, (s.ctxAt 1).live = false ∧ recordOk (s.ctxAt 1) = true ∧ (smGet 0#64 s.bar0 0).getLsbD 8 = true ∧ (∀ q ∈ s.queues, q.ctx ≠ 1) ∧
      smFind (s.ctxAt 1).img 0x14 = some 7#32 ∧ smFind (s.ctxAt 1).img 0x11 = some 5#32) ∧
    (∃ s : State, (∀ q ∈ s.queues, q.ctx ≠ 1) ∧ (smGet 0#64 s.bar0 0).getLsbD 8 = false) ∧
    (∃ s : State, (∀ q ∈ s.queues, q.ctx ≠ 1) ∧ (s.ctxAt 1).live = true ∧ destroyReady s 1 = true) ∧
    (∃ s : State, (s.ctxAt 0).live = true ∧ destroyReady s 0 = false) ∧
    (∃ s : State, (s.ctxAt 0).live = true ∧ (s.ctxAt 0).old = [] ∧ busyCores s 0 = [0]) ∧
    (∃ s : State, (s.ctxAt 0).live = true ∧ (s.ctxAt 0).old = [] ∧ busyCores s 0 = []) ∧ (∃ s : State, (s.ctxAt 0).live = false) ∧
    (∃ p key, p < 8 ∧ key < 256 ∧ 0x177F8 = 0x10000 + p * 0x1000 + 8 * key) ∧
    (∃ x i, x < 64 ∧ i < 8 ∧ 0x10FC38 = 0x100000 + x * 0x400 + 8 * i) ∧
    (∃ x, x < 64 ∧ 0x10FC40 = 0x100000 + x * 0x400 + 0x40) ∧ (∃ x, x < 64 ∧ 0x10FC48 = 0x100000 + x * 0x400 + 0x48) ∧
    (∃ x i, x < 64 ∧ i < 64 ∧ 0x10FFF8 = 0x100000 + x * 0x400 + 0x200 + 8 * i) ∧
    (∃ q, q < 8192 ∧ 0x23FFE0 = 0x200000 + q * 32) ∧ (∃ q, q < 8192 ∧ 0x23FFE8 = 0x200000 + q * 32 + 8) ∧
    (∃ q, q < 8192 ∧ 0x23FFF0 = 0x200000 + q * 32 + 0x10) ∧
    ∃ s : State, s.Inv ∧ ∀ p ∈ [(0, 1), (2 ^ 36 - 8, 8)], 1 ≤ p.2 ∧ p.2 ≤ 8 ∧ p.1 + p.2 ≤ 2 ^ 36 := by
  refine ⟨?_,
    ⟨{ State.reset with ctxs := [{ blankCtx 1 with record := 1#512 <<< 396, img := [(0x11, 5#32), (0x14, 7#32)] }] }, rfl, by decide +kernel,
      (by decide : (0x107#64).getLsbD 8 = true), by intro q hq; exact absurd hq List.not_mem_nil, rfl, rfl⟩,
    ⟨{ State.reset with bar0 := [] }, by intro q hq; exact absurd hq List.not_mem_nil, rfl⟩,
    ⟨made true 0, by intro q hq; exact absurd hq List.not_mem_nil, rfl, rfl⟩, ⟨sit (.nop h1), rfl, rfl⟩, ⟨sit (.nop h1), rfl, rfl, by decide +kernel⟩,
    ⟨{ sit (.nop h1) with warps := [] }, rfl, rfl, by decide +kernel⟩, ⟨State.reset, rfl⟩, ⟨7, 255, by decide⟩, ⟨63, 7, by decide⟩, ⟨63, by decide⟩,
    ⟨63, by decide⟩, ⟨63, 63, by decide⟩, ⟨8191, by decide⟩, ⟨8191, by decide⟩, ⟨8191, by decide⟩, ⟨State.reset, rfl, by decide⟩⟩
  intro ok _
  have h : ∀ ok ∈ [true, false], recordOk ((made false (if ok = true then 1#512 <<< 396 else 0)).ctxAt 1) = ok := by decide +kernel
  exact ⟨made false (if ok = true then 1#512 <<< 396 else 0), by decide, by intro q hq; exact absurd hq List.not_mem_nil, rfl,
    (by decide : (0x107#64).getLsbD 8 = true), h ok ‹_›⟩

/-- A Kiln command in hand. -/
def kiln (code a b : Nat) : State :=
  { State.reset with bar0 := [(0x20, BitVec.ofNat 64 code), (0x28, BitVec.ofNat 64 a), (0x30, BitVec.ofNat 64 b), (0x38, 1#64)] }

/-- Each command in hand with arguments in range and out of range, other codes and none; and a full log. -/
theorem witness_KilnAndResetEventsComplete :
    (∀ e ∈ [(1, 255, 0), (2, 1, 0), (3, 7, 0xFFFF0000FFFF), (4, 0, 2 ^ 36), (5, 2 ^ 36 - 64, 0)], ∃ s : State, kilnHas s e.1 = true ∧
      (smGet 0#64 s.bar0 0x28).toNat = e.2.1 ∧ (smGet 0#64 s.bar0 0x30).toNat = e.2.2) ∧
    (∀ nonce bank, 0 + (evidenceFor nonce bank).length ≤ 2 ^ 36) ∧
    (∀ e ∈ [(1, 256, 0), (2, 0, 0), (2, 65536, 0), (3, 8, 0), (3, 0, 65536), (4, 1, 2 ^ 36), (5, 2 ^ 36 - 63, 0), (0, 0, 0), (6, 0, 0)], ∃ s : State,
      kilnHas s e.1 = true ∧ (smGet 0#64 s.bar0 0x28).toNat = e.2.1 ∧ (smGet 0#64 s.bar0 0x30).toNat = e.2.2) ∧
    (∃ s : State, ∀ n ∈ [1, 2, 3, 4, 5], kilnHas s n = false) ∧
    ∃ (s : State) (e : LogEntry), s.kilnLog[4095]? = some e := by
  refine ⟨?_, fun nonce bank => ?_, ?_, ⟨State.reset, by decide +kernel⟩,
    ⟨{ State.reset with kilnLog := List.replicate 4096 ⟨0, 0, 1, 0⟩ }, _, List.getElem?_replicate_of_lt (by decide)⟩⟩
  · intro e he
    have h : ∀ e ∈ [(1, 255, 0), (2, 1, 0), (3, 7, 0xFFFF0000FFFF), (4, 0, 2 ^ 36), (5, 2 ^ 36 - 64, 0)], kilnHas (kiln e.1 e.2.1 e.2.2) e.1 = true ∧
      (smGet 0#64 (kiln e.1 e.2.1 e.2.2).bar0 0x28).toNat = e.2.1 ∧ (smGet 0#64 (kiln e.1 e.2.1 e.2.2).bar0 0x30).toNat = e.2.2 := by decide +kernel
    exact ⟨_, h e he⟩
  · rw [Nat.zero_add]
    unfold evidenceFor
    exact List.length_take_le _ _
  · intro e he
    have h : ∀ e ∈ [(1, 256, 0), (2, 0, 0), (2, 65536, 0), (3, 8, 0), (3, 0, 65536), (4, 1, 2 ^ 36), (5, 2 ^ 36 - 63, 0), (0, 0, 0), (6, 0, 0)],
      kilnHas (kiln e.1 e.2.1 e.2.2) e.1 = true ∧ (smGet 0#64 (kiln e.1 e.2.1 e.2.2).bar0 0x28).toNat = e.2.1 ∧
        (smGet 0#64 (kiln e.1 e.2.1 e.2.2).bar0 0x30).toNat = e.2.2 := by decide +kernel
    exact ⟨_, h e he⟩

/-- A step from a state with the form, which answers a next state. -/
theorem witness_MemoryStaysCanonical : ∃ s t : State, s.Inv ∧ step s = .next t := by
  have h : (match step (sit (.nop h1)) with | .next _ => true | _ => false) = true := rfl
  cases hs : step (sit (.nop h1)) with
  | next t => exact ⟨_, t, rfl, hs⟩
  | fault f => rw [hs] at h; exact absurd h Bool.false_ne_true
  | refused r => rw [hs] at h; exact absurd h Bool.false_ne_true
end Sys2Proof.Tests
end

/-! ## Memory: what leaves it as it is, and what keeps its canonical form

For every function of the model that returns a state: `f_mem` says that `f` leaves memory as it is; where `f` writes bytes, `f_wf` says
that it keeps the canonical form. The lemmas stand in the order of the model's files. -/

namespace Sys2Proof.Machine

@[simp] theorem ite_mem {c : Prop} [Decidable c] (s t : State) : (if c then s else t).mem = if c then s.mem else t.mem :=
  apply_ite State.mem c s t

@[simp] theorem foldl_mem {α : Type} {f : State → α → State} (hf : ∀ s x, (f s x).mem = s.mem) (l : List α) (s : State) :
    (l.foldl f s).mem = s.mem := by
  induction l generalizing s with
  | nil => rfl
  | cons x r ih => rw [List.foldl_cons, ih, hf]

theorem foldl_fst_mem {α β : Type} {f : State × β → α → State × β} (hf : ∀ t x, (f t x).1.mem = t.1.mem) (l : List α) (t : State × β) :
    (l.foldl f t).1.mem = t.1.mem := by
  induction l generalizing t with
  | nil => rfl
  | cons x r ih => rw [List.foldl_cons, ih, hf]

@[simp] theorem wf_ite {c : Prop} [Decidable c] (m m' : Memory) : (if c then m else m').wf = if c then m.wf else m'.wf :=
  apply_ite Memory.wf c m m'

/-- A state whose memory is in canonical form, as a structure: the kernel then compares the states of two such facts and does not
evaluate their memories, which matters below a fold. -/
structure Canonical (s : State) : Prop where
  wf : s.mem.wf

theorem foldl_wf {α : Type} {f : State → α → State} (hf : ∀ s x, Canonical s → Canonical (f s x)) {l : List α} {s : State}
    (h : s.mem.wf) : (l.foldl f s).mem.wf := by
  induction l generalizing s with
  | nil => exact h
  | cons x r ih => exact ih (hf s x ⟨h⟩).wf

theorem foldl_fst_wf {α β : Type} {f : State × β → α → State × β} (hf : ∀ t x, Canonical t.1 → Canonical (f t x).1) {l : List α}
    {t : State × β} (h : t.1.mem.wf) : (l.foldl f t).1.mem.wf := by
  induction l generalizing t with
  | nil => exact h
  | cons x r ih => exact ih (hf t x ⟨h⟩).wf

theorem foldl_bind_none {α : Type} {f : State → α → Option State} {l : List α} :
    l.foldl (fun a i => a.bind fun t => f t i) none = none := by
  induction l with
  | nil => rfl
  | cons x r ih => exact ih

theorem foldl_bind_wf {α : Type} {f : State → α → Option State} (hf : ∀ s t x, s.mem.wf → f s x = some t → t.mem.wf) {l : List α}
    {s t : State} (h : s.mem.wf) (ht : l.foldl (fun a i => a.bind fun t => f t i) (some s) = some t) : t.mem.wf := by
  induction l generalizing s with
  | nil => cases ht; exact h
  | cons x r ih =>
    rw [List.foldl_cons] at ht
    cases hx : f s x with
    | none => simp [hx, foldl_bind_none] at ht
    | some u => rw [Option.bind_some, hx] at ht; exact ih (hf s u x h hx) ht

/-! ### Sticky bits (`Machine/Base.lean`) -/

section
variable {s : State} {x : Nat}

@[simp] theorem State.setSticky_mem {bit : Nat} : (State.setSticky s x bit).mem = s.mem := by rw [State.setSticky]; split <;> rfl

end

/-! ### CSRs of a context (`Machine/Window.lean`) -/

section
variable {s : State} {x n : Nat}

@[simp] theorem writeCtxCsr_mem {v : W32} {tm : Bool} : (writeCtxCsr s x n v tm).mem = s.mem := by rw [writeCtxCsr]; split <;> simp

end

/-! ### The memory system (`Machine/Mem.lean`) -/

section
variable {s : State} {x key n v line stack va tkey rank rel : Nat} {ag : Agent} {atomic : Bool} {who : Option (Nat × W64)}

@[simp] theorem cleanLine_mem : (cleanLine s line).mem = s.mem := by rw [cleanLine]
@[simp] theorem markDirty_mem : (markDirty s line).mem = s.mem := by rw [markDirty]; (repeat' split) <;> rfl
@[simp] theorem homeWrite_wf (h : s.mem.wf) : (homeWrite s key n v tkey).mem.wf := by simp [homeWrite, memWrite_wf, h]
@[simp] theorem endWaits_mem {till : Nat} : (endWaits s stack till).mem = s.mem := by rw [endWaits]; split <;> rfl
@[simp] theorem settleStack_mem : (settleStack s stack).mem = s.mem := by rw [settleStack]; (repeat' split) <;> simp
@[simp] theorem chargeStack_mem {tokens : Nat} : (chargeStack s stack tokens).mem = s.mem := by rw [chargeStack]; simp
@[simp] theorem chargeKey_mem {tokens : Nat} : (chargeKey s key tokens).mem = s.mem := by rw [chargeKey]; split <;> simp
@[simp] theorem chargeOrdinary_mem : (chargeOrdinary s key n).mem = s.mem := by rw [chargeOrdinary]; simp
@[simp] theorem scopeCheck_mem {scope : Nat} : (scopeCheck s key n scope ag).mem = s.mem := by rw [scopeCheck]; simp
@[simp] theorem noteRelease_mem : (noteRelease s key n rel atomic ag).mem = s.mem := by rw [noteRelease]; split <;> simp
@[simp] theorem observe_mem : (observe s key n who).mem = s.mem := by rw [observe]
@[simp] theorem foreignWrite_wf (h : s.mem.wf) : (foreignWrite s key n v tkey).mem.wf := by simp [foreignWrite, h]
@[simp] theorem sendRemote_mem {r : OutReq} : (sendRemote s x r).mem = s.mem := by rw [sendRemote]
@[simp] theorem sendOwn_mem {acc : Nat} : (sendOwn s x rank va n acc).mem = s.mem := by rw [sendOwn]; rfl

theorem partStore_wf {t : State} (h : s.mem.wf) (ht : partStore s x va n v = .ok t) : t.mem.wf := by
  rw [partStore] at ht
  (repeat' split at ht) <;> cases ht <;> simp [h]

theorem partStores_wf {t : State} {l : List (Nat × Nat × Nat)} (h : s.mem.wf) (ht : partStores s x l = .ok t) : t.mem.wf := by
  induction l generalizing s with
  | nil => cases ht; exact h
  | cons e r ih =>
    rw [partStores] at ht
    split at ht
    · cases ht
    · exact ih (partStore_wf h ‹_›) ht

@[simp] theorem partTouch_mem : (partTouch s x va n).mem = s.mem := by rw [partTouch]; (repeat' split) <;> simp
@[simp] theorem notePhys_mem : (notePhys s key n).mem = s.mem := by rw [notePhys]; simp

end

/-! ### Operations, records and traps (`Machine/Ops.lean`) -/

section
variable {s : State} {k : WarpKey} {x core l n id port cause sub rank data num code ts : Nat} {w : Warp} {within m : Mask} {pc : W64} {ok
  : Bool} {r : Raise}

@[simp] theorem dropL1_mem : (dropL1 s core).mem = s.mem := by rw [dropL1]; rfl
@[simp] theorem addLog_mem {src : Nat} : (addLog s src code data).mem = s.mem := by rw [addLog]
@[simp] theorem portError_mem : (portError s port).mem = s.mem := by rw [portError]; (repeat' split) <;> simp
@[simp] theorem noteErrors_mem {vas : List Nat} : (noteErrors s x vas).mem = s.mem := by rw [noteErrors]; simp

@[simp] theorem writeRecord_wf {src rec : Nat} (h : s.mem.wf) : (writeRecord s x ts src rec).mem.wf := by
  fun_cases writeRecord s x ts src rec
  · exact h
  · simpa using h
  · simpa using h
  · next he => simpa using partStores_wf h he

@[simp] theorem noteFaults_mem {fs : List LaneFault} : (noteFaults s w fs).mem = s.mem := by rw [noteFaults]; simp

@[simp] theorem writeRecords_wf {mask : Mask} {fs : List LaneFault} (h : s.mem.wf) : (writeRecords s ts w pc mask fs).mem.wf := by
  rw [writeRecords]; exact foldl_wf (fun _ _ h => ⟨writeRecord_wf h.wf⟩) h

@[simp] theorem resolveLaunch_mem {l : Launch} {f : EngOp → OpState} : (resolveLaunch s l f).mem = s.mem := by
  rw [resolveLaunch]; split <;> rfl

@[simp] theorem sendDone_mem {origin : Option Nat} : (sendDone s x origin).mem = s.mem := by simp [sendDone]; split <;> simp
@[simp] theorem launchAnswer_mem : (launchAnswer s id rank ok).mem = s.mem := by rw [launchAnswer]; split <;> simp
@[simp] theorem launchLost_mem : (launchLost s id rank).mem = s.mem := by rw [launchLost]; simp
@[simp] theorem abortLaunches_mem : (abortLaunches s x).mem = s.mem := by rw [abortLaunches]; simp
@[simp] theorem contextStop_mem {wslot : Nat} : (contextStop s x cause sub core wslot).mem = s.mem := by rw [contextStop]; split <;> simp
@[simp] theorem csrwContext_mem {v : W32} {tm : Bool} : (csrwContext s k x num v tm).mem = s.mem := by rw [csrwContext]; split <;> simp
@[simp] theorem applyCsrw_mem {vals : List (Nat × W32)} : (applyCsrw s k num vals).mem = s.mem := by rw [applyCsrw]; split <;> simp
@[simp] theorem applyIcinv_mem : (applyIcinv s x).mem = s.mem := by rw [applyIcinv]
@[simp] theorem applyEff_mem {x1 : RunEff} : (applyEff s k within x1).mem = s.mem := by simp [applyEff]; split <;> simp
@[simp] theorem applyWait_mem {x1 : RunEff} : (applyWait s k within x1).mem = s.mem := by simp [applyWait]; split <;> simp
@[simp] theorem applyEffs_mem {es : List RunEff} : (applyEffs s k within es).mem = s.mem := by rw [applyEffs]; simp
@[simp] theorem deferIcinv_mem {es : List RunEff} : (deferIcinv s k within es).mem = s.mem := by rw [deferIcinv]; rfl
@[simp] theorem settleEff_mem {x1 : RunEff} : (settleEff s k x1).mem = s.mem := by simp [settleEff]; split <;> simp
@[simp] theorem syncEdges_mem {ph : SyncPhase} : (syncEdges s k ph).mem = s.mem := by rw [syncEdges]; rfl
@[simp] theorem settleSync_mem : (settleSync s k).mem = s.mem := by rw [settleSync]; split <;> simp
@[simp] theorem discardResults_mem : (discardResults s k l).mem = s.mem := by rw [discardResults]
@[simp] theorem goHome_mem {last : Nat} : (goHome s k l last).mem = s.mem := by rw [goHome]; (repeat' split) <;> simp

@[simp] theorem toContinuation_mem {cont : W64} {clk : Nat} {run : Option (Nat × BitVec 12)} :
    (toContinuation s k l cont clk run).mem = s.mem := by
  rw [toContinuation]; rfl

@[simp] theorem leaveGroup_mem {capture : Bool} : (leaveGroup s k l capture).mem = s.mem := by rw [leaveGroup]; split <;> rfl

@[simp] theorem chargeLanes_mem {lanes : List Nat} {fbfirst : W32} {run : Option (Nat × BitVec 12)} :
    (chargeLanes s r lanes cause sub fbfirst run).mem = s.mem := foldl_mem (fun s x => by (repeat' split) <;> simp) _ _

@[simp] theorem stopLanes_mem {mark : Nat → Bool} : (stopLanes s r mark).mem = s.mem := by rw [stopLanes]; rfl
@[simp] theorem keepFromMigration_mem {blk : Nat} : (keepFromMigration s blk).mem = s.mem := by rw [keepFromMigration]
@[simp] theorem takeTrap_mem {nrec : Nat} {fbfirst : W32} : (takeTrap s r nrec fbfirst).mem = s.mem := by rw [takeTrap]; split <;> simp
@[simp] theorem raiseWord_wf (h : s.mem.wf) : (raiseWord s r).mem.wf := by simp [raiseWord, h]

@[simp] theorem parkFaulted_mem {run : W64} {effs : List RunEff} {hand : Bool} : (parkFaulted s k m pc run effs hand).mem = s.mem := by
  rw [parkFaulted]; split <;> rfl

@[simp] theorem recordHeads_wf {mask : Mask} {fs : List LaneFault} (h : s.mem.wf) : (recordHeads s ts w pc mask fs).1.mem.wf := by
  rw [recordHeads]; exact foldl_fst_wf (fun _ _ h => ⟨writeRecord_wf h.wf⟩) h

@[simp] theorem raiseLanes_wf (h : s.mem.wf) : (raiseLanes s r).1.mem.wf := by rw [raiseLanes]; dsimp only; (repeat' split) <;> simp [h]

@[simp] theorem enterTrap_wf (h : s.mem.wf) : (enterTrap s k).mem.wf := by
  fun_cases enterTrap s k
  · exact h
  · simpa +zetaDelta using h
  · next he => simpa using partStores_wf (by simpa +zetaDelta using h) he

@[simp] theorem settleMwait_mem {trapId old new : Nat} : (settleMwait s k trapId l old new).mem = s.mem := by
  rw [settleMwait]; split <;> simp

@[simp] theorem spendKept_mem : (spendKept s k l).mem = s.mem := by rw [spendKept]; simp

theorem foldl_partTouch_mem {va : State → Nat → Nat} {ls : List Nat} :
    (ls.foldl (fun s i => partTouch s x (va s i) n) s).mem = s.mem := foldl_mem (fun _ _ => partTouch_mem) ls s

@[simp] theorem touchFrameLane_mem : (touchFrameLane s w l).mem = s.mem := by
  rw [touchFrameLane]; exact foldl_partTouch_mem.trans foldl_partTouch_mem

theorem foldl_touchFrameLane_mem {ls : List Lane} : (ls.foldl (fun s l => touchFrameLane s w l.id) s).mem = s.mem := by
  induction ls generalizing s with
  | nil => rfl
  | cons l r ih => rw [List.foldl_cons, ih, touchFrameLane_mem]

@[simp] theorem returnFromTrap_mem : (returnFromTrap s k).mem = s.mem := by
  rw [returnFromTrap]; split
  · rw [contextStop_mem, noteErrors_mem]
  · split
    · rw [foldl_mem fun _ _ => spendKept_mem, State.modWarp_mem, foldl_mem fun _ _ => settleMwait_mem, foldl_touchFrameLane_mem]
    · rw [contextStop_mem]

end

/-! ### Words and operands (`Machine/Operands.lean`) -/

section
variable {s : State} {c : Cur} {cause : Nat} {i : Instr}

@[simp] theorem advance_mem : (advance s c).mem = s.mem := by rw [advance]; rfl
@[simp] theorem popIssue_mem : (popIssue s).mem = s.mem := by rw [popIssue]
@[simp] theorem trapWord_wf {tl : Mask} (h : s.mem.wf) : (trapWord s c cause tl).mem.wf := by simp [trapWord, h]

theorem runWord_wf {f : State → Cur → State} (hf : ∀ c, (f s c).mem.wf) (h : s.mem.wf) : (runWord i s f).mem.wf := by
  rw [runWord]; split
  · exact h
  · split
    · exact trapWord_wf h
    · exact hf _

@[simp] theorem putFix_mem {lat : Nat} {vals : List (Nat × Nat × W32)} : (putFix s c lat vals).mem = s.mem := by rw [putFix]; rfl

@[simp] theorem fixWord_wf {hd : Hdr} {lat : Nat} {f : State → Lane → List (Nat × W32)} (h : s.mem.wf) :
    (fixWord i hd lat f s).mem.wf := runWord_wf (fun _ => by simpa using h) h

@[simp] theorem bindFlags_mem {ls : List Lane} : (bindFlags s c ls).mem = s.mem := by rw [bindFlags]; split <;> rfl

@[simp] theorem mathWord_wf {hd : Hdr} {d : Code} {queued : Bool} {f : State → Lane → W32} (h : s.mem.wf) :
    (mathWord i hd d queued f s).mem.wf := runWord_wf (fun _ => by simpa using h) h

@[simp] theorem noteEff_mem {e : RunEff} : (noteEff s c e).mem = s.mem := by rw [noteEff]; rfl
@[simp] theorem noteTransfer_mem {t : Transfer} : (noteTransfer s c t).mem = s.mem := by rw [noteTransfer]; rfl

end

/-! ### Halts and watchpoints (`Machine/Debug.lean`) -/

section
variable {s : State} {k : WarpKey} {v : Nat} {c : Cur} {r : Raise}

@[simp] theorem requestHalt_mem {reason : Nat} : (requestHalt s k reason).mem = s.mem := by rw [requestHalt]; split <;> rfl
@[simp] theorem haltLanes_mem {reason : Nat} : (haltLanes s c reason r).mem = s.mem := by rw [haltLanes]; simp
@[simp] theorem writeControl_mem : (writeControl s k v).mem = s.mem := by rw [writeControl]; (repeat' split) <;> simp

@[simp] theorem watchWord_wf {hits : List (Nat × Nat × Nat)} (h : s.mem.wf) : (watchWord s c hits).mem.wf := by
  rw [watchWord.eq_def]; extract_lets m t u
  have hu : u.mem.wf := by
    unfold u t; rw [State.modWarp_mem]
    split <;> simpa using h
  split
  · simpa using hu
  · exact trapWord_wf hu

end

/-! ### Words that access memory (`Machine/Access.lean`) -/

section
variable {s : State} {x : Nat} {c : Cur} {r : Raise} {i : Instr}

theorem wf_of_raiseLanes {t : State} {on : Bool} (h : s.mem.wf) (ht : raiseLanes s r = (t, on)) : t.mem.wf := by
  simpa [ht] using raiseLanes_wf (r := r) h

@[simp] theorem finishLanes_wf {bad : List LaneFault} {good : Lane → W64 × W64} (h : s.mem.wf) : (finishLanes s c bad good).mem.wf := by
  rw [finishLanes.eq_def]; split
  · simpa using h
  · extract_lets t
    have ht : t.mem.wf := by simpa [t] using h
    split
    next he =>
      have hu := wf_of_raiseLanes ht he
      split <;> simpa using hu

@[simp] theorem startWalks_mem {die : Nat} {as : List Access} : (startWalks s die x as).mem = s.mem := by rw [startWalks]

@[simp] theorem memWord_wf {hd : Hdr} {f : MemForm} {ea : State → Lane → Nat} {data : State → Lane → W128} {cmp : State → Lane → W64}
    (h : s.mem.wf) : (memWord i hd f ea data cmp s).mem.wf := by
  refine runWord_wf (fun c => ?_) h
  extract_lets x act hits res good bad fl far as t bad' ls u v; split
  · exact watchWord_wf h
  · refine finishLanes_wf ?_
    unfold v u; rw [State.modWarp_mem]
    split <;> simpa [t] using h

end

/-! ### Control stacks (`Machine/Control.lean`) -/

section
variable {s : State} {w : Warp} {i : Instr}

@[simp] theorem spillEntry_wf {hd : Bool} {l : Lane} {e : CtlEntry} (h : s.mem.wf) : (spillEntry w hd l s e).mem.wf := by
  rw [spillEntry]; split
  · exact partStore_wf h ‹_›
  · simpa using h

@[simp] theorem spillLane_wf {keep : Nat} {l : Lane} (h : s.mem.wf) : (spillLane keep w s l).mem.wf := by
  have hf (d : Bool) : ∀ s e, Canonical s → Canonical (spillEntry w d l s e) := fun _ _ h => ⟨spillEntry_wf h.wf⟩
  rw [spillLane, State.modLane_mem]
  exact foldl_wf (hf true) (foldl_wf (hf false) h)

@[simp] theorem spillWarp_wf (h : s.mem.wf) : (spillWarp s w).mem.wf := by
  rw [spillWarp]; exact foldl_wf (fun _ _ h => ⟨spillLane_wf h.wf⟩) h

@[simp] theorem stepWord_wf {hd : Hdr} {f : State → Cur → Lane → LaneStep} (h : s.mem.wf) : (stepWord i hd f s).mem.wf := by
  refine runWord_wf (fun c => ?_) h
  extract_lets res good bad t ts u
  refine finishLanes_wf ?_
  unfold u; split <;> simpa [t] using h

end

/-! ### L1 fills and fences (`Machine/Memory.lean`) -/

section
variable {s : State} {k : WarpKey} {x core line va : Nat} {c : Cur} {h : Hdr}

@[simp] theorem fillL1_mem {kind : PageKind} : (fillL1 s core line kind).mem = s.mem := by rw [fillL1]; split <;> rfl
@[simp] theorem prefetch_mem : (prefetch core x s va).mem = s.mem := by rw [prefetch]; (repeat' split) <;> simp

@[simp] theorem startFence_mem {scope : BitVec 3} {ranges : List (Nat × Nat × Nat)} : (startFence s c h scope ranges).mem = s.mem := by
  rw [startFence]; split <;> rfl

@[simp] theorem observeLines_mem {wid : W64} {lines : List Nat} : (observeLines s x wid lines).mem = s.mem := by rw [observeLines]

@[simp] theorem fenceStage_mem {f : FenceWait} : (fenceStage s k f).1.mem = s.mem := by
  rw [fenceStage]; dsimp only
  rw [foldl_fst_mem (fun t r => by dsimp only; rw [observeLines_mem])]
  split <;> simp

end

/-! ### Accesses at the home (`Machine/Home.lean`) -/

section
variable {s : State} {k : WarpKey} {a : Access} {key core n v line off port tkey rel : Nat} {ag : Agent} {atomic : Bool} {who : Option
  (Nat × W64)}

@[simp] theorem dropEverywhere_mem : (dropEverywhere s line).mem = s.mem := by rw [dropEverywhere]
@[simp] theorem dropHere_mem : (dropHere s core line).mem = s.mem := by rw [dropHere]; rfl
@[simp] theorem endTentative_mem {p : TentWord → Bool} : (endTentative s p line).mem = s.mem := by rw [endTentative]; rfl
@[simp] theorem mayEvict_mem : (mayEvict s key).mem = s.mem := by rw [mayEvict]; split <;> rfl
@[simp] theorem endEvicted_mem : (endEvicted s core line).mem = s.mem := by rw [endEvicted]; rfl

@[simp] theorem writeAt_wf {core : Option Nat} (h : s.mem.wf) : (writeAt s key n v tkey rel atomic who ag core).mem.wf := by
  rw [writeAt.eq_def]; extract_lets
  have h1 : (homeWrite (noteRelease (observe s key n who) key n rel atomic ag) key n v tkey).mem.wf := homeWrite_wf (by simpa using h)
  split
  · simpa using h1
  · exact h1

@[simp] theorem readThrough_mem {kind : PageKind} : (readThrough s core key n tkey kind).1.mem = s.mem := by
  rw [readThrough]; (repeat' split) <;> simp

@[simp] theorem predict_mem {queued : Bool} : (predict s core key queued).mem = s.mem := by rw [predict]; split <;> rfl

@[simp] theorem writeWinWord_wf (h : s.mem.wf) : (writeWinWord s core off v).mem.wf := by
  rw [writeWinWord]; (repeat' split) <;> simp [memWrite_wf, h]

@[simp] theorem spoilEngine_mem : (spoilEngine s core).mem = s.mem := by rw [spoilEngine]; rfl

@[simp] theorem winWrite_wf (h : s.mem.wf) : (winWrite s core off n v).mem.wf := by
  have ht : (if n < 4 then
      writeWinWord s core (off / 4 * 4)
        (patch (if actsOnOnes (off / 4 * 4) then keptField s core (off / 4 * 4) else (winWord s core (off / 4 * 4)).getD 0) (off % 4) n v)
    else (List.range (n / 4)).foldl (fun s i => writeWinWord s core (off + 4 * i) (v / 2 ^ (32 * i) % 2 ^ 32)) s).mem.wf := by
    split
    · exact writeWinWord_wf h
    · exact foldl_wf (fun _ _ h => ⟨writeWinWord_wf h.wf⟩) h
  fun_cases winWrite s core off n v
  · rw [spoilEngine_mem]; exact ht
  · exact ht

@[simp] theorem finishAccess_mem {r : Nat} : (finishAccess s a r).mem = s.mem := by rw [finishAccess]; split <;> rfl
@[simp] theorem acquire_mem : (acquire s a key).mem = s.mem := by rw [acquire]; split <;> simp
@[simp] theorem clobberControl_mem : (clobberControl s a).mem = s.mem := by rw [clobberControl]; split <;> rfl
@[simp] theorem fencedRead_mem : (fencedRead s a).mem = s.mem := by rw [fencedRead]; split <;> rfl
@[simp] theorem performLd_mem : (performLd s a key).mem = s.mem := by simp [performLd]
@[simp] theorem spendRel_mem : (spendRel s a).mem = s.mem := by rw [spendRel]; rfl
@[simp] theorem performSt_wf (h : s.mem.wf) : (performSt s a key).mem.wf := by simp [performSt, h]

@[simp] theorem performAtom_wf {f : Nat → Option Nat} (h : s.mem.wf) : (performAtom s a key f).mem.wf := by
  rw [performAtom]; split <;> simp [h]

@[simp] theorem performStt_wf (h : s.mem.wf) : (performStt s a key).mem.wf := by simp [performStt, h]

@[simp] theorem performRetract_wf (h : s.mem.wf) : (performRetract s a key).mem.wf := by
  rw [performRetract]
  (repeat' split) <;> simp [h]
  exact foldl_wf (fun _ _ h => ⟨writeAt_wf h.wf⟩) (by simpa using h)

@[simp] theorem performCommit_mem : (performCommit s a key).mem = s.mem := by rw [performCommit]; split <;> simp
@[simp] theorem performMwait_mem : (performMwait s a key).mem = s.mem := by rw [performMwait]; split <;> simp
@[simp] theorem performMem_wf (h : s.mem.wf) : (performMem s a key).mem.wf := by rw [performMem]; split <;> simp [h]
@[simp] theorem acquireHere_mem : (acquireHere s a).mem = s.mem := by rw [acquireHere]; split <;> rfl
@[simp] theorem performWindow_wf (h : s.mem.wf) : (performWindow s a core off).mem.wf := by rw [performWindow]; split <;> simp [h]
@[simp] theorem sendAccess_mem : (sendAccess s a).mem = s.mem := foldl_mem (fun s x => by simp) _ _

@[simp] theorem dropRefused_mem {grp : Nat} {bad : List Access} : (dropRefused s grp bad).mem = s.mem := by
  simp [dropRefused]; split <;> simp

@[simp] theorem settleWord_wf {grp : Nat} (h : s.mem.wf) : (settleWord s grp).mem.wf := by
  rw [settleWord]; dsimp only; (repeat' split) <;> simp [h]

@[simp] theorem settleRefused_wf (h : s.mem.wf) : (settleRefused s k).mem.wf := by
  rw [settleRefused]; exact foldl_wf (fun _ _ h => ⟨settleWord_wf h.wf⟩) h

@[simp] theorem failAccess_wf (h : s.mem.wf) : (failAccess s a port).mem.wf := by
  rw [failAccess]; exact settleWord_wf (foldl_wf (fun _ _ h => ⟨by simpa using h.wf⟩) (by simpa using h))

@[simp] theorem performOne_wf (h : s.mem.wf) : (performOne s a).mem.wf := by rw [performOne]; (repeat' split) <;> simp [h]
@[simp] theorem performAccess_wf (h : s.mem.wf) : (performAccess s a).mem.wf := by rw [performAccess]; split <;> simp [h]

end

/-! ### Lines, blocks and launches (`Machine/Life.lean`) -/

section
variable {s : State} {k : WarpKey} {id : Nat}

@[simp] theorem settleLaunch_mem : (settleLaunch s id).mem = s.mem := by rw [settleLaunch]; split <;> simp
@[simp] theorem settleBlock_mem : (settleBlock s id).mem = s.mem := by rw [settleBlock]; split <;> simp
@[simp] theorem leaveTent_mem {ts : List (Nat × W64)} : (leaveTent s ts).mem = s.mem := by rw [leaveTent]; rfl
@[simp] theorem settleRetire_mem : (settleRetire s k).mem = s.mem := by rw [settleRetire]; split <;> simp

end

/-! ### Engines and futures (`Machine/Engine.lean`) -/

section
variable {s : State} {o : EngOp} {c : Cur} {i : Instr}

@[simp] theorem modOpWarp_mem {f : Warp → Warp} : (modOpWarp s o f).mem = s.mem := by rw [modOpWarp]; split <;> simp
@[simp] theorem issueOp_mem {m : Cmd} : (issueOp s c m).mem = s.mem := by rw [issueOp]; rfl
@[simp] theorem grantTo_mem : (grantTo s o).mem = s.mem := by rw [grantTo]; split <;> rfl
@[simp] theorem grantAll_mem : (grantAll s).mem = s.mem := by rw [grantAll]; simp
@[simp] theorem askGroups_mem {gs : List (Bool × List Nat)} : (askGroups s o gs).mem = s.mem := by rw [askGroups]; split <;> simp

@[simp] theorem askEntries_mem {reads writes : List Nat} : (askEntries s o reads writes).mem = s.mem := by
  rw [askEntries]; simp

@[simp] theorem dropEntries_mem {r : FutRef} : (dropEntries s r).mem = s.mem := by rw [dropEntries]; split <;> simp
@[simp] theorem dropReads_mem {r : FutRef} : (dropReads s r).mem = s.mem := by rw [dropReads]; split <;> simp

@[simp] theorem dropRead_mem {vas : List Nat} : (dropRead s o vas).mem = s.mem := by
  rw [dropRead]; exact foldl_mem (fun s e => by dsimp only; split <;> simp) _ _

@[simp] theorem laneEngine_wf {hd : Hdr} {mk : State → Cur → Lane → Cmd} {ranges : State → EngOp → List (Bool × List Nat)}
    (h : s.mem.wf) : (laneEngine i hd mk ranges s).mem.wf := by
  refine runWord_wf (fun c => ?_) h
  rw [advance_mem]
  exact foldl_wf (fun _ _ h => ⟨by dsimp only; split <;> simpa using h.wf⟩) h

@[simp] theorem chargeBlocks_mem {keys : List Nat} : (chargeBlocks s keys).mem = s.mem := by rw [chargeBlocks]; simp
@[simp] theorem engObserve_mem {vas : List Nat} : (engObserve s o vas).mem = s.mem := by rw [engObserve]; simp
@[simp] theorem metPorts_mem {vas : List Nat} {t : State} : (metPorts o vas t).mem = t.mem := by rw [metPorts]; split <;> simp

@[simp] theorem farGate_mem {go : State} {touch : List (Bool × Nat × List Nat)} (hg : go.mem = s.mem) :
    (farGate s o touch go).mem = s.mem := by
  rw [farGate]; dsimp only; (repeat' split) <;> simp [hg]

theorem farGate_wf {go : State} {touch : List (Bool × Nat × List Nat)} (hg : go.mem.wf) (h : s.mem.wf) : (farGate s o touch go).mem.wf := by
  rw [farGate]; dsimp only; (repeat' split) <;> simp [h, hg]

@[simp] theorem engClobber_mem {p : Place} : (engClobber s o p).mem = s.mem := by rw [engClobber]; split <;> simp

@[simp] theorem engWriteByte_wf {p : Place} {b : Nat} (h : s.mem.wf) : (engWriteByte s o p b).mem.wf := by
  rw [engWriteByte]; split <;> simp [h]

@[simp] theorem flushReports_wf {owner skid : Nat} (h : s.mem.wf) : (flushReports s owner skid).mem.wf := by
  rw [flushReports]; exact foldl_wf (fun _ _ h => ⟨writeRecord_wf h.wf⟩) h

@[simp] theorem wakeWaiters_mem : (wakeWaiters s o).mem = s.mem := by rw [wakeWaiters]
@[simp] theorem modEngine_mem {f : Matrix → Matrix} : (modEngine s o f).mem = s.mem := by rw [modEngine]; split <;> simp
@[simp] theorem spoilStopped_mem : (spoilStopped s o).mem = s.mem := by rw [spoilStopped]; split <;> simp

@[simp] theorem disarm_mem {slot : Nat} {how : OpState} : (disarm s o slot how).mem = s.mem := by
  rw [disarm]; dsimp only; (repeat' split) <;> simp

@[simp] theorem leaveMatrix_mem : (leaveMatrix s o).mem = s.mem := by rw [leaveMatrix]; rfl
@[simp] theorem landOp_wf (h : s.mem.wf) : (landOp s o).mem.wf := by rw [landOp]; split <;> simp [h]
@[simp] theorem stopOp_mem : (stopOp s o).mem = s.mem := by rw [stopOp]; split <;> simp
@[simp] theorem retain_mem {rs : List FutRef} : (retain s rs).mem = s.mem := by rw [retain]
@[simp] theorem beginWait_mem : (beginWait s o).mem = s.mem := by rw [beginWait]; (repeat' split) <;> rfl
@[simp] theorem askStop_mem {r : FutRef} : (askStop s r).mem = s.mem := by rw [askStop]; (repeat' split) <;> simp
@[simp] theorem letGo_mem {r : FutRef} : (letGo s r).mem = s.mem := by rw [letGo]

end

/-! ### Copies (`Machine/Copy.lean`) -/

section
variable {s : State} {o : EngOp} {sub sec : Nat}

@[simp] theorem writeBytes_wf {bs : List (Nat × Place × Nat)} (h : s.mem.wf) : (writeBytes s o bs).mem.wf := by
  rw [writeBytes]
  exact foldl_wf (fun _ _ h => ⟨engWriteByte_wf h.wf⟩) (foldl_wf (fun _ _ h => ⟨by simpa using h.wf⟩) (by simpa using h))

@[simp] theorem finishOp_mem {v : W32} : (finishOp s o v).mem = s.mem := by rw [finishOp]; rfl
@[simp] theorem faultOp_mem : (faultOp s o sub).mem = s.mem := by rw [faultOp]; rfl
@[simp] theorem faultCopy_wf (h : s.mem.wf) : (faultCopy s o sub).mem.wf := by simp [faultCopy, h]
@[simp] theorem copySector_wf (h : s.mem.wf) : (copySector s o sec).mem.wf := by rw [copySector]; (repeat' split) <;> simp [h]
@[simp] theorem finishCopy_wf (h : s.mem.wf) : (finishCopy s o).mem.wf := by rw [finishCopy]; dsimp only; (repeat' split) <;> simp [h]

@[simp] theorem stepCopy_wf (h : s.mem.wf) : (stepCopy s o).mem.wf := by
  rw [stepCopy]; split
  · (repeat' split) <;> simp [h]
  · split
    · refine farGate_wf ?_ h
      split <;> simp [h]
    · split <;> simp [h]

end

/-! ### Helper lanes (`Machine/Helper.lean`) -/

section
variable {s : State} {k : WarpKey} {l idx d : Nat} {p : Path} {m : Mask} {e : Ending}

@[simp] theorem lend_mem {gid : Nat} {body : W64} {from_ : WarpKey × Nat} {last : Nat} {m : WarpKey × Nat} :
    (lend s gid idx body from_ last m).mem = s.mem := by
  rw [lend]; rfl

@[simp] theorem formGroup_mem {path : Mask} {counts : List (Nat × W32)} {body cont : W64} {t : State × List (Nat × W64)} :
    (formGroup k path d counts body cont t l).1.mem = t.1.mem := by simp [formGroup]

@[simp] theorem claimOne_mem {m : Nat × WarpKey × Nat × Nat} : (claimOne s m).mem = s.mem := by rw [claimOne]; split <;> simp

@[simp] theorem claimAll_mem {ready : Warp → Path → Ending → Bool} : (claimAll s ready k m).mem = s.mem := by
  rw [claimAll]; simp

@[simp] theorem releaseLane_mem {t : State × List (Nat × W64) × List Nat} : (releaseLane k t l).1.mem = t.1.mem := by
  rw [releaseLane]; dsimp only; (repeat' split) <;> simp

@[simp] theorem completeJoin_mem {y op : Nat} : (completeJoin s k d y op l).mem = s.mem := by rw [completeJoin]; rfl
@[simp] theorem leaveCharged_mem : (leaveCharged s k l).mem = s.mem := by rw [leaveCharged]; rfl

@[simp] theorem joinLanes_mem {y op : Nat} : (joinLanes s k p e m d y op).1.mem = s.mem := by
  rw [joinLanes]; dsimp only; split <;> simp

@[simp] theorem dropJoin_mem : (dropJoin s k l).mem = s.mem := by rw [dropJoin]; rfl

end

/-! ### Run ends (`Machine/RunEnd.lean`) -/

section
variable {s : State} {k : WarpKey} {x core : Nat} {p base : Path} {e : Ending}

@[simp] theorem toTargets_mem {ts : List (Nat × W64)} : (toTargets s k p base ts).mem = s.mem := by rw [toTargets]; rfl

@[simp] theorem doTransfer_wf (h : s.mem.wf) : (doTransfer s k p base e).mem.wf := by
  rw [doTransfer]; split
  case h_7 m d y op _ =>
    have hj : (joinLanes s k p e m d y op).1.mem.wf := by simpa using h
    split
    · next he => simpa [he] using hj
    · next he => simpa [he] using hj
  · simp [h]
  · simp [h]
  · simp [h]
  · simp [h]
  · simpa [foldl_fst_mem fun t l => formGroup_mem ..] using h
  · simpa [foldl_fst_mem fun t l => releaseLane_mem ..] using h

@[simp] theorem afterEnd_mem : (afterEnd s k).mem = s.mem := by rw [afterEnd]; simp
@[simp] theorem endUpdate_mem : (endUpdate s core x).mem = s.mem := by rw [endUpdate]; split <;> rfl
@[simp] theorem endOfRun_wf (h : s.mem.wf) : (endOfRun s k p e).mem.wf := by simp [endOfRun, h]

end

/-! ### The matrix engine (`Machine/Matrix.lean`) -/

section
variable {s : State} {o : EngOp} {sec : Nat} {i : Instr}

theorem matrixWordOf_wf {hd : Hdr} {mk : State → Cur → Cmd} {after : State → EngOp → State} (ha : ∀ s o, s.mem.wf → (after s o).mem.wf)
    (h : s.mem.wf) :
    (matrixWordOf i hd mk after s).mem.wf := by
  refine runWord_wf (fun c => ?_) h
  split
  · simpa using h
  · rw [advance_mem]; split
    · exact ha _ _ (by simpa using h)
    · simpa using h

@[simp] theorem doSeat_mem : (doSeat s o).mem = s.mem := by rw [doSeat]; split <;> simp
@[simp] theorem mmulRow_mem : (mmulRow s o).mem = s.mem := by rw [mmulRow]; split <;> simp

@[simp] theorem resultSector_wf {bs : List (Nat × Nat)} (h : s.mem.wf) : (resultSector s o bs sec).mem.wf := by
  rw [resultSector]; dsimp only; (repeat' split) <;> simp [h]

@[simp] theorem acceptMatrix_mem : (acceptMatrix s o).mem = s.mem := by rw [acceptMatrix]; split <;> simp
@[simp] theorem startMatrix_mem : (startMatrix s o).mem = s.mem := by rw [startMatrix]; split <;> simp
@[simp] theorem doProm_mem : (doProm s o).mem = s.mem := by rw [doProm]; rfl
@[simp] theorem doClr_mem : (doClr s o).mem = s.mem := by rw [doClr]; rfl
@[simp] theorem stepMatrix_mem : (stepMatrix s o).mem = s.mem := by rw [stepMatrix]; (repeat' split) <;> simp
@[simp] theorem armSlot_mem {arm : Bool} {slot : Nat} : (armSlot arm slot s o).mem = s.mem := by rw [armSlot]; split <;> simp

end

/-! ### Sets (`Machine/Sets.lean`) -/

section
variable {s : State} {o : EngOp} {x sub idx : Nat}

@[simp] theorem crockTouch_mem {r : Nat × Nat} : (crockTouch s x r).mem = s.mem := foldl_mem (fun s x => by (repeat' split) <;> simp) _ _

theorem crockStore_wf {t : State} {w : Nat × Nat × Nat} (h : s.mem.wf) (ht : crockStore s x w = .ok t) : t.mem.wf := by
  rw [crockStore] at ht
  (repeat' split at ht)
  · cases ht
  · cases ht
  · exact partStore_wf h ht

theorem crockStores_wf {t : State} {l : List (Nat × Nat × Nat)} (h : s.mem.wf) (ht : crockStores s x l = .ok t) : t.mem.wf := by
  induction l generalizing s with
  | nil => cases ht; exact h
  | cons e r ih =>
    rw [crockStores, List.foldlM_cons] at ht
    cases hc : crockStore s x e with
    | error c => rw [hc] at ht; cases ht
    | ok u => rw [hc] at ht; exact ih (crockStore_wf h hc) ht

@[simp] theorem modEntry_wf {heap : Nat} {f : SetEntry → SetEntry} (h : s.mem.wf) : (modEntry s x heap idx f).mem.wf := by
  rw [modEntry]; split
  · next he => exact crockStore_wf (by simpa using h) he
  · simpa using h

@[simp] theorem readEntry_wf {e : SetEntry} (h : s.mem.wf) : (readEntry s o e).mem.wf := by simp [readEntry, h]

@[simp] theorem releaseReads_wf (h : s.mem.wf) : (releaseReads s o).mem.wf := by
  rw [releaseReads]; exact foldl_wf (fun _ _ h => ⟨modEntry_wf h.wf⟩) h

@[simp] theorem closeSet_wf {vals : SMap W32} (h : s.mem.wf) : (closeSet s o vals).mem.wf := by rw [closeSet]; split <;> simp [h]
@[simp] theorem finishSet_wf {v : W32} (h : s.mem.wf) : (finishSet s o v).mem.wf := by simp [finishSet, h]
@[simp] theorem faultSet_wf (h : s.mem.wf) : (faultSet s o sub).mem.wf := by simp [faultSet, h]

theorem writeTable_wf {t : State} {hdr tier heap : Nat} {fresh base : List Chunk} {v : List Chunk × Nat} (h : s.mem.wf)
    (ht : writeTable s x hdr tier heap fresh base = some (.ok (t, v))) : t.mem.wf := by
  rw [writeTable] at ht
  obtain ⟨b, -, hb⟩ := Option.map_eq_some_iff.mp ht
  cases hc : crockStores s x (b.1.flatMap chunkStores ++ tableStores b.2.2 b.2.1) with
  | error c => rw [hc] at hb; cases hb
  | ok u => rw [hc] at hb; cases hb; exact crockStores_wf h hc

@[simp] theorem startFold_wf {hdr : Nat} {e : SetEntry} (h : s.mem.wf) : (startFold s x hdr e).1.mem.wf := by
  rw [startFold]; dsimp only; split
  · simp [h]
  · simp [h]
  · simp [h]
  · next he => exact modEntry_wf (writeTable_wf (by simpa using h) he)

@[simp] theorem appendKey_wf {e : SetEntry} {k : Nat} {ins : Bool} (h : s.mem.wf) : (appendKey s o e k ins).mem.wf := by simp [appendKey, h]

theorem wf_of_startFold {t : State} {hdr : Nat} {e : SetEntry} {r : Option Nat} (h : s.mem.wf) (ht : startFold s x hdr e = (t, r)) :
    t.mem.wf := by
  simpa [ht] using startFold_wf (x := x) (hdr := hdr) (e := e) h

@[simp] theorem keyStep_wf (h : s.mem.wf) : (keyStep s o).mem.wf := by
  fun_cases keyStep s o
  case case7 he => exact wf_of_startFold (by simpa +zetaDelta using h) he
  case case8 he => simpa using wf_of_startFold (by simpa +zetaDelta using h) he
  all_goals simp +zetaDelta [h]

@[simp] theorem openSet_wf {tier : Nat} {result : Bool} {fresh : List Chunk} (h : s.mem.wf) : (openSet s o tier result fresh).mem.wf := by
  rw [openSet]; split
  · simp [h]
  · split
    · simp [h]
    · split
      · simp [h]
      · split
        · simp [h]
        · simp [h]
        · next he => exact finishSet_wf (modEntry_wf (writeTable_wf h he))

theorem readHandle_wf {w : W32} {next : State → State} (hn : ∀ s, s.mem.wf → (next s).mem.wf) (h : s.mem.wf) :
    (readHandle s o w next).mem.wf := by
  rw [readHandle]; (repeat' split) <;> simp [h, hn]

@[simp] theorem stepOn_mem : (stepOn o s).mem = s.mem := by rw [stepOn]; rfl

@[simp] theorem readPair_wf (h : s.mem.wf) : (readPair s o).mem.wf := by
  have on : ∀ s, s.mem.wf → (stepOn o s).mem.wf := fun _ hs => by simpa using hs
  rw [readPair]; split
  · exact readHandle_wf (fun s hs => by simpa using hs) h
  · split
    · split
      · split
        · exact faultSet_wf h
        · exact faultSet_wf h
        · split
          · exact h
          · split
            · exact h
            · simpa using readEntry_wf (readEntry_wf h)
      · exact readHandle_wf on h
    · exact readHandle_wf on h

theorem readsPass_wf {rs : List (Nat × Nat)} {go : State → State} (hn : ∀ s, s.mem.wf → (go s).mem.wf) (h : s.mem.wf) :
    (readsPass s o rs go).mem.wf := by
  rw [readsPass]; split
  · simp [h]
  · exact hn _ (by simpa using h)

@[simp] theorem buildResult_wf (h : s.mem.wf) : (buildResult s o).mem.wf :=
  readsPass_wf (fun _ => openSet_wf) h

@[simp] theorem stepMemb_wf (h : s.mem.wf) : (stepMemb s o).mem.wf := by
  rw [stepMemb]; split
  · (repeat' split) <;> simp [h]
  · exact readsPass_wf (fun _ => closeSet_wf) h

@[simp] theorem stepFree_wf (h : s.mem.wf) : (stepFree s o).mem.wf := by
  refine readHandle_wf (fun s hs => ?_) h
  extract_lets t
  have ht : t.mem.wf := modEntry_wf hs
  split
  · exact finishSet_wf ht
  · exact ht

@[simp] theorem stepEnum_wf (h : s.mem.wf) : (stepEnum s o).mem.wf := by
  have hs : ∀ s, s.mem.wf → (stepOn o s).mem.wf := fun _ hs => by simpa using hs
  rw [stepEnum]; split
  · split
    · simp [h]
    · split
      · simp [h]
      · exact readHandle_wf hs h
  · split
    · exact farGate_wf (readsPass_wf hs h) h
    · split <;> simp [h]

@[simp] theorem stepMutate_wf (h : s.mem.wf) : (stepMutate s o).mem.wf := by
  rw [stepMutate]; split
  · split
    · simp [h]
    · split
      · simp [h]
      · split
        · simp [h]
        · exact farGate_wf h h
  · split <;> simp [h]

@[simp] theorem stepBad_wf (h : s.mem.wf) : (stepBad s o).mem.wf := by simp [stepBad, h]
theorem heapGate_wf {go : State} (hg : go.mem.wf) (h : s.mem.wf) : (heapGate s o go).mem.wf := farGate_wf hg h

@[simp] theorem stepSet_wf (h : s.mem.wf) : (stepSet s o).mem.wf := by
  have on : ∀ s, s.mem.wf → (stepOn o s).mem.wf := fun _ hs => by simpa using hs
  have fin (w : W32) : ∀ s, s.mem.wf → (finishSet s o w).mem.wf := fun _ => finishSet_wf
  rw [stepSet]; split
  · exact stepBad_wf h
  · split
    · exact h
    · split
      · exact h
      · refine heapGate_wf ?_ h
        split
        · exact openSet_wf h
        · exact stepFree_wf h
        · exact stepMutate_wf h
        · exact stepMutate_wf h
        · exact stepMemb_wf h
        · exact stepEnum_wf h
        · split
          · exact readHandle_wf on h
          · exact readsPass_wf (fin _) h
        · split
          · exact readHandle_wf on h
          · exact readsPass_wf (fin _) h
        · split
          · exact readPair_wf h
          · exact readsPass_wf (fin _) h
        · split
          · exact readPair_wf h
          · exact buildResult_wf h

@[simp] theorem noteHeap_mem {hdr base : Nat} : (noteHeap s x hdr base).mem = s.mem := by rw [noteHeap]; split <;> rfl
@[simp] theorem startSet_mem : (startSet s o).mem = s.mem := by rw [startSet]; split <;> simp

end

/-! ### Tables and reductions (`Machine/Tables.lean`) -/

section
variable {s : State} {o : EngOp} {x stack sec : Nat}

@[simp] theorem pushItem_mem {weight row : Nat} : (pushItem s stack o weight row).mem = s.mem := by
  rw [pushItem]; simp

@[simp] theorem modTables_mem {f : List Table → List Table} : (modTables s x f).mem = s.mem := by rw [modTables]; rfl
@[simp] theorem leaveTable_mem : (leaveTable s o).mem = s.mem := by rw [leaveTable]; rfl
@[simp] theorem chargeTable_mem {bytes : Nat} : (chargeTable s bytes).mem = s.mem := by rw [chargeTable]; simp

@[simp] theorem stepTqload_mem : (stepTqload s o).mem = s.mem := by
  rw [stepTqload]; dsimp only; split
  · split
    · simp
    · split
      · simp
      · exact farGate_mem (by split <;> simp)
  · split
    · split
      · rfl
      · split <;> simp
    · split
      · rfl
      · rw [finishOp_mem, chargeTable_mem, modTables_mem]

@[simp] theorem stepTqfree_mem : (stepTqfree s o).mem = s.mem := by rw [stepTqfree]; (repeat' split) <;> rfl
@[simp] theorem retarget_mem {gs : List (Bool × List Nat)} : (retarget s o gs).mem = s.mem := by rw [retarget]; split <;> simp
@[simp] theorem readQueryDesc_mem : (readQueryDesc s o).mem = s.mem := by rw [readQueryDesc]; (repeat' split) <;> simp
@[simp] theorem enterQuery_mem : (enterQuery s o).mem = s.mem := by rw [enterQuery]; (repeat' split) <;> simp
@[simp] theorem openQuery_mem : (openQuery s o).mem = s.mem := by rw [openQuery]; split <;> simp
@[simp] theorem readQuery_mem : (readQuery s o).mem = s.mem := by rw [readQuery]; dsimp only; (repeat' split) <;> simp
@[simp] theorem stepTqry_mem : (stepTqry s o).mem = s.mem := by rw [stepTqry]; split <;> simp
@[simp] theorem openIred_mem : (openIred s o).mem = s.mem := by rw [openIred]; dsimp only; (repeat' split) <;> simp
@[simp] theorem queueRows_mem : (queueRows s o).mem = s.mem := by rw [queueRows]; simp
@[simp] theorem iredSector_wf (h : s.mem.wf) : (iredSector s o sec).mem.wf := by rw [iredSector]; split <;> simp [h]
@[simp] theorem stepIred_mem : (stepIred s o).mem = s.mem := by rw [stepIred]; split <;> simp
@[simp] theorem takeItem_mem {i : StackItem} : (takeItem s i o).mem = s.mem := by rw [takeItem]; rfl
@[simp] theorem grantItem_mem : (grantItem s stack).mem = s.mem := by rw [grantItem]; (repeat' split) <;> simp

end

/-! ### Queues, launches and placement (`Machine/Launch.lean`) -/

section
variable {s : State} {o : EngOp} {x core n v id cause rank : Nat} {j : Job} {fut : Option FutRef} {q : Queue}

@[simp] theorem stopQueue_mem {q : Nat} : (stopQueue s q cause fut).mem = s.mem := by simp [stopQueue]; split <;> simp
@[simp] theorem startLaunch_mem : (startLaunch s id).mem = s.mem := by rw [startLaunch]; split <;> simp
@[simp] theorem dropLost_mem : (dropLost s id).mem = s.mem := by rw [dropLost]; split <;> simp
@[simp] theorem acceptRecord_mem {r : BitVec 512} : (acceptRecord s q r).mem = s.mem := by rw [acceptRecord]; split <;> simp

@[simp] theorem putRecord_wf {i : Nat} {r : BitVec 512} {org : Option Nat} (h : s.mem.wf) : (putRecord s i r fut org).mem.wf := by
  rw [putRecord.eq_def]; extract_lets q va t
  have ht : t.mem.wf := by
    unfold t; split
    · exact partStores_wf h ‹_›
    · exact h
  exact ht

@[simp] theorem putForward_wf {i : Nat} (h : s.mem.wf) : (putForward s i).mem.wf := by rw [putForward]; split <;> simp [h]
@[simp] theorem askRecord_mem : (askRecord s q rank).mem = s.mem := by rw [askRecord]; simp

@[simp] theorem takeRecords_wf {i : Nat} (h : s.mem.wf) : (takeRecords n s i).mem.wf := by
  induction n generalizing s with
  | zero => exact h
  | succ n ih =>
    rw [takeRecords]
    (repeat' split) <;> simp [h, ih]

@[simp] theorem pumpQueue_wf {i : Nat} (h : s.mem.wf) : (pumpQueue s i).mem.wf := by simp [pumpQueue, h]

@[simp] theorem appendRecord_wf {i : Nat} {r : BitVec 512} {org : Option Nat} (h : s.mem.wf) : (appendRecord s i r fut org).mem.wf := by
  simp [appendRecord, h]

@[simp] theorem signalValue_wf {l : Launch} {key : Option Nat} (h : s.mem.wf) : (signalValue s l key v).mem.wf := by simp [signalValue, h]

@[simp] theorem acquireSignal_mem {l : Launch} {t : Xlat} : (acquireSignal s l t).mem = s.mem := by
  rw [acquireSignal]; simp

@[simp] theorem signalLost_mem {l : Launch} : (signalLost s l).mem = s.mem := by rw [signalLost]; simp
@[simp] theorem readSignal_wf {l : Launch} (h : s.mem.wf) : (readSignal s l).mem.wf := by rw [readSignal]; (repeat' split) <;> simp [h]

theorem placeNew_mem {t : State} {ln : Launch} {i c : Nat} (ht : placeNew s ln i c core = some t) : t.mem = s.mem := by
  unfold placeNew at ht; split at ht
  · cases ht; simp
  · cases ht

@[simp] theorem armWaits_mem {blks : List Nat} : (armWaits s blks).mem = s.mem := by rw [armWaits]
@[simp] theorem rekeyBlock_mem {x : SavedBlock} {m : List (WarpKey × WarpKey)} : (rekeyBlock s x m core).mem = s.mem := by rw [rekeyBlock]
@[simp] theorem emptyRuns_mem {ks : List WarpKey} : (emptyRuns s x ks).mem = s.mem := by rw [emptyRuns]
@[simp] theorem touchUnit_mem {need : Need} {u : Nat} : (touchUnit x need s u).mem = s.mem := by rw [touchUnit]; (repeat' split) <;> simp

theorem placeSaved_wf {t : State} {blk : Nat} (h : s.mem.wf) (ht : placeSaved s blk core = some t) : t.mem.wf := by
  rw [placeSaved] at ht; dsimp only at ht
  (repeat' split at ht) <;> cases ht
  all_goals simpa using memFold_wf _ _ _ (memWrite_wf _ _ _ h)

theorem placeOne_wf {t : State} {i : Nat} (h : s.mem.wf) (ht : placeOne s j i core = some t) : t.mem.wf := by
  rw [placeOne.eq_def] at ht; split at ht
  · simpa [placeNew_mem ht] using h
  · obtain ⟨b, -, hb⟩ := Option.bind_eq_some_iff.mp ht
    exact placeSaved_wf h hb

theorem placeInCluster_wf {t : State} {pref hw : Nat} (h : s.mem.wf) (ht : placeInCluster s j pref hw = some t) : t.mem.wf := by
  rw [placeInCluster] at ht
  refine foldl_bind_wf (fun u v i hu hv => ?_) h ht
  split at hv
  · exact placeOne_wf hu hv
  · extract_lets p at hv
    split at hv
    · next hp =>
      split at hp
      · exact placeOne_wf hu (hp.trans hv)
      · cases hp
    · obtain ⟨c, -, hc⟩ := List.exists_of_findSome?_eq_some hv
      exact placeOne_wf hu hc

theorem placeJob_wf {t : State} {pref : Nat} {others : Bool} (h : s.mem.wf) (ht : placeJob s j pref others = some t) : t.mem.wf := by
  rw [placeJob.eq_def] at ht; extract_lets _ p at ht
  have hp : ∀ u, p = some u → u.mem.wf := by
    intro u hu
    unfold p at hu; split at hu
    · obtain ⟨c, -, hc⟩ := List.exists_of_findSome?_eq_some hu
      exact placeInCluster_wf h hc
    · obtain ⟨c, -, hc⟩ := List.exists_of_findSome?_eq_some hu
      exact placeOne_wf h hc
  split at ht
  · exact hp t ht
  · obtain ⟨u, hu, rfl⟩ := Option.map_eq_some_iff.mp ht
    simpa using hp u hu

theorem tryJob_wf {t : State} (h : s.mem.wf) (ht : tryJob s j = some t) : t.mem.wf := placeJob_wf h ht

@[simp] theorem afterPlace_wf (h : s.mem.wf) : (afterPlace s q j).mem.wf := by
  fun_cases afterPlace s q j
  · exact h
  · exact pumpQueue_wf (by simpa +zetaDelta using h)
  · simpa +zetaDelta using h

@[simp] theorem beginWaitFor_mem : (beginWaitFor s j).mem = s.mem := by simp [beginWaitFor]; split <;> simp

@[simp] theorem dispatch_wf {l : List (Queue × Job)} (h : s.mem.wf) : (dispatch l s).mem.wf := by
  induction l generalizing s with
  | nil => exact h
  | cons e r ih =>
    rw [dispatch]; split
    · exact afterPlace_wf (tryJob_wf h ‹_›)
    · exact ih (by simpa using h)

@[simp] theorem stopForSave_mem {v : Nat × Nat} {migrate : Option (List (Nat × Nat))} : (stopForSave s v migrate).mem = s.mem := by
  rw [stopForSave]

@[simp] theorem preempt_wf (h : s.mem.wf) : (preempt s j).mem.wf := by rw [preempt]; split <;> simp [h]
@[simp] theorem writeUnit_mem {u : Nat} : (writeUnit x s u).mem = s.mem := by rw [writeUnit]; split <;> simp

@[simp] theorem saveBlock_wf {b : Block} (h : s.mem.wf) : (saveBlock s b).mem.wf := by
  have ht : ((s.warps.filter fun w => w.blk == b.id).foldl (fun s w => w.lanes.foldl (spillLane 0 w) s) s).mem.wf :=
    foldl_wf (fun _ _ h => ⟨foldl_wf (fun _ _ h => ⟨spillLane_wf h.wf⟩) h.wf⟩) h
  simpa [saveBlock] using ht

@[simp] theorem readCone_mem {rs : List ConeReading} {r : ConeReading} : (readCone rs s r).mem = s.mem := by
  rw [readCone]; split
  · rfl
  · rw [foldl_mem, addLog_mem]
    intro s b; (repeat' split) <;> simp

@[simp] theorem forwardRecord_mem : (forwardRecord s x).mem = s.mem := by rw [forwardRecord]; split <;> simp
@[simp] theorem stepLaunch_wf (h : s.mem.wf) : (stepLaunch s o).mem.wf := by rw [stepLaunch]; (repeat' split) <;> simp [h]

end

/-! ### Events of engines (`Machine/EngineEvents.lean`) -/

section
variable {s : State} {o : EngOp} {sec : Nat}

@[simp] theorem releaseFork_mem : (releaseFork s o).mem = s.mem := by rw [releaseFork]; split <;> simp
@[simp] theorem cancelOp_wf (h : s.mem.wf) : (cancelOp s o).mem.wf := by simp [cancelOp, h]
@[simp] theorem advanceOp_wf (h : s.mem.wf) : (advanceOp s o).mem.wf := by rw [advanceOp]; (repeat' split) <;> simp [h]
@[simp] theorem landIfOver_wf {r : FutRef} (h : s.mem.wf) : (landIfOver s r).mem.wf := by rw [landIfOver]; split <;> simp [h]
@[simp] theorem moveOp_wf (h : s.mem.wf) : (moveOp s o).mem.wf := by simp [moveOp, h]
@[simp] theorem afterSector_wf (h : s.mem.wf) : (afterSector s o).mem.wf := by rw [afterSector]; split <;> simp [h]
@[simp] theorem writeSector_wf (h : s.mem.wf) : (writeSector s o sec).mem.wf := by rw [writeSector]; split <;> simp [h]

end

/-! ### Issue (`Machine/Issue.lean`) -/

section
variable {s : State} {k : WarpKey} {x core l va dp idx part : Nat} {w : Warp} {p : Path}

@[simp] theorem fenceStep_mem : (fenceStep k s l).mem = s.mem := by rw [fenceStep]; (repeat' split) <;> simp
@[simp] theorem settleIcinv_mem : (settleIcinv s w).mem = s.mem := by rw [settleIcinv]; split <;> rfl

@[simp] theorem sweepPart_wf (h : s.mem.wf) : (sweepPart s core part).mem.wf := by
  rw [sweepPart]
  apply foldl_wf
  · exact fun _ _ h => ⟨by simpa using h.wf⟩
  apply foldl_wf
  · exact fun _ _ h => ⟨spillWarp_wf h.wf⟩
  simpa using h

@[simp] theorem raiseEngine_wf {reg : Nat} {fs : List (Nat × FaultInfo)} (h : s.mem.wf) : (raiseEngine s w p reg fs).mem.wf := by
  simp [raiseEngine, h]

@[simp] theorem enterRun_mem {ws : List W64} {t : W64} : (enterRun s w p dp idx ws t).mem = s.mem := by rw [enterRun]; rfl

@[simp] theorem checkRun_wf {b : RunBuf} (h : s.mem.wf) : (checkRun s w p dp b).mem.wf := by
  rw [checkRun]; dsimp only; (repeat' split) <;> simp [h]

@[simp] theorem startRun_wf (h : s.mem.wf) : (startRun s k p dp).mem.wf := by rw [startRun]; split <;> simp [h]

@[simp] theorem startOn_wf {t : State × List Path} (h : t.1.mem.wf) : (startOn k t dp).1.mem.wf := by
  rw [startOn]; split
  · exact h
  · exact startRun_wf h

@[simp] theorem countClk_mem {s0 : State} : (countClk s0 s core part).mem = s.mem := by rw [countClk]; (repeat' split) <;> rfl

@[simp] theorem partitionClk_wf (h : s.mem.wf) : (partitionClk s core part).mem.wf := by
  have hu : (sweepPart (s.modPart core part fun x => { x with served := some s.clk }) core part).mem.wf := sweepPart_wf (by simpa using h)
  rw [partitionClk]; dsimp only; rw [countClk_mem]; dsimp only
  split
  · exact hu
  · exact startOn_wf (startOn_wf hu)

@[simp] theorem touchLine_mem : (touchLine core x s va).mem = s.mem := by rw [touchLine]; (repeat' split) <;> simp

end

/-! ### Events of links, ports and watchdogs (`Machine/Events.lean`) -/

section
variable {s : State} {o : EngOp} {x v id port cause : Nat} {a : Access} {q : Queue}

@[simp] theorem landAccess_mem : (landAccess s a).mem = s.mem := by rw [landAccess]; rfl
@[simp] theorem noteWait_mem : (noteWait s a).mem = s.mem := by rw [noteWait]; split <;> rfl
@[simp] theorem releaseBarrier_mem {b : BarKey} : (releaseBarrier s b).mem = s.mem := by rw [releaseBarrier]; split <;> simp
@[simp] theorem acceptAccess_mem : (acceptAccess s a v).mem = s.mem := by rw [acceptAccess]; split <;> simp

@[simp] theorem answerAccess_wf {ans : Except Nat Nat} (h : s.mem.wf) : (answerAccess s a ans).mem.wf := by
  rw [answerAccess]; extract_lets; split
  · exact h
  · refine settleWord_wf ?_
    rw [State.useFree_mem]
    exact foldl_wf (fun _ _ h => ⟨by split <;> simp [h.wf]⟩) h

@[simp] theorem refuseOp_wf {c : Nat} (h : s.mem.wf) : (refuseOp s o c).mem.wf := by simp [refuseOp, h]

@[simp] theorem answerOp_wf {ans : Except Nat Nat} (h : s.mem.wf) : (answerOp s o id ans).mem.wf := by
  rw [answerOp.eq_def]; extract_lets t
  have ht : t.mem.wf := by simpa [t] using h
  split
  · exact ht
  · split
    · exact ht
    · exact refuseOp_wf ht

@[simp] theorem answerRing_wf {ans : Except Nat Nat} (h : s.mem.wf) : (answerRing s q id ans).mem.wf := by
  rw [answerRing.eq_def]; split <;> simp [h]

@[simp] theorem answerSignal_wf {l : Launch} {ans : Except Nat Nat} (h : s.mem.wf) : (answerSignal s l ans).mem.wf := by
  rw [answerSignal.eq_def]; split
  · exact h
  · split
    · exact signalValue_wf h
    · simpa using h

@[simp] theorem answerRequest_wf {ans : Except Nat Nat} (h : s.mem.wf) : (answerRequest s id ans).mem.wf := by
  rw [answerRequest]; (repeat' split) <;> simp [h]

@[simp] theorem reportPeer_wf {r : PeerReq} {wrote : Bool} (h : s.mem.wf) : (reportPeer s port x r wrote).mem.wf := by simp [reportPeer, h]

@[simp] theorem performPeer_wf {t : Xlat} {r : PeerReq} (h : s.mem.wf) : (performPeer s port x t r).mem.wf := by
  rw [performPeer]; split <;> simp [h]

@[simp] theorem refusePeer_mem {r : PeerReq} : (refusePeer s port r cause).mem = s.mem := by rw [refusePeer]; rfl

end

/-! ### The host (`Machine/Host.lean`) -/

section
variable {s : State} {x n v off data num code : Nat} {ok : Bool}

@[simp] theorem forgetCode_mem : (forgetCode s x).mem = s.mem := by rw [forgetCode]; rfl
@[simp] theorem commitAll_mem : (commitAll s x).mem = s.mem := by rw [commitAll]; rfl
@[simp] theorem teardown_mem : (teardown s x).mem = s.mem := by rw [teardown]; simp
@[simp] theorem writeRecordReg_mem {r : Nat} {v : W64} : (writeRecordReg s x r v).mem = s.mem := by rw [writeRecordReg]; split <;> simp
@[simp] theorem writeQctl_wf {q : Nat} (h : s.mem.wf) : (writeQctl s q v).mem.wf := by simp [writeQctl, h]
@[simp] theorem writeQueueReg_wf {q r : Nat} {v : W64} (h : s.mem.wf) : (writeQueueReg s q r v).mem.wf := by simp [writeQueueReg, h]
@[simp] theorem writeKcmd_mem {v : W64} : (writeKcmd s v).mem = s.mem := by rw [writeKcmd]; rfl
@[simp] theorem regWrite_wf {v : W64} (h : s.mem.wf) : (regWrite s off v).mem.wf := by simp [regWrite, h]
@[simp] theorem hostWrite_wf (h : s.mem.wf) : (hostWrite s off n v).mem.wf := by simp [hostWrite, h]
@[simp] theorem hostRead_mem : (hostRead s off n).mem = s.mem := by rw [hostRead]; simp
@[simp] theorem kilnDone_mem : (kilnDone s ok code data).mem = s.mem := by rw [kilnDone]; rfl

@[simp] theorem kilnCmd_mem {f : State → State} (hf : (f s).mem = s.mem) : (kilnCmd s num ok code data f).mem = s.mem := by
  simp [kilnCmd, hf]

theorem kilnCmd_wf {f : State → State} (hf : (f s).mem.wf) (h : s.mem.wf) : (kilnCmd s num ok code data f).mem.wf := by
  rw [kilnCmd]; (repeat' split) <;> simp [h, hf]

@[simp] theorem winTouch_mem : (winTouch s off n).mem = s.mem := by rw [winTouch]; simp

end

/-! ### Words across lanes (`Machine/Lanes.lean`) -/

section
variable {s : State} {i : Instr}

@[simp] theorem laneWord_wf {hd : Hdr} {f : State → List Lane → Lane → List (Nat × W32)} (h : s.mem.wf) :
    (laneWord i hd f s).mem.wf := runWord_wf (fun _ => by simpa using h) h

end

/-! ### System words (`Machine/System.lean`) -/

section
variable {s : State} {c : Cur} {i : Instr}

@[simp] theorem goOnInBody_mem : (goOnInBody s c).mem = s.mem := by rw [goOnInBody]; split <;> rfl

@[simp] theorem barWord_wf {hd : Hdr} {kind : Nat} {lvl : BitVec 2} {num : BitVec 4} (h : s.mem.wf) :
    (barWord i hd kind lvl num s).mem.wf := by
  refine runWord_wf (fun c => ?_) h
  (repeat' split) <;> simp [h]

end

end Sys2Proof.Machine

/-! ### One step -/

namespace Sys2Proof.Machine

/-- An outcome whose state, where it has one, keeps memory in canonical form. -/
def OutcomeWf (r : Host.Outcome State Fault Refusal) : Prop := ∀ t, r = .next t → t.mem.wf = true

theorem next_wf {t : State} (h : t.mem.wf) : OutcomeWf (.next t) := fun _ e => by cases e; exact h

section
variable {s : State} {hd : Hdr} {d a b c : Code}

theorem execMseat_wf {i4 sp : Bool} (h : s.mem.wf) : OutcomeWf (execMseat hd d a b c i4 sp s) := by
  refine next_wf (runWord_wf (fun u => ?_) h)
  extract_lets ls m md t
  split
  · simpa using h
  · split
    · simpa using h
    · split
      · exact trapWord_wf h
      · rw [advance_mem]; unfold t; split <;> simpa using h

theorem execCvt_wf {sr : Bool} {dst src : BitVec 4} (h : s.mem.wf) : OutcomeWf (execCvt hd d a sr dst src s) :=
  next_wf (runWord_wf (fun _ => by simpa using h) h)

theorem execVcompact_wf {nc : Bool} (h : s.mem.wf) : OutcomeWf (execVcompact hd d a b c nc s) := by
  refine next_wf (runWord_wf (fun _ => ?_) h)
  dsimp only; split <;> simpa using h

theorem execWsync_wf (h : s.mem.wf) : OutcomeWf (execWsync hd a s) := by
  refine next_wf (runWord_wf (fun _ => ?_) h)
  dsimp only; split
  · simpa using h
  · split
    · split <;> simpa using h
    · rw [popIssue_mem]; exact raiseWord_wf (by simpa using h)

theorem execTrapret_wf (h : s.mem.wf) : OutcomeWf (execTrapret hd s) := by
  refine next_wf (runWord_wf (fun _ => ?_) h)
  dsimp only; split <;> simp [h]

theorem execTrap_wf {n : BitVec 16} (h : s.mem.wf) : OutcomeWf (execTrap hd n s) := by
  refine next_wf (runWord_wf (fun _ => ?_) h)
  dsimp only; split <;> simp [h]

theorem execBkpt_wf {n : BitVec 16} (h : s.mem.wf) : OutcomeWf (execBkpt hd n s) := by
  refine next_wf (runWord_wf (fun _ => ?_) h)
  dsimp only; split
  · simpa using h
  · split <;> simp [h]

end

section
variable {s : State}

theorem execBlockRestore_wf {blk : Nat} (h : s.mem.wf) : OutcomeWf (execBlockRestore blk s) := by
  refine next_wf ?_
  split
  · exact h
  · split
    · rw [State.useFree_mem]; split
      · exact afterPlace_wf (tryJob_wf h ‹_›)
      · exact h
    · exact h

theorem execPlacementWaitExpiry_wf {l : Nat} (h : s.mem.wf) : OutcomeWf (execPlacementWaitExpiry l s) := by
  refine next_wf ?_
  rw [State.useFree_mem]
  refine foldl_wf (fun s j hs => ⟨?_⟩) h
  cases j with
  | fresh l c => dsimp only; split <;> simp [hs.wf]
  | restore l c bs => dsimp only; split <;> simp [hs.wf]

theorem execContextSaveComplete_wf {blk : Nat} (h : s.mem.wf) : OutcomeWf (execContextSaveComplete blk s) := by
  refine next_wf ?_
  split
  · exact foldl_wf (fun _ _ h => ⟨saveBlock_wf h.wf⟩) h
  · exact h

theorem execCreate_wf {x : Nat} (h : s.mem.wf) : OutcomeWf (execCreate x s) := by
  refine next_wf ?_
  dsimp only; split
  · exact h
  · split
    · simpa using h
    · split
      · simpa using h
      · exact foldl_wf (fun _ _ h => ⟨pumpQueue_wf h.wf⟩) (by simpa using h)

theorem execAttest_wf (h : s.mem.wf) : OutcomeWf (execAttest s) :=
  next_wf (kilnCmd_wf (foldl_wf (fun _ _ h => ⟨hostWrite_wf h.wf⟩) (by simpa using h)) h)

theorem execUpdate_wf {x : Nat} (h : s.mem.wf) : OutcomeWf (execUpdate x s) := by
  have hc : (imageCsrs.foldl (fun s n => writeCtxCsr s x n ((s.ctxAt x).imgWord n) true) s).mem.wf :=
    foldl_wf (fun _ _ h => ⟨by simpa using h.wf⟩) h
  refine next_wf ?_
  split
  · simpa using h
  · split
    · exact foldl_wf (fun _ _ h => ⟨by split <;> simp [h.wf]⟩) h
    · extract_lets before t u
      have hu : u.mem.wf := by unfold u; rw [State.modCtx_mem]; exact hc
      split
      · rw [State.modCtx_mem]; exact hu
      · exact hu

theorem execReset_wf {f : Option Nat} (h : s.mem.wf) : OutcomeWf (execReset f s) := next_wf (memFilter_wf _ h)

end

/-- Each instruction by the function that runs its word or its event. -/
theorem exec_wf {s : State} (i : Instr) (h : s.mem.wf) : OutcomeWf (exec i s) := by
  cases i with
  | iadd | iaddImm | isub | isubImm | imul | imulImm | imulh | imad | idot4 | imin | iminImm | imax | imaxImm | iabs | ineg | and |
    andImm | or | orImm | xor | xorImm | not | shl | shlImm | shr | shrImm | sar | sarImm | rot | rotImm | clz | popc | brev | bfx | bfi |
    icmp | icmpImm | sel | mov | movi | movhi | fadd | faddImm | fsub | fsubImm | fmul | fmulImm | ffma | fmin | fminImm | fmax | fmaxImm |
    fcmp | fcmpImm | fabs | fneg | frnd | pand | por | pxor | pnot | clock | ftest | hldr => exact next_wf (fixWord_wf h)
  | idiv | rcp | rsq | sqrt | ex2 | lg2 | sin | cos | tanh => exact next_wf (mathWord_wf h)
  | lbcst | lvote | lredx | lscan | lmatch | lelect | spk24 => exact next_wf (laneWord_wf h)
  | ld | st | atom | cas | red | stt | retract | commit | mwait => exact next_wf (memWord_wf h)
  | enter | leave | bra | brc | brx | call | callx | ret => exact next_wf (stepWord_wf h)
  | launch | cpy | cpyg | cpyt | fwait | snew | sfree | sins | sdel | scard | sunion | sinter | sdiff | senum | srep | scost | tqload |
    tqry | tqfree | ired => exact next_wf (laneEngine_wf h)
  | bar | bara | barw => exact next_wf (barWord_wf h)
  | mprom | mread | mclr | mstat | smemb => exact next_wf (matrixWordOf_wf (fun _ _ h => h) h)
  | mmul => exact next_wf (matrixWordOf_wf (fun _ _ h => by simpa using h) h)
  | lea | pref | fenceFull | fenceWb | nop | exit | csrr | icinv | tdset | ftestRaw | fcancel | fcancelRaw | recruit | hrelease |
    hjoin => exact next_wf (runWord_wf (fun _ => by simpa using h) h)
  | remoteErrorResponse | remoteAcceptance => exact next_wf (answerRequest_wf h)
  | registerWrite => exact next_wf (regWrite_wf h)
  | lshfl | joinh | yield | csrw | tdget => refine next_wf (runWord_wf (fun _ => ?_) h); split <;> simp [h]
  | partitionIssueClk | runFetchComplete | yieldExpiry | rangeEntryRetire | l1LineExpiry | stackFillComplete | barrierRelease |
    barrierMessage | watchdogTick | watchdogDeadlock | linkLost | bucketItemGrant | stackActivationAlert | portSendRound | queueDoorbell |
    queueRestart | dispatchPlaceBlock | kilnConeRead | launchForward | rankDoneMessage | halt | resume | step | stepAll | debugCsrWrite |
    destroy | tlbinv | rekey | setdroop | setbucket | fwupdate | kcmdInvalid | hostBar2Access | kilnLogMirror | cxlPortError |
    writeBackReachedDram | tableCopyRebuilt => refine next_wf ?_; simp [h]
  | engineForkRelease | engineOpComplete | trapEntry | matrixCommandAccept | setKeyAppend | foldIdleStart | foldPublish |
    signalWordCheck | mmulRowTimeElapsed => refine next_wf ?_; split <;> simp [h]
  | runEnd | joinhHoldExpiry | longLatencyComplete | homeAccess | mwaitWake | remoteRequestReceive =>
    refine next_wf ?_; (repeat' split) <;> simp [h]
  | pageWalkComplete => refine next_wf ?_; dsimp only; (repeat' split) <;> simp [h]
  | cvt => exact execCvt_wf h
  | vcompact => exact execVcompact_wf h
  | wsync => exact execWsync_wf h
  | trap => exact execTrap_wf h
  | bkpt => exact execBkpt_wf h
  | mseat => exact execMseat_wf h
  | placementWaitExpiry => exact execPlacementWaitExpiry_wf h
  | contextSaveComplete => exact execContextSaveComplete_wf h
  | blockRestore => exact execBlockRestore_wf h
  | create => exact execCreate_wf h
  | attest => exact execAttest_wf h
  | trapret => exact execTrapret_wf h
  | update => exact execUpdate_wf h
  | reset => exact execReset_wf h

theorem issueStep_wf {s : State} (h : s.mem.wf) : OutcomeWf (issueStep s) := by
  rw [issueStep]; split
  · exact next_wf (by simpa using h)
  · split
    · exact next_wf (trapWord_wf h)
    · exact exec_wf _ h

theorem step_wf {s : State} (h : s.mem.wf) : OutcomeWf (step s) := by
  rw [step]; split
  · exact issueStep_wf h
  · split
    · split
      · exact exec_wf _ h
      · exact fun _ e => nomatch e
    · exact exec_wf _ h

end Sys2Proof.Machine

namespace Sys2Proof.Claims

open Sys2Proof.Machine

/-- Settles O59: every function that a step calls keeps the canonical form of memory. -/
theorem memoryStaysCanonical : Obligations.MemoryStaysCanonical := by
  unfold Obligations.MemoryStaysCanonical
  exact fun _ t h ht => step_wf h t ht

end Sys2Proof.Claims

/-! ## One access at its home

What performing a store or a load leaves as it is. `Still` covers the bookkeeping of the memory system; what it says nothing of (tentative
words, L1 lines) has lemmas of its own. -/

namespace Sys2Proof.Machine

/-- Memory, the threads, and what a read of memory depends on are as before. -/
structure Quiet (s t : State) : Prop where
  mem : t.mem = s.mem
  warps : t.warps = s.warps
  clk : t.clk = s.clk
  free : t.free = s.free
  keyTags : t.keyTags = s.keyTags
  keyGens : t.keyGens = s.keyGens
  scrambled : t.scrambled = s.scrambled
  cxlDown : t.cxlDown = s.cxlDown
  cxlPoison : t.cxlPoison = s.cxlPoison

/-- And so are the accesses of the threads. -/
structure Still (s t : State) : Prop extends Quiet s t where
  accesses : t.accesses = s.accesses

theorem Quiet.refl (s : State) : Quiet s s := by constructor <;> rfl

theorem Quiet.trans {s t u : State} (h : Quiet s t) (g : Quiet t u) : Quiet s u where
  mem := g.mem.trans h.mem
  warps := g.warps.trans h.warps
  clk := g.clk.trans h.clk
  free := g.free.trans h.free
  keyTags := g.keyTags.trans h.keyTags
  keyGens := g.keyGens.trans h.keyGens
  scrambled := g.scrambled.trans h.scrambled
  cxlDown := g.cxlDown.trans h.cxlDown
  cxlPoison := g.cxlPoison.trans h.cxlPoison

theorem quiet_foldl {α : Type} {f : State → α → State} (hf : ∀ s x, Quiet s (f s x)) (l : List α) (s : State) : Quiet s (l.foldl f s) := by
  induction l generalizing s with
  | nil => exact .refl s
  | cons x r ih => exact (hf s x).trans (ih _)

theorem Still.refl (s : State) : Still s s := ⟨.refl s, rfl⟩

theorem Still.trans {s t u : State} (h : Still s t) (g : Still t u) : Still s u := ⟨h.toQuiet.trans g.toQuiet, g.accesses.trans h.accesses⟩

theorem still_foldl {α : Type} {f : State → α → State} (hf : ∀ s x, Still s (f s x)) (l : List α) (s : State) : Still s (l.foldl f s) := by
  induction l generalizing s with
  | nil => exact .refl s
  | cons x r ih => exact (hf s x).trans (ih _)

section
variable {s : State} {x key n core line : Nat} {ag : Agent} {a : Access}

theorem modCore_still {f : Core → Core} : Still s (s.modCore x f) := by repeat' constructor
theorem modCtx_still {f : Ctx → Ctx} : Still s (s.modCtx x f) := by repeat' constructor
theorem setSticky_still {bit : Nat} : Still s (s.setSticky x bit) := by
  rw [State.setSticky]; split
  · exact .refl s
  · exact modCtx_still

/-! ### Buckets -/

/-- Only the commands of engines and the stacks of HBM differ. -/
def Charged (s t : State) : Prop := t = { s with ops := t.ops, hbm := t.hbm }

theorem Charged.trans {s t u : State} (h : Charged s t) (g : Charged t u) : Charged s u :=
  Eq.trans g (by rw [h])

theorem Charged.still {s t : State} (h : Charged s t) : Still s t := by
  rw [h]; repeat' constructor

theorem endWaits_charged {stack till : Nat} : Charged s (endWaits s stack till) := by
  rw [endWaits]; split <;> rfl

theorem settleStack_charged {stack : Nat} : Charged s (settleStack s stack) := by
  unfold settleStack; extract_lets k t going u
  have ht : Charged s t := by
    unfold t; split
    · rfl
    · split
      · exact endWaits_charged
      · rfl
  have hu : Charged s u := ht.trans rfl
  split
  · exact hu
  · split
    · exact hu.trans endWaits_charged
    · exact hu

theorem chargeStack_charged {stack tokens : Nat} : Charged s (chargeStack s stack tokens) :=
  (settleStack_charged (stack := stack)).trans rfl

theorem chargeOrdinary_charged : Charged s (chargeOrdinary s key n) := by
  rw [chargeOrdinary, chargeKey]; split
  · rfl
  · exact chargeStack_charged

/-! ### Tentative words, release records, heaps -/

theorem observe_still {who : Option (Nat × W64)} : Still s (observe s key n who) := by repeat' constructor

theorem noteRelease_still {rel : Nat} {atomic : Bool} : Still s (noteRelease s key n rel atomic ag) := by
  rw [noteRelease]; split
  · split <;> repeat' constructor
  · repeat' constructor

theorem scopeCheck_still {scope : Nat} : Still s (scopeCheck s key n scope ag) := by
  refine still_foldl (fun s r => ?_) _ s
  dsimp only; split
  · split
    · exact .refl s
    · exact setSticky_still
  · split
    · exact setSticky_still
    · exact setSticky_still.trans setSticky_still

theorem notePhys_still : Still s (notePhys s key n) := by
  refine still_foldl (fun s c => ?_) _ s
  dsimp only; split
  · exact modCtx_still
  · exact .refl s

theorem mayEvict_still : Still s (mayEvict s key) := by
  rw [mayEvict]; split
  · exact .refl s
  · repeat' constructor

/-! ### L1 lines -/

theorem dropL1_still : Still s (dropL1 s core) := modCore_still

theorem dropHere_still : Still s (dropHere s core line) := modCore_still

theorem fillL1_still {kind : PageKind} : Still s (fillL1 s core line kind) := by
  rw [fillL1]; split
  · exact .refl s
  · exact modCore_still

theorem readThrough_still {tkey : Nat} {kind : PageKind} : Still s (readThrough s core key n tkey kind).1 := by
  rw [readThrough]; split
  · exact .refl s
  · split
    · split <;> exact .refl s
    · exact fillL1_still

theorem acquire_still : Still s (acquire s a key) := by
  rw [acquire]; split
  · exact .refl s
  · dsimp only; split
    · exact dropL1_still.trans scopeCheck_still
    · exact scopeCheck_still

theorem acquireHere_still : Still s (acquireHere s a) := by
  rw [acquireHere]; split
  · exact dropL1_still
  · exact .refl s

theorem fencedRead_still : Still s (fencedRead s a) := by
  rw [fencedRead]; split
  · exact dropL1_still
  · exact .refl s

/-! ### A write at the home -/

theorem markDirty_threads : (markDirty s line).warps = s.warps ∧ (markDirty s line).accesses = s.accesses := by
  rw [markDirty]; split
  · exact ⟨rfl, rfl⟩
  · split <;> exact ⟨rfl, rfl⟩

theorem foldl_markDirty_threads {ls : List Nat} :
    (ls.foldl markDirty s).warps = s.warps ∧ (ls.foldl markDirty s).accesses = s.accesses := by
  induction ls generalizing s with
  | nil => exact ⟨rfl, rfl⟩
  | cons x r ih => exact ⟨ih.1.trans markDirty_threads.1, ih.2.trans markDirty_threads.2⟩

theorem homeWrite_threads {v tkey : Nat} :
    (homeWrite s key n v tkey).warps = s.warps ∧ (homeWrite s key n v tkey).accesses = s.accesses := by
  rw [homeWrite]; split
  · exact ⟨rfl, rfl⟩
  · exact foldl_markDirty_threads

@[simp] theorem homeWrite_mem {v tkey : Nat} : (homeWrite s key n v tkey).mem = memWrite s.mem key n v := by
  rw [homeWrite]; split
  · rfl
  · simp

@[simp] theorem writeAt_mem {v tkey rel : Nat} {atomic : Bool} {who : Option (Nat × W64)} {c : Option Nat} :
    (writeAt s key n v tkey rel atomic who ag c).mem = memWrite s.mem key n v := by
  cases c <;> simp [writeAt]

theorem writeAt_threads {v tkey rel : Nat} {atomic : Bool} {who : Option (Nat × W64)} {c : Option Nat} :
    (writeAt s key n v tkey rel atomic who ag c).warps = s.warps ∧
      (writeAt s key n v tkey rel atomic who ag c).accesses = s.accesses := by
  have h := (observe_still (s := s) (key := key) (n := n) (who := who)).trans
    (noteRelease_still (key := key) (n := n) (ag := ag) (rel := rel) (atomic := atomic))
  obtain ⟨hw, ha⟩ := homeWrite_threads (s := noteRelease (observe s key n who) key n rel atomic ag) (key := key) (n := n) (v := v)
    (tkey := tkey)
  cases c <;> exact ⟨hw.trans h.warps, ha.trans h.accesses⟩

/-! ### Access by access -/

theorem finishAccess_quiet {r : Nat} : Quiet s (finishAccess s a r) := by
  rw [finishAccess]; split <;> constructor <;> rfl

theorem mem_mapIf {α : Type} {p : α → Bool} {f : α → α} {l : List α} {x : α} (hx : x ∈ l) (hp : p x = false) : x ∈ mapIf p f l :=
  List.mem_map.mpr ⟨x, hx, by simp [hp]⟩

theorem mem_finishAccess {r : Nat} {x : Access} (hx : x ∈ s.accesses) (hi : x.id ≠ a.id) : x ∈ (finishAccess s a r).accesses := by
  rw [finishAccess]; split
  · exact mem_mapIf hx (by simpa using hi)
  · exact List.mem_filter.mpr ⟨hx, by simpa using hi⟩

theorem performAccess_eq {t : State} (h : otherHalf? s a = none) (ht : performOne s a = t) : performAccess s a = t.useFree := by
  rw [performAccess, h]; exact congrArg State.useFree ht

theorem performOne_mem_loc (hl : a.loc = .mem key) (hf : failedPort? s a = none) : performOne s a = performMem s a key := by
  rw [performOne, hl]; simp only [hf]

theorem execHomeAccess_thread (h : s.accesses.find? (fun x => x.id == a.id) = some a) (hp : canPerform s a = true) :
    exec (.homeAccess (.thread a.id)) s = .next (performAccess s a) := by
  change execHomeAccess (.thread a.id) s = _
  rw [execHomeAccess]; simp only [h, hp, if_true]

/-! ### A store -/

theorem performSt_mem : (performSt s a key).mem = memWrite s.mem key a.bytes a.data.toNat := by
  simp [performSt]

theorem clobberControl_accesses : (clobberControl s a).accesses = s.accesses := by
  rw [clobberControl]; split <;> rfl

theorem clobberControl_none (h : stackOffset a.va.toNat = none) : clobberControl s a = s := by
  rw [clobberControl, h]

theorem performSt_warps (h : stackOffset a.va.toNat = none) : (performSt s a key).warps = s.warps := by
  rw [performSt, finishAccess_quiet.warps, clobberControl_none h, writeAt_threads.1, notePhys_still.warps]

theorem mem_performSt {x : Access} (hx : x ∈ s.accesses) (hi : x.id ≠ a.id) : x ∈ (performSt s a key).accesses := by
  refine mem_finishAccess ?_ hi
  rwa [clobberControl_accesses, writeAt_threads.2, notePhys_still.accesses]

/-- The state in which an access to byte storage is performed: an eviction and the traffic's charge have been made. -/
theorem charged_still : Still s (chargeOrdinary (mayEvict s key) key n) := mayEvict_still.trans chargeOrdinary_charged.still

end

end Sys2Proof.Machine

namespace Sys2Proof.Claims

open Sys2Proof.Machine

/-- Settles O15: what a store does besides its write keeps memory, the warps, and the other accesses. -/
theorem storesWriteTheirBytes : Obligations.StoresWriteTheirBytes := by
  unfold Obligations.StoresWriteTheirBytes
  intro s a key hfind hhalf hcan hport hkind hloc hinv
  have hs : Still s (chargeOrdinary (mayEvict s key) key a.bytes) := charged_still
  have he : performOne s a = performSt (chargeOrdinary (mayEvict s key) key a.bytes) a key := by
    rw [performOne_mem_loc hloc hport, performMem]; simp only [hkind]
  refine ⟨_, execHomeAccess_thread hfind hcan, ?_⟩
  rw [performAccess_eq hhalf he]
  refine ⟨fun x => ?_, fun hv => ?_, fun x hx hi => ?_⟩
  · rw [State.useFree_mem, performSt_mem, hs.mem]
    exact memGet_memWrite a.bytes key a.data.toNat x hinv
  · exact (performSt_warps hv).trans hs.warps
  · exact mem_performSt (hs.accesses ▸ hx) hi

end Sys2Proof.Claims

/-! ### What a core's L1 holds -/

namespace Sys2Proof.Machine

section
variable {s t : State} {key n core line tkey : Nat} {kind : PageKind} {P : L1Line → Prop}

theorem coreAt_modCore {c d : Nat} {f : Core → Core} (hf : ∀ x, (f x).id = x.id) :
    (s.modCore c f).coreAt d = if c = d then f (s.coreAt d) else s.coreAt d := by
  simp only [State.coreAt, State.modCore, findD, upsert]
  split
  · next hc =>
    change ((mapIf (fun x => x.id == c) f s.cores).find? _).getD _ = _
    rw [find?_mapIf_of_eq _ _ f fun x _ => by rw [hf]]
    cases hx : s.cores.find? (fun x => x.id == d) with
    | none =>
      have hne : c ≠ d := fun e => by
        subst e
        obtain ⟨x, hm, hp⟩ := List.any_eq_true.mp hc
        exact List.find?_eq_none.mp hx x hm hp
      simp [hne]
    | some x =>
      have hd : x.id = d := by simpa using List.find?_some hx
      simp only [Option.map_some, Option.getD_some, hd, beq_iff_eq]
      exact if_congr eq_comm rfl rfl
  · next hc =>
    have hnone : ∀ x ∈ s.cores, ¬ (x.id == c) = true := fun x hm hp => hc (List.any_eq_true.mpr ⟨x, hm, hp⟩)
    have hid : (f (blankCore c)).id = c := hf _
    rw [List.find?_append]
    by_cases e : c = d
    · subst e
      rw [List.find?_eq_none.mpr hnone]
      simp [hid]
    · simp [hid, e]

theorem l1_modCore_filter {c d : Nat} {p : L1Line → Bool} :
    ((s.modCore c fun x => { x with l1 := x.l1.filter p }).coreAt d).l1 = if c = d then (s.coreAt d).l1.filter p else (s.coreAt d).l1 := by
  rw [coreAt_modCore]
  · split <;> rfl
  · exact fun _ => rfl

/-- Every line that the L1 of a core holds is of a kind. -/
def HoldsOnly (s : State) (core : Nat) (P : L1Line → Prop) : Prop := ∀ e ∈ (s.coreAt core).l1, P e

theorem HoldsOnly.of_cores (h : HoldsOnly s core P) (e : t.cores = s.cores) : HoldsOnly t core P := by
  unfold HoldsOnly State.coreAt; rw [e]; exact h

theorem HoldsOnly.filterL1 {c : Nat} {p : L1Line → Bool} (h : HoldsOnly s core P) :
    HoldsOnly (s.modCore c fun x => { x with l1 := x.l1.filter p }) core P := by
  intro e he
  rw [l1_modCore_filter] at he
  split at he
  · exact h e (List.mem_filter.mp he).1
  · exact h e he

theorem holdsOnly_dropL1 : HoldsOnly (dropL1 s core) core (·.kind = .S) := by
  intro e he
  rw [dropL1, l1_modCore_filter, if_pos rfl] at he
  simpa using (List.mem_filter.mp he).2

theorem scopeCheck_cores {scope : Nat} {ag : Agent} : (scopeCheck s key n scope ag).cores = s.cores := by
  have hs {s : State} {x bit : Nat} : (s.setSticky x bit).cores = s.cores := by rw [State.setSticky]; split <;> rfl
  rw [scopeCheck]
  generalize s.releases.filter _ = rs
  induction rs generalizing s with
  | nil => rfl
  | cons r rs ih =>
    rw [List.foldl_cons, ih]
    dsimp only
    split <;> split <;> simp [hs]

theorem modTent_l1 {f : Nat → List TentEntry → List TentEntry} : ((modTent s f).coreAt core).l1 = (s.coreAt core).l1 := by
  simp only [State.coreAt, modTent, findD]
  rw [find?_map_of_eq]
  · cases s.cores.find? (fun x => x.id == core) <;> rfl
  · exact fun _ => rfl

theorem mayEvict_l1 : ((mayEvict s key).coreAt core).l1 = (s.coreAt core).l1 := by
  rw [mayEvict]; split
  · rfl
  · exact modTent_l1

theorem Charged.cores (h : Charged s t) : t.cores = s.cores := by rw [h]

theorem Charged.tentWords (h : Charged s t) : t.tentWords = s.tentWords := by rw [h]

/-! ### Tentative lines -/

theorem mem_of_mem_distinct {α : Type} [BEq α] {l : List α} {x : α} (h : x ∈ distinct l) : x ∈ l := by
  have hf : ∀ (r a : List α), x ∈ r.foldl (fun a y => if a.contains y then a else a ++ [y]) a → x ∈ a ∨ x ∈ r := by
    intro r
    induction r with
    | nil => exact fun _ h => .inl h
    | cons y r ih =>
      intro a hx
      rcases ih _ hx with hx | hx
      · dsimp only at hx
        split at hx
        · exact .inl hx
        · simp only [List.mem_append, List.mem_singleton] at hx
          exact hx.imp_right fun (e : x = y) => e ▸ .head r
      · exact .inr (.tail y hx)
  exact (hf l [] h).resolve_left List.not_mem_nil

theorem evictLine_tentLine {other : Nat} (h : other ≠ line) : tentLine (evictLine s other) line = tentLine s line := by
  simp only [tentLine, evictLine, modTent, List.any_filter]
  congr 1
  funext t
  by_cases e : lineOf t.key = line
  · simp [e, Ne.symm h]
  · simp [e]

/-- An eviction takes no words of the line that is accessed. -/
theorem mayEvict_tentLine : tentLine (mayEvict s key) (lineOf key) = tentLine s (lineOf key) := by
  rw [mayEvict]; split
  · rfl
  · next h =>
    refine evictLine_tentLine ?_
    simp only [Bool.or_eq_true, not_or] at h
    obtain ⟨⟨-, hne⟩, -⟩ := h
    have hpos := List.length_pos_iff.mpr (by simpa using hne)
    have hm := mem_of_mem_distinct (List.getElem_mem (Nat.mod_lt (Config.freeNat s.free (key + 6)) hpos))
    rw [List.getD_eq_getElem _ _ (Nat.mod_lt _ hpos)]
    obtain ⟨-, hl⟩ := List.mem_filter.mp hm
    simp only [Bool.and_eq_true, bne_iff_ne] at hl
    exact hl.1

theorem observe_tentLine {who : Option (Nat × W64)} : tentLine (observe s key n who) line = tentLine s line := by
  simp only [tentLine, observe, mapIf, List.any_map]
  congr 1
  funext t
  simp only [Function.comp_apply]
  split <;> rfl

/-! ### What a read returns -/

theorem anyForeign_congr (h : Quiet s t) : anyForeign t key n tkey = anyForeign s key n tkey := by
  simp only [anyForeign, foreignKey, foreignIn, h.scrambled, h.keyTags, h.keyGens]

theorem homeRead_plain (h : anyForeign s key n tkey = false) : homeRead s key n tkey = memRead s.mem key n := by
  rw [homeRead, h]; rfl

theorem anyForeign_scratch (h : isScratchKey key = true) : anyForeign s key n tkey = false := by
  rw [anyForeign, h]; rfl

theorem sum_bytes {m : Memory} : sumN ((List.range n).map fun i => (memGet m (key + i)).toNat * 256 ^ i) = memRead m key n := by
  rw [sumN, ← List.sum_eq_foldl]
  induction n generalizing key with
  | zero => rfl
  | succ n ih =>
    rw [memRead, ← ih, List.range_succ_eq_map, List.map_cons, List.sum_cons, List.map_map, ← List.sum_map_mul_left]
    congr 1
    · simp
    · congr 1
      refine List.map_congr_left fun i _ => ?_
      simp only [Function.comp_apply, Nat.succ_eq_add_one, Nat.pow_succ]
      rw [show key + (i + 1) = key + 1 + i by omega]
      ring

theorem lineRead_plain {e : L1Line} (h : ∀ i < n, foreignIn s e.tags (key + i) tkey = false) :
    lineRead s e key n tkey = memRead e.bytes key n := by
  rw [lineRead, ← sum_bytes]
  congr 1
  refine List.map_congr_left fun i hi => ?_
  rw [h i (List.mem_range.mp hi)]; rfl

end

/-! ### Accesses that end one after another -/

section
open Sys2Proof.Claims
variable {s : State} {f : State → Access → State} {v : Access → Nat} {l : List Access} {x a : Access}

/-- A step that ends one access with its result, and no other. -/
def Ends (f : State → Access → State) (v : Access → Nat) : Prop := ∀ s b, (f s b).accesses = (finishAccess s b (v b)).accesses

theorem finishAccess_accesses {r : Nat} : (finishAccess s a r).accesses =
    if a.flag.isSome then mapIf (fun b => b.id == a.id) (fun b => { b with st := .performed, result := BitVec.ofNat 128 r }) s.accesses
    else s.accesses.filter fun b => b.id != a.id := by
  rw [finishAccess]; split <;> rfl

/-- An access after the end of another: as before, or ended with the result. -/
theorem of_mem_finishAccess {r : Nat} (h : x ∈ (finishAccess s a r).accesses) :
    (x ∈ s.accesses ∧ x.id ≠ a.id) ∨ (x.id = a.id ∧ x.st = .performed) := by
  rw [finishAccess_accesses] at h
  split at h
  · obtain ⟨y, hy, rfl⟩ := List.mem_map.mp h
    split
    · next e => exact .inr ⟨by simpa using e, rfl⟩
    · next e => exact .inl ⟨hy, by simpa using e⟩
  · obtain ⟨hy, hi⟩ := List.mem_filter.mp h
    exact .inl ⟨hy, by simpa using hi⟩

theorem answers_finishAccess {r : Nat} (hf : a.flag.isSome = true) (hx : ∃ y ∈ s.accesses, y.id = a.id) :
    Answers (finishAccess s a r) a r := by
  obtain ⟨y, hy, hi⟩ := hx
  refine ⟨{ y with st := .performed, result := BitVec.ofNat 128 r }, ?_, hi, rfl, rfl⟩
  rw [finishAccess_accesses, if_pos hf]
  exact List.mem_map.mpr ⟨y, hy, by simp [hi]⟩

theorem kept_foldl (hf : ∀ s b x, x ∈ s.accesses → x.id ≠ b.id → x ∈ (f s b).accesses) (hx : x ∈ s.accesses)
    (hi : ∀ b ∈ l, x.id ≠ b.id) : x ∈ (l.foldl f s).accesses := by
  induction l generalizing s with
  | nil => exact hx
  | cons b r ih => exact ih (hf s b x hx (hi b (.head r))) fun c hc => hi c (.tail b hc)

theorem Ends.spares (h : Ends f v) : ∀ s b x, x ∈ s.accesses → x.id ≠ b.id → x ∈ (f s b).accesses := fun s b _ hx hi =>
  h s b ▸ mem_finishAccess hx hi

theorem Ends.kept (h : Ends f v) (hx : x ∈ s.accesses) (hi : ∀ b ∈ l, x.id ≠ b.id) : x ∈ (l.foldl f s).accesses :=
  kept_foldl h.spares hx hi

/-- What stands after the steps and is none of their accesses stood before. -/
theorem Ends.old (h : Ends f v) (hx : x ∈ (l.foldl f s).accesses) (hi : ∀ b ∈ l, x.id ≠ b.id) : x ∈ s.accesses := by
  induction l generalizing s with
  | nil => exact hx
  | cons b r ih =>
    have hm := ih hx fun c hc => hi c (.tail b hc)
    rw [h] at hm
    exact ((of_mem_finishAccess hm).resolve_right fun e => hi b (.head r) e.1).1

/-- What a step has ended stays ended. -/
theorem Ends.stays (h : Ends f v) {i : Nat} (hp : ∀ x ∈ s.accesses, x.id = i → x.st = .performed) :
    ∀ x ∈ (l.foldl f s).accesses, x.id = i → x.st = .performed := by
  induction l generalizing s with
  | nil => exact hp
  | cons b r ih =>
    refine ih fun x hx hi => ?_
    rw [h] at hx
    exact (of_mem_finishAccess hx).elim (fun e => hp x e.1 hi) (·.2)

theorem Ends.performed (h : Ends f v) (ha : a ∈ l) : ∀ x ∈ (l.foldl f s).accesses, x.id = a.id → x.st = .performed := by
  induction l generalizing s with
  | nil => exact absurd ha List.not_mem_nil
  | cons b r ih =>
    rcases List.mem_cons.mp ha with rfl | ha
    · refine h.stays (s := f s a) fun x hx hi => ?_
      rw [h] at hx
      exact (of_mem_finishAccess hx).elim (fun e => absurd hi e.2) (·.2)
    · exact ih ha

/-- A flagged access among them, the only one of its number, is answered. -/
theorem Ends.answers (h : Ends f v) (ha : a ∈ l) (hf : a.flag.isSome = true) (hs : ∃ y ∈ s.accesses, y.id = a.id)
    (hu : ∀ b ∈ l, b.id = a.id → b = a) : Answers (l.foldl f s) a (v a) := by
  induction l generalizing s with
  | nil => exact absurd ha List.not_mem_nil
  | cons b r ih =>
    have hr : ∀ c ∈ r, c.id = a.id → c = a := fun c hc => hu c (.tail b hc)
    by_cases har : a ∈ r
    · refine ih har ?_ hr
      by_cases e : b.id = a.id
      · obtain rfl := hu b (.head r) e
        obtain ⟨y, hy, hi, -, -⟩ := answers_finishAccess (r := v b) hf hs
        exact ⟨y, h s b ▸ hy, hi⟩
      · obtain ⟨y, hy, hi⟩ := hs
        exact ⟨y, h.spares s b y hy fun e' => e (e'.symm.trans hi), hi⟩
    · obtain rfl : a = b := (List.mem_cons.mp ha).resolve_right har
      obtain ⟨y, hy, hi, hp⟩ := answers_finishAccess (r := v a) hf hs
      refine ⟨y, h.kept (s := f s a) (l := r) (by rwa [h]) fun c hc e => ?_, hi, hp⟩
      exact har (hr c hc (e.symm.trans hi) ▸ hc)

end

/-! ### A load -/

section
variable {s t u : State} {a b h : Access} {key v : Nat}

theorem sameLoads_ld (hk : a.kind = .ld) :
    sameLoads s a = s.accesses.filter fun b => b.grp == a.grp && b.loc == a.loc && b.bytes == a.bytes && b.st == a.st := by
  rw [sameLoads, hk]; rfl

theorem sameLoads_congr (e : t.accesses = s.accesses) : sameLoads t a = sameLoads s a := by
  rw [sameLoads, sameLoads, e]

theorem of_mem_sameLoads (hk : a.kind = .ld) (hb : b ∈ sameLoads s a) : b ∈ s.accesses ∧ b.loc = a.loc ∧ b.st = a.st := by
  rw [sameLoads_ld hk] at hb
  obtain ⟨hm, he⟩ := List.mem_filter.mp hb
  simp only [Bool.and_eq_true, beq_iff_eq] at he
  exact ⟨hm, he.1.1.2, he.2⟩

theorem mem_sameLoads_self (hk : a.kind = .ld) (ha : a ∈ s.accesses) : a ∈ sameLoads s a := by
  rw [sameLoads_ld hk]
  exact List.mem_filter.mpr ⟨ha, by simp⟩

theorem hideControl_congr (h : Quiet s t) : hideControl t a v = hideControl s a v := by
  have hl : t.laneAt a.w a.lane = s.laneAt a.w a.lane := by simp only [State.laneAt, State.warpAt, State.warpAt?, h.warps]
  rw [hideControl, hideControl, hl, h.free]

/-- The state in which a load reads: the tentative words that it reads are marked, and an acquire has been made. -/
def loadBase (s : State) (a : Access) (key : Nat) : State :=
  let s := acquire (observe s key a.bytes a.who) a key
  if a.sem.getLsbD 0 then dropHere s a.w.core (lineOf key) else s

/-- What a load reads, and the state after the read. -/
def loadRead (s : State) (a : Access) (key : Nat) : State × Nat :=
  readThrough (loadBase s a key) a.w.core key a.bytes a.tkey a.page

/-- The end of one load of a word that a value answers; the control entries of its thread are looked up in `u`. -/
def loadEnd (a : Access) (key : Nat) (u : State) (v : Nat) (s : State) (b : Access) : State :=
  finishAccess (if b.id == a.id then s else fencedRead (acquire (observe s key b.bytes b.who) b key) b) b (hideControl u b v)

theorem loadBase_still : Still s (loadBase s a key) := by
  have ho := (observe_still (s := s) (key := key) (n := a.bytes) (who := a.who)).trans (acquire_still (a := a) (key := key))
  rw [loadBase]; split
  · exact ho.trans dropHere_still
  · exact ho

theorem loadRead_still : Still s (loadRead s a key).1 := loadBase_still.trans readThrough_still

theorem loadEnd_ends : Ends (loadEnd a key u v) fun b => hideControl u b v := by
  intro s b
  rw [loadEnd]; split
  · rfl
  · rw [finishAccess_accesses, finishAccess_accesses,
      ((observe_still.trans acquire_still).trans fencedRead_still).accesses]

theorem loadEnd_quiet : Quiet s (loadEnd a key u v s b) := by
  rw [loadEnd]; split
  · exact finishAccess_quiet
  · exact ((observe_still.trans acquire_still).trans fencedRead_still).toQuiet.trans finishAccess_quiet

/-- The bytes that control entries hide are hidden in every state of the fold as in the first. -/
theorem foldl_loadEnd (hq : Quiet u s) {l : List Access} :
    l.foldl (fun s b => loadEnd a key s v s b) s = l.foldl (loadEnd a key u v) s := by
  induction l generalizing s with
  | nil => rfl
  | cons b r ih =>
    have he : loadEnd a key s v s b = loadEnd a key u v s b := by rw [loadEnd, loadEnd, hideControl_congr hq]
    rw [List.foldl_cons, List.foldl_cons, he]
    exact ih (hq.trans loadEnd_quiet)

theorem performLd_eq : performLd s a key =
    (sameLoads s a).foldl (loadEnd a key (fencedRead (loadRead s a key).1 a) (loadRead s a key).2) (fencedRead (loadRead s a key).1 a) := by
  have hs : Still s (fencedRead (loadRead s a key).1 a) := loadRead_still.trans fencedRead_still
  rw [← foldl_loadEnd (.refl _), ← sameLoads_congr hs.accesses]
  rfl

theorem performLd_quiet : Quiet s (performLd s a key) := by
  rw [performLd_eq]
  exact (loadRead_still.trans fencedRead_still).toQuiet.trans (quiet_foldl (fun _ _ => loadEnd_quiet) _ _)

/-! ### The bytes that a load returns -/

/-- The bytes of a load (R162, R165). -/
def loadBytes (s : State) (a : Access) (key : Nat) : Nat :=
  if isScratchKey key = true ∨ a.sem.getLsbD 0 = true then memRead s.mem key a.bytes
  else match l1Find s a.w.core (lineOf key) a.page with
    | some e => if tentLine s (lineOf key) then memRead s.mem key a.bytes else memRead e.bytes key a.bytes
    | none => memRead s.mem key a.bytes

/-- No byte that the core's L1 holds of the line reads as an unspecified value. -/
def LinesReadable (s : State) (a : Access) (key : Nat) : Prop :=
  ∀ e ∈ (s.coreAt a.w.core).l1, e.line = lineOf key → ∀ i < a.bytes, foreignIn s e.tags (key + i) a.tkey = false

theorem l1Find_congr {core line : Nat} {kind : PageKind} (hl : (t.coreAt core).l1 = (s.coreAt core).l1) (hc : t.clk = s.clk) :
    l1Find t core line kind = l1Find s core line kind := by
  rw [l1Find, l1Find, hl, hc]

theorem l1Find_dropHere {core line : Nat} {kind : PageKind} : l1Find (dropHere s core line) core line kind = none := by
  rw [l1Find, dropHere, l1_modCore_filter, if_pos rfl]
  refine List.find?_eq_none.mpr fun e he => ?_
  have := (List.mem_filter.mp he).2
  simp_all

theorem of_l1Find {core line : Nat} {kind : PageKind} {e : L1Line} (he : l1Find s core line kind = some e) :
    e ∈ (s.coreAt core).l1 ∧ e.line = line := by
  have hp := List.find?_some he
  simp only [Bool.and_eq_true, beq_iff_eq] at hp
  exact ⟨List.mem_of_find?_eq_some he, hp.1.1⟩

/-- Where the L1 holds no line, or a tentative one, a load reads the home. -/
theorem readThrough_home {core n tkey : Nat} {kind : PageKind} (ha : anyForeign s key n tkey = false)
    (hl : isScratchKey key = true ∨ l1Find s core (lineOf key) kind = none ∨ tentLine s (lineOf key) = true) :
    (readThrough s core key n tkey kind).2 = memRead s.mem key n := by
  rw [← homeRead_plain ha, readThrough]
  split
  · rfl
  · next hs =>
    split
    · next he =>
      have ht : tentLine s (lineOf key) = true := by simpa [hs, he] using hl
      rw [if_pos ht]
    · rfl

theorem readThrough_line {core n tkey : Nat} {kind : PageKind} {e : L1Line} (hs : isScratchKey key = false)
    (he : l1Find s core (lineOf key) kind = some e) (ht : tentLine s (lineOf key) = false)
    (hf : ∀ i < n, foreignIn s e.tags (key + i) tkey = false) : (readThrough s core key n tkey kind).2 = memRead e.bytes key n := by
  rw [readThrough, hs]; simp [he, ht, lineRead_plain hf]

theorem loadRead_value (ha : anyForeign s key a.bytes a.tkey = false)
    (hl : isScratchKey key = false → LinesReadable s a key) :
    (loadRead s a key).2 = loadBytes s a key := by
  have hb : Still s (loadBase s a key) := loadBase_still
  have ha' := (anyForeign_congr hb.toQuiet).trans ha
  rw [loadRead, loadBytes]
  by_cases hs : isScratchKey key = true
  · rw [if_pos (.inl hs), readThrough_home ha' (.inl hs), hb.mem]
  · by_cases hq : a.sem.getLsbD 0 = true
    · rw [if_pos (.inr hq), readThrough_home ha' (.inr (.inl ?_)), hb.mem]
      rw [loadBase, if_pos hq]; exact l1Find_dropHere
    · have hbase : loadBase s a key = observe s key a.bytes a.who := by
        rw [loadBase, if_neg hq, acquire, Bool.eq_false_iff.mpr hq]; rfl
      have hfind : l1Find (loadBase s a key) a.w.core (lineOf key) a.page = l1Find s a.w.core (lineOf key) a.page := by rw [hbase]; rfl
      have htent : tentLine (loadBase s a key) (lineOf key) = tentLine s (lineOf key) := by rw [hbase, observe_tentLine]
      rw [if_neg (not_or.mpr ⟨hs, hq⟩)]
      split
      · next e he =>
        obtain ⟨hm, hline⟩ := of_l1Find he
        split
        · next ht => rw [readThrough_home ha' (.inr (.inr (htent.trans ht))), hb.mem]
        · next ht =>
          refine readThrough_line (by simpa using hs) (hfind.trans he) (htent.trans (by simpa using ht)) fun i hi => ?_
          rw [hbase]; exact hl (by simpa using hs) e hm hline i hi
      · next he => rw [readThrough_home ha' (.inr (.inl (hfind.trans he))), hb.mem]

theorem charged_l1 {n core : Nat} : ((chargeOrdinary (mayEvict s key) key n).coreAt core).l1 = (s.coreAt core).l1 := by
  rw [State.coreAt, chargeOrdinary_charged.cores]; exact mayEvict_l1

theorem charged_loadBytes {n : Nat} : loadBytes (chargeOrdinary (mayEvict s key) key n) a key = loadBytes s a key := by
  have hs : Still s (chargeOrdinary (mayEvict s key) key n) := charged_still
  have ht : tentLine (chargeOrdinary (mayEvict s key) key n) (lineOf key) = tentLine s (lineOf key) := by
    rw [tentLine, chargeOrdinary_charged.tentWords]; exact mayEvict_tentLine
  rw [loadBytes, loadBytes, l1Find_congr charged_l1 hs.clk, hs.mem, ht]

/-! ### One access of a load, wherever it goes -/

theorem failedPort?_congr (hq : Quiet s t) : failedPort? t a = failedPort? s a := by
  rw [failedPort?, failedPort?, hq.cxlDown, hq.cxlPoison]

theorem performOne_ld (hk : a.kind = .ld) (hl : a.loc = .mem key) (hf : failedPort? s a = none) :
    performOne s a = performLd (chargeOrdinary (mayEvict s key) key a.bytes) a key := by
  rw [performOne_mem_loc hl hf, performMem]; simp only [hk]

/-- The end of one load of a core's window. -/
def windowEnd (v : Nat) (s : State) (b : Access) : State := finishAccess (fencedRead (acquireHere s b) b) b v

theorem windowEnd_ends : Ends (windowEnd v) fun _ => v := by
  intro s b
  rw [windowEnd, finishAccess_accesses, finishAccess_accesses, (acquireHere_still.trans fencedRead_still).accesses]

theorem performWindow_ld {core off : Nat} (hk : a.kind = .ld) :
    performWindow s a core off = (sameLoads s a).foldl (windowEnd (winLoad s core off a.bytes)) s := by
  rw [performWindow, hk]; rfl

theorem performWindow_quiet {core off : Nat} (hk : a.kind = .ld) : Quiet s (performWindow s a core off) := by
  rw [performWindow_ld hk]
  exact quiet_foldl (fun _ _ => (acquireHere_still.trans fencedRead_still).toQuiet.trans finishAccess_quiet) _ _

theorem sendRemote_still {x : Nat} {r : OutReq} : Still s (sendRemote s x r) := by repeat' constructor

theorem modAccess_quiet {id : Nat} {f : Access → Access} : Quiet s (s.modAccess id f) := by constructor <;> rfl

theorem sendAccess_quiet : Quiet s (sendAccess s a) :=
  (quiet_foldl (fun _ _ => modAccess_quiet) _ _).trans sendRemote_still.toQuiet

theorem mem_sendAccess {x : Access} (hx : x ∈ s.accesses) (hi : ∀ b ∈ sameLoads s a, x.id ≠ b.id) : x ∈ (sendAccess s a).accesses := by
  rw [sendAccess, sendRemote_still.accesses]
  exact kept_foldl (fun _ _ _ hx hb => mem_mapIf hx (by simpa using hb)) hx hi

theorem performOne_quiet (hk : a.kind = .ld) (hf : failedPort? s a = none) : Quiet s (performOne s a) := by
  cases hl : a.loc with
  | mem key => rw [performOne_ld hk hl hf]; exact charged_still.toQuiet.trans performLd_quiet
  | window core off => rw [performOne, hl]; exact performWindow_quiet hk
  | remote r v => rw [performOne, hl]; exact sendAccess_quiet
  | desc x i => rw [performOne, hl]; exact modCtx_still.toQuiet.trans finishAccess_quiet

/-- A load leaves every access but itself and those that share its value. -/
theorem mem_performOne (hk : a.kind = .ld) (hf : failedPort? s a = none) {x : Access} (hx : x ∈ s.accesses)
    (hi : ∀ b ∈ sameLoads s a, x.id ≠ b.id) (hd : ∀ c i, a.loc = .desc c i → x.id ≠ a.id) : x ∈ (performOne s a).accesses := by
  cases hl : a.loc with
  | mem key =>
    have hs : Still s (chargeOrdinary (mayEvict s key) key a.bytes) := charged_still
    rw [performOne_ld hk hl hf, performLd_eq, sameLoads_congr hs.accesses]
    refine loadEnd_ends.kept ?_ hi
    rwa [(hs.trans (loadRead_still.trans fencedRead_still)).accesses]
  | window core off =>
    rw [performOne, hl]
    dsimp only
    rw [performWindow_ld hk]
    exact windowEnd_ends.kept hx hi
  | remote r v =>
    rw [performOne, hl]
    exact mem_sendAccess hx hi
  | desc c i =>
    rw [performOne, hl]
    exact mem_finishAccess hx (hd c i hl)

/-! ### The L1 after an acquire -/

theorem mem_of_mem_dropFull {free line : Nat} {l : List L1Line} {e : L1Line} (h : e ∈ dropFull free line l) : e ∈ l := by
  rw [dropFull] at h; split at h
  · exact h
  · exact List.mem_of_mem_eraseIdx h

section
variable {core line : Nat} {P : L1Line → Prop}

theorem HoldsOnly.fillL1 {kind : PageKind} (h : HoldsOnly s core P) (hP : ∀ e : L1Line, e.line = line → P e) {c : Nat} :
    HoldsOnly (fillL1 s c line kind) core P := by
  rw [Machine.fillL1]; split
  · exact h
  · intro e he
    rw [coreAt_modCore] at he
    · split at he
      · rcases List.mem_append.mp he with he | he
        · exact h e (List.mem_filter.mp (mem_of_mem_dropFull he)).1
        · exact hP e (by rw [List.mem_singleton.mp he])
      · exact h e he
    · exact fun _ => rfl

theorem HoldsOnly.acquire (h : HoldsOnly s core P) : HoldsOnly (acquire s a key) core P := by
  rw [Machine.acquire]; split
  · exact h
  · dsimp only; split
    · exact HoldsOnly.of_cores h.filterL1 scopeCheck_cores
    · exact h.of_cores scopeCheck_cores

theorem HoldsOnly.fencedRead (h : HoldsOnly s core P) : HoldsOnly (fencedRead s a) core P := by
  rw [Machine.fencedRead]; split
  · exact h.filterL1
  · exact h

theorem HoldsOnly.finishAccess {r : Nat} (h : HoldsOnly s core P) : HoldsOnly (finishAccess s a r) core P := by
  rw [Machine.finishAccess]; split
  · exact h.of_cores rfl
  · exact h.of_cores rfl

theorem HoldsOnly.loadEnd (h : HoldsOnly s core P) : HoldsOnly (loadEnd a key u v s b) core P := by
  rw [Machine.loadEnd]; split
  · exact h.finishAccess
  · exact HoldsOnly.finishAccess (HoldsOnly.fencedRead (HoldsOnly.acquire (h.of_cores rfl)))

theorem HoldsOnly.foldl_loadEnd {l : List Access} (h : HoldsOnly s core P) : HoldsOnly (l.foldl (Machine.loadEnd a key u v) s) core P := by
  induction l generalizing s with
  | nil => exact h
  | cons b r ih => exact ih h.loadEnd

end

/-- After an acquire of .cl or wider the L1 holds S lines, and the line that the load filled (R162). -/
theorem holdsOnly_performLd (hq : a.sem.getLsbD 0 = true) (hp : a.page ≠ .U) (hs : 2 ≤ a.scope.toNat) :
    HoldsOnly (performLd s a key) a.w.core fun e => e.kind = .S ∨ e.line = lineOf key := by
  have hacq : HoldsOnly (acquire (observe s key a.bytes a.who) a key) a.w.core fun e => e.kind = .S ∨ e.line = lineOf key := by
    rw [acquire, if_neg (by simp [hq, hp])]
    dsimp only
    rw [if_pos hs]
    exact HoldsOnly.of_cores (fun e he => .inl (holdsOnly_dropL1 e he)) scopeCheck_cores
  have hbase : HoldsOnly (loadBase s a key) a.w.core fun e => e.kind = .S ∨ e.line = lineOf key := by
    rw [loadBase, if_pos hq]; exact hacq.filterL1
  have hread : HoldsOnly (loadRead s a key).1 a.w.core fun e => e.kind = .S ∨ e.line = lineOf key := by
    rw [loadRead, readThrough]; split
    · exact hbase
    · split
      · split <;> exact hbase
      · exact hbase.fillL1 fun e he => .inr he
  rw [performLd_eq]
  exact hread.fencedRead.foldl_loadEnd

end

end Sys2Proof.Machine

namespace Sys2Proof.Machine

section
open Sys2Proof.Claims
variable {s t : State} {a b h : Access} {key : Nat}

theorem otherHalf?_some (ho : otherHalf? s a = some h) : h ∈ s.accesses ∧ h.st = .pending := by
  rw [otherHalf?] at ho; split at ho
  · have hp := List.find?_some ho
    simp only [Bool.and_eq_true, beq_iff_eq] at hp
    exact ⟨List.mem_of_find?_eq_some ho, hp.1.2⟩
  · cases ho

/-- The accesses that a load of byte storage leaves: those of the loads that share its value are ended. -/
theorem performOne_performed (hk : a.kind = .ld) (hl : a.loc = .mem key) (hf : failedPort? s a = none) (hb : b ∈ sameLoads s a) :
    ∀ x ∈ (performOne s a).accesses, x.id = b.id → x.st = .performed := by
  have hs : Still s (chargeOrdinary (mayEvict s key) key a.bytes) := charged_still
  rw [performOne_ld hk hl hf, performLd_eq, sameLoads_congr hs.accesses]
  exact loadEnd_ends.performed hb

theorem performOne_old (hk : a.kind = .ld) (hl : a.loc = .mem key) (hf : failedPort? s a = none) {x : Access}
    (hx : x ∈ (performOne s a).accesses) (hi : ∀ b ∈ sameLoads s a, x.id ≠ b.id) : x ∈ s.accesses := by
  have hs : Still s (chargeOrdinary (mayEvict s key) key a.bytes) := charged_still
  rw [performOne_ld hk hl hf, performLd_eq, sameLoads_congr hs.accesses] at hx
  have := loadEnd_ends.old hx hi
  rwa [(hs.trans (loadRead_still.trans fencedRead_still)).accesses] at this

/-- Every flagged load that shares the value of a load is answered with its bytes. -/
theorem performOne_answers (hk : a.kind = .ld) (hl : a.loc = .mem key) (hf : failedPort? s a = none)
    (ha : anyForeign s key a.bytes a.tkey = false)
    (hline : isScratchKey key = false → LinesReadable s a key)
    (hb : b ∈ sameLoads s a) (hflag : b.flag.isSome = true) (hu : ∀ x ∈ s.accesses, x.id = b.id → x = b) :
    Answers (performOne s a) b (hideControl s b (loadBytes s a key)) := by
  have hs : Still s (chargeOrdinary (mayEvict s key) key a.bytes) := charged_still
  have hr := loadRead_still (s := chargeOrdinary (mayEvict s key) key a.bytes) (a := a) (key := key)
  have hq : Still s (fencedRead (loadRead (chargeOrdinary (mayEvict s key) key a.bytes) a key).1 a) := (hs.trans hr).trans fencedRead_still
  have hv : (loadRead (chargeOrdinary (mayEvict s key) key a.bytes) a key).2 = loadBytes s a key := by
    rw [loadRead_value, charged_loadBytes]
    · rw [anyForeign_congr hs.toQuiet, ha]
    · intro hsc e he hel i hi
      rw [charged_l1] at he
      rw [← hline hsc e he hel i hi]
      simp only [foreignIn, hs.scrambled, hs.keyGens]
  rw [performOne_ld hk hl hf, performLd_eq, sameLoads_congr hs.accesses, hv]
  have hm : ∀ x ∈ sameLoads s a, x ∈ s.accesses := fun x hx => (of_mem_sameLoads hk hx).1
  have := (loadEnd_ends (a := a) (key := key) (u := fencedRead (loadRead (chargeOrdinary (mayEvict s key) key a.bytes) a key).1 a)
    (v := loadBytes s a key)).answers (s := fencedRead (loadRead (chargeOrdinary (mayEvict s key) key a.bytes) a key).1 a)
    hb hflag ⟨b, hq.accesses ▸ hm b hb, rfl⟩ fun x hx => hu x (hm x hx)
  rwa [hideControl_congr hq.toQuiet] at this

/-- A flagged load whose own place is in scratch is answered with memory's bytes. -/
theorem loadBytes_scratch (hs : isScratchKey key = true) : loadBytes s a key = memRead s.mem key a.bytes := by
  rw [loadBytes, if_pos (.inl hs)]

theorem performAccess_some (ho : otherHalf? s a = some h) : performAccess s a = (performOne (performOne s a) h).useFree := by
  rw [performAccess, ho]

end

end Sys2Proof.Machine

namespace Sys2Proof.Claims

open Sys2Proof.Machine

section
variable {s : State} {a b h : Access} {key : Nat}

/-- What the other half of a load does leaves the loads that have been answered. -/
theorem answers_otherHalf {v : Nat} (hk : a.kind = .ld) (hl : a.loc = .mem key) (hf : failedPort? s a = none)
    (ho : otherHalf? s a = some h) (hkh : h.kind = .ld) (hfh : failedPort? (performOne s a) h = none) (hb : b ∈ sameLoads s a)
    (hu : ∀ x ∈ s.accesses, x.id = b.id → x = b) (hv : Answers (performOne s a) b v) :
    Answers (performOne (performOne s a) h) b v := by
  obtain ⟨y, hy, hi, hst, hres⟩ := hv
  obtain ⟨hmem, hpend⟩ := otherHalf?_some ho
  refine ⟨y, mem_performOne hkh hfh hy (fun c hc e => ?_) (fun x i hd e => ?_), hi, hst, hres⟩
  · obtain ⟨hcm, -, hcs⟩ := of_mem_sameLoads hkh hc
    have := performOne_performed hk hl hf hb c hcm (e.symm.trans hi)
    rw [hcs, hpend] at this
    cases this
  · have hbl := (of_mem_sameLoads hk hb).2.1
    rw [← hu h hmem (e.symm.trans hi), hd, hl] at hbl
    cases hbl

/-- The other half of a 16-byte load of scratch is answered too. -/
theorem otherHalf_answers {key2 : Nat} (hk : a.kind = .ld) (hl : a.loc = .mem key) (hf : failedPort? s a = none)
    (ho : otherHalf? s a = some h) (hkh : h.kind = .ld) (hfh : failedPort? (performOne s a) h = none) (hlh : h.loc = .mem key2)
    (hflag : h.flag.isSome = true) (hs : isScratchKey key2 = true) (hu : ∀ x ∈ s.accesses, x.id = h.id → x = h)
    (hne : ∀ b ∈ sameLoads s a, b.loc ≠ h.loc) :
    Answers (performOne (performOne s a) h) h (hideControl s h (memRead s.mem key2 h.bytes)) := by
  have hq : Quiet s (performOne s a) := performOne_quiet hk hf
  have hid : ∀ b ∈ sameLoads s a, h.id ≠ b.id := fun b hb e =>
    hne b hb (congrArg Access.loc (hu b (of_mem_sameLoads hk hb).1 e.symm))
  have hmem : h ∈ (performOne s a).accesses :=
    mem_performOne hk hf (otherHalf?_some ho).1 hid fun x i hd => by rw [hl] at hd; cases hd
  have := performOne_answers hkh hlh hfh (anyForeign_scratch hs) (fun e => absurd hs (by simp [e])) (mem_sameLoads_self hkh hmem) hflag
    fun x hx e => hu x (performOne_old hk hl hf hx fun b hb e' => hid b hb (e.symm.trans e')) e
  rwa [loadBytes_scratch hs, hq.mem, hideControl_congr hq] at this

end

/-- Settles O14: the loads that share a value end one after another with the bytes that the first has read, and the other half of an
access to scratch, performed behind them, leaves them ended. -/
theorem loadsReadTheirBytes : Obligations.LoadsReadTheirBytes := by
  unfold Obligations.LoadsReadTheirBytes
  intro s a key hfind hcan hf hk hl hfor hother hline bytes
  have hq : Quiet s (performOne s a) := performOne_quiet hk hf
  have hkept : ∀ x ∈ s.accesses, (∀ b ∈ sameLoads s a, x.id ≠ b.id) → x ∈ (performOne s a).accesses := fun x hx hi =>
    mem_performOne hk hf hx hi fun c i hd => by rw [hl] at hd; cases hd
  have hans : ∀ b ∈ sameLoads s a, b.flag.isSome = true → (∀ x ∈ s.accesses, x.id = b.id → x = b) →
      Answers (performOne s a) b (hideControl s b bytes) := fun b hb hflag hu =>
    performOne_answers hk hl hf hfor (fun _ => hline) hb hflag hu
  refine ⟨_, execHomeAccess_thread hfind hcan, ?_⟩
  cases ho : otherHalf? s a with
  | none =>
    rw [performAccess_eq ho rfl]
    refine ⟨hq.mem, hq.warps, hans, fun _ => hkept, ?_,
      fun _ _ e => (Option.some_ne_none _ e.symm).elim⟩
    intro _ hsem hpage hscope e he
    rw [performOne_ld hk hl hf] at he
    exact holdsOnly_performLd hsem hpage hscope e he
  | some h =>
    obtain ⟨hkh, hfh⟩ := hother h ho
    have hfh' : failedPort? (performOne s a) h = none := (failedPort?_congr hq).trans hfh
    have hq2 : Quiet s (performOne (performOne s a) h) := hq.trans (performOne_quiet hkh hfh')
    rw [performAccess_some ho]
    refine ⟨hq2.mem, hq2.warps, fun b hb hflag hu => answers_otherHalf hk hl hf ho hkh hfh' hb hu (hans b hb hflag hu), nofun, nofun, ?_⟩
    intro h' key2 e hlh hflag hs hu hne
    cases e
    exact otherHalf_answers hk hl hf ho hkh hfh' hlh hflag hs hu hne

end Sys2Proof.Claims

/-! ## Reset, refusals and reads of the control registers

The reset state; the words that a check of their own refuses; and the words that read the machine's own registers. -/

namespace Sys2Proof.Claims
open Sys2Proof.Machine

/-- Settles O60: every table of the reset state is empty, so that each look-up gives the blank holder. -/
theorem resetState : Obligations.ResetState := by
  unfold Obligations.ResetState
  refine ⟨rfl, rfl, rfl, rfl, rfl, fun _ => ⟨rfl, rfl, rfl, rfl, rfl⟩, fun _ => ⟨rfl, rfl⟩, fun _ => ⟨rfl, rfl, rfl⟩, rfl, rfl,
    fun _ _ => rfl⟩

end Sys2Proof.Claims

namespace Sys2Proof.Machine

section
variable {s : State} {c : Cur} {h : Hdr} {lvl : BitVec 2} {num : BitVec 4}

/-- A CSRW is refused of a register that is read-only, or that only trap mode writes, out of the handler path (R93). -/
theorem csrwPerm_of_class {n : Nat} (hc : (csrInfo n).map (·.2) = some .ro ∨ ((csrInfo n).map (·.2) = some .tw ∧ c.p.handler = false)) :
    csrwPerm c n = true := by
  unfold csrwPerm
  match csrInfo n, hc with
  | some (_, .ro), _ => rfl
  | some (_, .tw), .inr ⟨_, hp⟩ => simp [hp]

/-- A barrier word after an arrival of its run raises ILLOP (R380). -/
theorem barWord_again {i : Instr} {kind : Nat} (hi : Issues i s c) (hk : kind < 2) (ha : arrivedBefore c lvl num = true) :
    barWord i h kind lvl num s = trapWord s c cIllop c.p.mask := by
  rw [barWord, runWord_ok hi.cur hi.ok]; simp [hk, ha]

/-- The first barrier word of its run at a barrier that the launch does not list raises RANGE (R198). -/
theorem barWord_unlisted {i : Instr} {kind : Nat} (hi : Issues i s c) (ha : arrivedBefore c lvl num = false)
    (hb : (s.launchOf c.w).hasBar lvl.toNat num.toNat = false) : barWord i h kind lvl num s = trapWord s c cRange c.p.mask := by
  rw [barWord, runWord_ok hi.cur hi.ok]; simp [ha, hb]

end

end Sys2Proof.Machine

namespace Sys2Proof.Claims
open Sys2Proof.Machine

/-- Settles O28: each word has passed the common checks, and its own check refuses it. -/
theorem systemWordsRefuse : Obligations.SystemWordsRefuse := by
  unfold Obligations.SystemWordsRefuse
  refine fun s c => ⟨fun h a num hi hc => ?_, fun h lvl num i hm hi ha => ?_, fun h lvl num i hm hi ha hb => ?_⟩
  · change execCsrw h a num s = _
    rw [execCsrw, runWord_ok hi.cur hi.ok, if_pos (csrwPerm_of_class hc)]
  · simp only [List.mem_cons, List.not_mem_nil, or_false] at hm
    obtain rfl | rfl := hm
    · exact congrArg Host.Outcome.next (barWord_again hi Nat.zero_lt_two ha)
    · exact congrArg Host.Outcome.next (barWord_again hi Nat.one_lt_two ha)
  · simp only [List.mem_cons, List.not_mem_nil, or_false] at hm
    obtain rfl | rfl | rfl := hm <;> exact congrArg Host.Outcome.next (barWord_unlisted hi ha hb)

end Sys2Proof.Claims

namespace Sys2Proof.Machine
open Sys2Proof.Claims

theorem sumN_eq_sum (l : List Nat) : sumN l = l.sum := List.sum_eq_foldl.symm

/-- The number whose first `n` hexadecimal digits, lowest first, are the lowest ones of some values. -/
def hexNum (f : Nat → Nat) (n : Nat) : Nat := sumN ((List.range n).map fun i => f i % 16 * 16 ^ i)

theorem hexNum_succ (f : Nat → Nat) (n : Nat) : hexNum f (n + 1) = hexNum f n + f n % 16 * 16 ^ n := by
  simp [hexNum, sumN_eq_sum, List.range_succ]

theorem hexNum_lt (f : Nat → Nat) (n : Nat) : hexNum f n < 16 ^ n := by
  induction n with
  | zero => simp [hexNum, sumN]
  | succ n ih =>
    have hd : f n % 16 * 16 ^ n ≤ 15 * 16 ^ n := Nat.mul_le_mul_right _ (by omega)
    rw [hexNum_succ, Nat.pow_succ]; omega

theorem hexNum_add (f : Nat → Nat) (m n : Nat) : hexNum f (m + n) = hexNum f m + 16 ^ m * hexNum (fun i => f (m + i)) n := by
  induction n with
  | zero => simp [hexNum, sumN]
  | succ n ih => rw [← Nat.add_assoc, hexNum_succ, hexNum_succ, ih, Nat.pow_add]; ring

theorem Lane.flags_eq (l : Lane) : l.flags = hexNum l.flag 12 := by
  simp only [Lane.flags, hexNum, Nat.pow_mul, Nat.reducePow]

theorem ofNat_mod_word (n : Nat) : BitVec.ofNat 32 (n % 2 ^ 32) = BitVec.ofNat 32 n := by
  apply BitVec.eq_of_toNat_eq; simp

/-- FLAGLO: the counters of F0 to F7 (R96). -/
theorem flags_low (l : Lane) : BitVec.ofNat 32 l.flags = counters l 0 8 := by
  have h : l.flags % 16 ^ 8 = hexNum l.flag 8 := by
    rw [Lane.flags_eq, hexNum_add l.flag 8 4, Nat.add_mul_mod_self_left, Nat.mod_eq_of_lt (hexNum_lt _ _)]
  rw [← ofNat_mod_word, show 2 ^ 32 = 16 ^ 8 from rfl, h, hexNum, counters]
  simp only [Nat.zero_add]

/-- FLAGHI: the counters of F8 to F11 (R96). -/
theorem flags_high (l : Lane) : BitVec.ofNat 32 (l.flags / 2 ^ 32) = counters l 8 4 := by
  have h : l.flags / 16 ^ 8 = hexNum (fun i => l.flag (8 + i)) 4 := by
    rw [Lane.flags_eq, hexNum_add l.flag 8 4, Nat.add_mul_div_left _ _ (by decide), Nat.div_eq_of_lt (hexNum_lt _ _), Nat.zero_add]
  rw [counters, show 2 ^ 32 = 16 ^ 8 from rfl, h, hexNum]

theorem toNat_append_eq {m n : Nat} (x : BitVec m) (y : BitVec n) : (x ++ y).toNat = x.toNat * 2 ^ n + y.toNat := by
  rw [BitVec.toNat_append, ← Nat.shiftLeft_add_eq_or_of_lt y.isLt, Nat.shiftLeft_eq]

theorem Warp.entries_length (w : Warp) : w.entries.length = if w.serial then 0 else w.paths.length := by
  rw [Warp.entries]; split <;> rfl

theorem low_word (v : W64) : v.extractLsb' 0 32 = v.setWidth 32 := by
  apply BitVec.eq_of_toNat_eq; simp

theorem high_word (v : W64) : v.extractLsb' 32 32 = (v >>> 32).setWidth 32 := by
  apply BitVec.eq_of_toNat_eq; simp

/-- A word of a record. -/
theorem recF_word (r : BitVec 512) (i : Nat) : BitVec.ofNat 32 (recF r (32 * i + 31) (32 * i)) = r.extractLsb' (32 * i) 32 := by
  apply BitVec.eq_of_toNat_eq
  rw [recF, bitsN, show 32 * i + 31 + 1 - 32 * i = 32 by omega]
  simp [Nat.shiftRight_eq_div_pow]

/-- WSTAT field by field (R100). -/
theorem wstat_eq (w : Warp) : w.wstat = warpStat w := by
  rw [Warp.wstat, warpStat, Warp.entries_length]
  generalize (if w.serial then 0 else w.paths.length) = n
  apply BitVec.eq_of_toNat_eq
  simp only [BitVec.toNat_setWidth, BitVec.toNat_ofNat, toNat_append_eq, BitVec.toNat_ofBool]
  cases w.serial <;> cases w.trapMode <;> cases w.halt <;> simp <;> omega

/-- The counters of a partition (R350). -/
def isProfileCsr (n : Nat) : Prop := (0x120 ≤ n ∧ n ≤ 0x130) ∨ (0x140 ≤ n ∧ n ≤ 0x148)

/-- The context-held registers that read as they are stored (R96, R346). -/
def isStoredCsr (n : Nat) : Prop :=
  n ∈ [0x011, 0x013, 0x014, 0x015, 0x016, 0x01A, 0x01B, 0x01C, 0x01D, 0x01E, 0x01F, 0x020, 0x021, 0x022, 0x023, 0x024, 0x110, 0x111] ∨
    (0x100 ≤ n ∧ n < 0x110 ∧ n % 4 ≠ 3)

/-- The registers of the part, the thread, the warp and the context that a read puts together (R96, R100). -/
def isComposedCsr (n : Nat) : Prop := n ∈ [0, 1, 2, 3, 4, 5, 6, 7, 0x10, 0x12, 0x18, 0x19, 0x28, 0x29]

theorem csrInfo_profile {n : Nat} (h : isProfileCsr n) : csrInfo n = some (.part, .ro) := by
  unfold isProfileCsr at h
  simp only [csrInfo, beq_iff_eq, Bool.or_eq_true, Bool.and_eq_true, decide_eq_true_eq]
  iterate 11 rw [if_neg (by omega)]
  exact if_pos h

theorem csrInfo_stored {n : Nat} (h : isStoredCsr n) : ∃ k, csrInfo n = some (.context, k) := by
  obtain h | h := h
  · simp only [List.mem_cons, List.not_mem_nil, or_false] at h
    obtain rfl | rfl | rfl | rfl | rfl | rfl | rfl | rfl | rfl | rfl | rfl | rfl | rfl | rfl | rfl | rfl | rfl | rfl := h <;>
      exact ⟨_, rfl⟩
  · simp only [csrInfo, beq_iff_eq, Bool.or_eq_true, Bool.and_eq_true, decide_eq_true_eq]
    iterate 9 rw [if_neg (by omega)]
    exact ⟨_, if_pos (by omega)⟩

theorem csrInfo_unassigned {n : Nat} (hc : ¬ isComposedCsr n) (hp : ¬ isProfileCsr n) (hs : ¬ isStoredCsr n) : csrInfo n = none := by
  simp only [isComposedCsr, isStoredCsr, List.mem_cons, List.not_mem_nil, or_false] at hc hs
  simp only [csrInfo, beq_iff_eq, Bool.or_eq_true, Bool.and_eq_true, decide_eq_true_eq]
  iterate 11 rw [if_neg (by omega)]
  exact if_neg hp

section
variable (s : State) (c : Cur) (l : Lane) {n : Nat}

theorem csrValue_profile (h : isProfileCsr n) : csrValue s c l n =
    if (s.ctxFor c.key.core c.w.ctx).priv || (s.ctxFor c.key.core c.w.ctx).pmap then s.profAt c.key.core c.key.part n else 0#32 := by
  have hn := h
  unfold isProfileCsr at hn
  unfold csrValue
  dsimp only
  iterate 14 rw [if_neg (by omega)]
  rw [if_pos hn]
  have hx : ((s.ctxFor c.key.core c.w.ctx).priv = false ∧ (s.ctxFor c.key.core c.w.ctx).pmap = false) ↔
      ¬ ((s.ctxFor c.key.core c.w.ctx).priv || (s.ctxFor c.key.core c.w.ctx).pmap) = true := by simp
  simp only [hx, ite_not]
  split
  · split
    · rfl
    · rw [State.profAt, if_neg (by simpa using ‹¬ n = 0x120›)]
  · rfl

theorem csrValue_stored (h : isStoredCsr n) : csrValue s c l n = (s.ctxFor c.key.core c.w.ctx).csrOf n := by
  have hn := h
  simp only [isStoredCsr, List.mem_cons, List.not_mem_nil, or_false] at hn
  unfold csrValue
  dsimp only
  iterate 15 rw [if_neg (by omega)]
  exact if_pos h

theorem csrValue_unassigned (hc : ¬ isComposedCsr n) (hp : ¬ isProfileCsr n) (hs : ¬ isStoredCsr n) : csrValue s c l n = 0#32 := by
  simp only [isComposedCsr, List.mem_cons, List.not_mem_nil, or_false] at hc
  unfold csrValue
  dsimp only
  iterate 14 rw [if_neg (by omega)]
  exact (if_neg hp).trans (if_neg hs)

theorem readCsr_composed (h : isComposedCsr n) : readCsr s c l n = csrValue s c l n := by
  simp only [isComposedCsr, List.mem_cons, List.not_mem_nil, or_false] at h
  obtain rfl | rfl | rfl | rfl | rfl | rfl | rfl | rfl | rfl | rfl | rfl | rfl | rfl | rfl := h <;>
    simp only [readCsr, csrInfo, csrValue, Nat.reduceEqDiff, Nat.reduceBEq, Bool.or_true, Bool.or_false, Bool.false_eq_true, reduceIte,
      flags_low, flags_high, low_word, high_word, wstat_eq, placeWord, Ctx.readCsr, Ctx.ctxCsr, ofNat_mod_word, Nat.mul_comm]

theorem Ctx.readCsr_stored (x : Ctx) (h : isStoredCsr n) : x.readCsr n = x.csrOf n := by
  simp only [isStoredCsr, List.mem_cons, List.not_mem_nil, or_false] at h
  simp only [Ctx.readCsr, beq_iff_eq]
  iterate 3 rw [if_neg (by omega)]

/-- What a CSRR reads is what the table gives its number: each kind of register by its own equation, and 0 of a number that names none. -/
theorem readCsr_eq : readCsr s c l n = csrValue s c l n := by
  by_cases hc : isComposedCsr n
  · exact readCsr_composed s c l hc
  by_cases hp : isProfileCsr n
  · rw [csrValue_profile s c l hp, readCsr, csrInfo_profile hp]
    exact if_neg (by unfold isProfileCsr at hp; simp only [beq_iff_eq]; omega)
  by_cases hs : isStoredCsr n
  · obtain ⟨k, hk⟩ := csrInfo_stored hs
    rw [csrValue_stored s c l hs, readCsr, hk]
    exact Ctx.readCsr_stored _ hs
  · rw [csrValue_unassigned s c l hc hp hs, readCsr, csrInfo_unassigned hc hp hs]

end

end Sys2Proof.Machine

namespace Sys2Proof.Claims
open Sys2Proof.Machine

section
variable {s : State} {c : Cur} {h : Hdr} {d a : Code}

/-- A CSRR completes with what the table gives its number. -/
theorem csrr_completes {num : BitVec 12} (hi : Issues (.csrr h d num) s c) :
    Completes (.csrr h d num) s c ⟨h, 4, fun s c l => reg d (csrValue s c l num.toNat)⟩ := by
  refine completes_of_putFix hi ?_
  change execCsrr h d num s = _
  rw [execCsrr, runWord_ok hi.cur hi.ok, List.map_eq_flatMap]
  simp only [readCsr_eq, reg, List.map_cons, List.map_nil]

theorem tdget_completes (hi : Issues (.tdget h d a) s c) (ha : ∀ l ∈ active s c h, acquireOpen s c l = false) :
    Completes (.tdget h d a) s c ⟨h, 4, fun s c l =>
      (List.range 16).map fun i => (d.toNat + i, (descFor s c l (rd s l a).toNat).extractLsb' (32 * i) 32)⟩ := by
  refine completes_of_putFix hi ?_
  change execTdget h d a s = _
  have hno : ¬ (active s c h).any (acquireOpen s c) = true := by simpa using ha
  rw [execTdget, runWord_ok hi.cur hi.ok, if_neg hno]
  simp only [recF_word, List.map_map, Function.comp_def]

theorem tdget_waits (hi : Issues (.tdget h d a) s c) (ha : ∃ l ∈ active s c h, acquireOpen s c l = true) :
    exec (.tdget h d a) s = .next (popIssue s) := by
  change execTdget h d a s = _
  rw [execTdget, runWord_ok hi.cur hi.ok, if_pos (List.any_eq_true.mpr ha)]

end

/-- Settles O9: each row's values are those that the word's own function puts in flight, and a TDGET behind an open acquire is only taken
off the queue of due words. -/
theorem readingWordsComplete : Obligations.ReadingWordsComplete := by
  unfold Obligations.ReadingWordsComplete
  refine ⟨fun i r s c hr hi ha => ?_, fun h d a s c hi ha => ⟨_, tdget_waits hi ha, rfl⟩⟩
  cases i <;> cases hr
  case csrr h d num => exact csrr_completes hi
  case clock h d =>
    exact completes_of_fixWord hi (fun s _ => pair d (BitVec.ofNat 64 s.ts))
      (fun _ _ => by simp only [regs, pair, low_word, high_word]) rfl
  case hldr h d a => exact completes_of_fixWord hi (fun s l => one d (rd s l a)) (fun _ _ => rfl) rfl
  case ftest h d a => exact completes_of_fixWord hi (fun s l => oneP d (!isPending s l a)) (fun _ _ => rfl) rfl
  case tdget h d a => exact tdget_completes hi (ha h d a rfl)

end Sys2Proof.Claims

namespace Sys2Proof.Machine

/-! ## Placement, saving and restoring of blocks (R302, R311 to R314, R330, R331) -/

/-- The warps, the blocks, the saved blocks and the accesses of the threads are as before, and so are what placement looks at beside them:
the time and the core that took the last block. -/
structure KeepsBlocks (s t : State) : Prop where
  warps : t.warps = s.warps
  blocks : t.blocks = s.blocks
  saved : t.saved = s.saved
  accesses : t.accesses = s.accesses
  lastCore : t.lastCore = s.lastCore
  clk : t.clk = s.clk

namespace KeepsBlocks

theorem refl (s : State) : KeepsBlocks s s := by constructor <;> rfl

theorem trans {s t u : State} (h : KeepsBlocks s t) (g : KeepsBlocks t u) : KeepsBlocks s u where
  warps := g.warps.trans h.warps
  blocks := g.blocks.trans h.blocks
  saved := g.saved.trans h.saved
  accesses := g.accesses.trans h.accesses
  lastCore := g.lastCore.trans h.lastCore
  clk := g.clk.trans h.clk

theorem foldl {α : Type} {f : State → α → State} (hf : ∀ s x, KeepsBlocks s (f s x)) (l : List α) (s : State) :
    KeepsBlocks s (l.foldl f s) := by
  induction l generalizing s with
  | nil => exact refl s
  | cons x r ih => exact (hf s x).trans (ih _)

/-- A branch that may leave the state alone. -/
theorem ite {s t u : State} {p : Prop} [Decidable p] (ht : KeepsBlocks s t) (hu : KeepsBlocks s u) : KeepsBlocks s (if p then t else u) := by
  split
  · exact ht
  · exact hu

end KeepsBlocks

section
variable {s t : State} {x key n v i : Nat}

theorem Charged.keepsBlocks (h : Charged s t) : KeepsBlocks s t := by rw [h]; constructor <;> rfl

theorem observe_keepsBlocks {who : Option (Nat × W64)} : KeepsBlocks s (observe s key n who) := by constructor <;> rfl
theorem modCore_keepsBlocks {f : Core → Core} : KeepsBlocks s (s.modCore i f) := by constructor <;> rfl
theorem modCtx_keepsBlocks {f : Ctx → Ctx} : KeepsBlocks s (s.modCtx i f) := by constructor <;> rfl
theorem modQueue_keepsBlocks {f : Queue → Queue} : KeepsBlocks s (s.modQueue i f) := by constructor <;> rfl
theorem modLaunch_keepsBlocks {f : Launch → Launch} : KeepsBlocks s (s.modLaunch i f) := by constructor <;> rfl
theorem sendOwn_keepsBlocks {rank va acc : Nat} : KeepsBlocks s (sendOwn s x rank va n acc) := by constructor <;> rfl
theorem sendRemote_keepsBlocks {r : OutReq} : KeepsBlocks s (sendRemote s x r) := by constructor <;> rfl

/-! ### Stores and loads of the part's own -/

theorem markDirty_keepsBlocks {line : Nat} : KeepsBlocks s (markDirty s line) := by
  rw [markDirty]; split
  · exact .refl s
  · split <;> constructor <;> rfl

theorem homeWrite_keepsBlocks {tkey : Nat} : KeepsBlocks s (homeWrite s key n v tkey) := by
  rw [homeWrite]; split
  · constructor <;> rfl
  · exact (KeepsBlocks.foldl (fun _ _ => markDirty_keepsBlocks) (linesIn key n) s).trans (by constructor <;> rfl)

theorem foreignWrite_keepsBlocks {tkey : Nat} : KeepsBlocks s (foreignWrite s key n v tkey) := by
  have h : KeepsBlocks s (observe (chargeOrdinary s key n) key n none) :=
    chargeOrdinary_charged.keepsBlocks.trans observe_keepsBlocks
  exact (h.trans (by constructor <;> rfl)).trans homeWrite_keepsBlocks

theorem partStore_keepsBlocks {va : Nat} (h : partStore s x va n v = .ok t) : KeepsBlocks s t := by
  unfold partStore at h
  split at h
  · cases h
  · split at h
    · cases h; exact sendOwn_keepsBlocks
    · split at h
      · cases h
      · cases h; exact foreignWrite_keepsBlocks

theorem partStores_keepsBlocks {l : List (Nat × Nat × Nat)} (h : partStores s x l = .ok t) : KeepsBlocks s t := by
  induction l generalizing s with
  | nil => cases h; exact .refl _
  | cons e r ih =>
    unfold partStores at h
    split at h
    · cases h
    · exact (partStore_keepsBlocks ‹_›).trans (ih h)

theorem partTouch_keepsBlocks {va : Nat} : KeepsBlocks s (partTouch s x va n) := by
  rw [partTouch]; split
  · exact .refl s
  · split
    · exact sendOwn_keepsBlocks
    · exact .ite (.refl s) (chargeOrdinary_charged.keepsBlocks.trans observe_keepsBlocks)

theorem addLog_keepsBlocks {src code data : Nat} : KeepsBlocks s (addLog s src code data) := by rw [addLog]; constructor <;> rfl

theorem portError_keepsBlocks {port : Nat} : KeepsBlocks s (portError s port) := by
  unfold portError; extract_lets u
  have hu : KeepsBlocks s u := by constructor <;> rfl
  exact .ite (hu.trans addLog_keepsBlocks) hu

theorem noteErrors_keepsBlocks {vas : List Nat} : KeepsBlocks s (noteErrors s x vas) :=
  .foldl (fun _ _ => portError_keepsBlocks) _ s

/-! ### Queues -/

theorem sendDone_keepsBlocks {org : Option Nat} : KeepsBlocks s (sendDone s x org) := by
  unfold sendDone; split
  · exact .refl s
  · exact sendOwn_keepsBlocks

theorem resolveLaunch_keepsBlocks {l : Launch} {f : EngOp → OpState} : KeepsBlocks s (resolveLaunch s l f) := by
  rw [resolveLaunch]; split
  · exact .refl s
  · constructor <;> rfl

theorem launchAnswer_keepsBlocks {rank : Nat} {ok : Bool} : KeepsBlocks s (launchAnswer s i rank ok) := by
  unfold launchAnswer; extract_lets first u l
  have hu : KeepsBlocks s u := modLaunch_keepsBlocks
  exact .ite ((hu.trans (.ite sendDone_keepsBlocks (.refl u))).trans resolveLaunch_keepsBlocks) hu

theorem launchLost_keepsBlocks {rank : Nat} : KeepsBlocks s (launchLost s i rank) :=
  modLaunch_keepsBlocks.trans resolveLaunch_keepsBlocks

theorem settleLaunch_keepsBlocks : KeepsBlocks s (settleLaunch s i) := by
  rw [settleLaunch]; exact .ite launchAnswer_keepsBlocks (.refl s)

theorem startLaunch_keepsBlocks : KeepsBlocks s (startLaunch s i) := by
  have h : KeepsBlocks s (settleLaunch (s.modLaunch i fun l => { l with started := true }) i) :=
    modLaunch_keepsBlocks.trans settleLaunch_keepsBlocks
  rw [startLaunch]; exact .ite (h.trans modQueue_keepsBlocks) h

theorem dropLost_keepsBlocks : KeepsBlocks s (dropLost s i) := by
  rw [dropLost]; exact .ite (.foldl (fun _ _ => launchLost_keepsBlocks) _ s) (.refl s)

theorem stopQueue_keepsBlocks {cause : Nat} {fut : Option FutRef} : KeepsBlocks s (stopQueue s i cause fut) := by
  unfold stopQueue; extract_lets u
  have hu : KeepsBlocks s u := modQueue_keepsBlocks
  split
  · exact hu
  · exact hu.trans (by constructor <;> rfl)

theorem acceptRecord_keepsBlocks {q : Queue} {r : BitVec 512} : KeepsBlocks s (acceptRecord s q r) := by
  unfold acceptRecord; extract_lets fut org r' l u
  have hu : KeepsBlocks s u := modQueue_keepsBlocks
  split
  · exact (hu.trans stopQueue_keepsBlocks).trans sendDone_keepsBlocks
  · have hd : KeepsBlocks u (dropLost ({ u with launches := u.launches ++ [l], nextId := u.nextId + 1 }.modQueue q.id
        fun x => { x with cur := some l.id }) l.id) := .trans (by constructor <;> rfl) dropLost_keepsBlocks
    exact hu.trans (.ite (hd.trans startLaunch_keepsBlocks) hd)

theorem putRecord_keepsBlocks {r : BitVec 512} {fut : Option FutRef} {org : Option Nat} : KeepsBlocks s (putRecord s i r fut org) := by
  unfold putRecord; extract_lets q va u
  have hu : KeepsBlocks s u := by
    unfold u; split
    · exact partStores_keepsBlocks ‹_›
    · exact .refl s
  exact hu.trans modQueue_keepsBlocks

theorem putForward_keepsBlocks : KeepsBlocks s (putForward s i) := by
  rw [putForward]; split
  · exact .refl s
  · exact .ite (modQueue_keepsBlocks.trans putRecord_keepsBlocks) (.refl s)

theorem askRecord_keepsBlocks {q : Queue} {rank : Nat} : KeepsBlocks s (askRecord s q rank) := by
  unfold askRecord; extract_lets va u
  have hu : KeepsBlocks s u := .foldl (fun _ _ => sendRemote_keepsBlocks) _ s
  exact hu.trans (by constructor <;> rfl)

theorem takeRecords_keepsBlocks : KeepsBlocks s (takeRecords n s i) := by
  induction n generalizing s with
  | zero => exact .refl s
  | succ n ih =>
    unfold takeRecords; extract_lets u q
    have hu : KeepsBlocks s u := putForward_keepsBlocks
    refine hu.trans (.ite (.refl u) (.ite stopQueue_keepsBlocks (.ite (.refl u) ?_)))
    split
    · exact stopQueue_keepsBlocks
    · split
      · refine .ite askRecord_keepsBlocks ?_
        split
        · exact .refl u
        · exact (modQueue_keepsBlocks.trans acceptRecord_keepsBlocks).trans ih
      · split
        · exact noteErrors_keepsBlocks.trans stopQueue_keepsBlocks
        · exact (partTouch_keepsBlocks.trans acceptRecord_keepsBlocks).trans ih

theorem pumpQueue_keepsBlocks : KeepsBlocks s (pumpQueue s i) := takeRecords_keepsBlocks

theorem afterPlace_keepsBlocks {q : Queue} {j : Job} : KeepsBlocks s (afterPlace s q j) := by
  unfold afterPlace; extract_lets u
  have hu : KeepsBlocks s u := by constructor <;> rfl
  refine hu.trans ?_
  split
  · exact .refl u
  · exact modLaunch_keepsBlocks.trans (.ite (modQueue_keepsBlocks.trans pumpQueue_keepsBlocks) (.refl _))

/-! ### Units of a save record -/

theorem touchUnit_keepsBlocks {need : Need} {u : Nat} : KeepsBlocks s (touchUnit x need s u) := by
  unfold touchUnit; extract_lets va
  split
  · exact .refl s
  · split
    · exact sendOwn_keepsBlocks
    · exact .ite (.refl s) ((KeepsBlocks.foldl (fun _ _ => chargeOrdinary_charged.keepsBlocks) _ s).trans observe_keepsBlocks)

theorem writeUnit_keepsBlocks {u : Nat} : KeepsBlocks s (writeUnit x s u) := by
  unfold writeUnit; extract_lets t
  have ht : KeepsBlocks s t := touchUnit_keepsBlocks
  split
  · exact ht
  · exact .ite ht (ht.trans (by constructor <;> rfl))

theorem dropL1_keepsBlocks : KeepsBlocks s (dropL1 s i) := modCore_keepsBlocks

end

end Sys2Proof.Machine

namespace Sys2Proof.Machine

section
variable {s t u : State} {id c core : Nat}

theorem dispatch_first {e : Queue × Job} {r : List (Queue × Job)} (h : tryJob s e.2 = some u) :
    dispatch (e :: r) s = afterPlace u e.1 e.2 := by
  rw [dispatch, h]

/-- The job of a new cluster of one block that has not waited for its place tries its preferred core alone (R311). -/
theorem tryJob_fresh (h1 : (s.launchAt id).ext 1 ≤ 1) (hw : (s.launchAt id).waited = false) :
    tryJob s (.fresh id c) = placeNew s (s.launchAt id) 0 c (jobPref s (.fresh id c)) := by
  simp [tryJob, placeJob, jobWaited, placeOne, Job.launch, hw, Nat.not_lt.mpr h1]

/-- A new block on a core that has places for its warps and its scratch (R32, R91). -/
theorem placeNew_some {l : Launch} {f1 off : Nat} {ks : List WarpKey} (hk : planWarps s core l.nreg l.warpsPer = some ks)
    (ho : scratchAt? s core l.scratch = some off) :
    ∃ u, placeNew s l f1 c core = some u ∧ u.lastCore = core ∧
      (∃ b ∈ u.blocks, b.id = s.nextId ∧ b.launch = l.id ∧ b.cluster = c ∧ b.core = core ∧ b.scr = off ∧ b.scrLen = l.scratch ∧
        b.warps = ks ∧ b.saved = false ∧ b.retired = false) ∧
      ∀ i k, ks[i]? = some k → newWarp s l s.nextId f1 c k i ∈ u.warps := by
  rw [placeNew, hk, ho]
  refine ⟨_, rfl, rfl, ⟨_, List.mem_append_right _ (List.mem_singleton_self _), rfl, rfl, rfl, rfl, rfl, rfl, rfl, rfl, rfl⟩,
    fun i k hi => List.mem_append_right _ (List.mem_map.mpr ⟨(k, i), ?_, rfl⟩)⟩
  exact List.mk_mem_zipIdx_iff_getElem?.mpr hi

/-- A launch whose job has no place begins to wait for it, unless it waits already (R311). -/
theorem beginWaitFor_launches {l : Launch} (hl : l ∈ s.launches) (hw : l.waitSince = none) :
    { l with waitSince := some s.clk, pref := some (jobPref s (.fresh l.id c)) } ∈ (beginWaitFor s (.fresh l.id c)).launches :=
  List.mem_map.mpr ⟨l, hl, by simp [hw]⟩

/-! ### Waits for a place (R311, R313) -/

/-- A launch whose wait for its preferred place is over when it has lasted 4 µs. -/
def waitOver (clk : Nat) (l : Launch) : Launch :=
  match l.waitSince with
  | some t => if t + placeWait ≤ clk then { l with waited := true } else l
  | none => l

/-- A block as one that gives way to a job of a higher PRIO. -/
def giveWay (b : Block) : Block :=
  { b with
    saving := if b.retired = true ∨ b.saved = true then b.saving else some false
    target := none }

/-- What PLACEMENT_WAIT_EXPIRY does for one job of its launch. -/
def expireJob (s : State) (j : Job) : State :=
  let s := match j with
    | .fresh l _ => s.modLaunch l (waitOver s.clk)
    | .restore _ _ _ => s
  if preemptReady s j then preempt s j else s

theorem execPlacementWaitExpiry_eq : execPlacementWaitExpiry id s = .next ((jobsOf s id).foldl expireJob s).useFree := rfl

/-- Only launches and blocks differ, and of the blocks those that give way. -/
structure Expires (s t : State) : Prop where
  only : t = { s with launches := t.launches, blocks := t.blocks }
  blocks : ∀ b ∈ t.blocks, b ∈ s.blocks ∨ ∃ b₀ ∈ s.blocks, b = giveWay b₀

theorem giveWay_giveWay (b : Block) : giveWay (giveWay b) = giveWay b := by
  unfold giveWay; dsimp only; split <;> rfl

theorem Expires.refl (s : State) : Expires s s := ⟨rfl, fun _ h => .inl h⟩

theorem Expires.trans (h : Expires s t) (g : Expires t u) : Expires s u := by
  refine ⟨g.only.trans (by rw [h.only]), fun b hb => ?_⟩
  obtain hb | ⟨b₁, hb₁, rfl⟩ := g.blocks b hb
  · exact h.blocks b hb
  · obtain hb₁ | ⟨b₀, hb₀, rfl⟩ := h.blocks b₁ hb₁
    · exact .inr ⟨b₁, hb₁, rfl⟩
    · exact .inr ⟨b₀, hb₀, giveWay_giveWay b₀⟩

theorem Expires.foldl {α : Type} {f : State → α → State} (hf : ∀ s x, Expires s (f s x)) (l : List α) (s : State) :
    Expires s (l.foldl f s) := by
  induction l generalizing s with
  | nil => exact refl s
  | cons x r ih => exact (hf s x).trans (ih _)

theorem stopForSave_expires {v : Nat × Nat} : Expires s (stopForSave s v none) := by
  refine ⟨rfl, fun b hb => ?_⟩
  obtain ⟨b₀, hb₀, rfl⟩ := List.mem_map.mp hb
  split
  · exact .inr ⟨b₀, hb₀, by simp [giveWay]⟩
  · exact .inl hb₀

theorem preempt_expires {j : Job} : Expires s (preempt s j) := by
  rw [preempt]; split
  · exact .refl s
  · exact .foldl (fun _ _ => stopForSave_expires) _ s

theorem preempt_launches {j : Job} : (preempt s j).launches = s.launches := by
  rw [preempt]; split
  · rfl
  · exact List.foldlRecOn (motive := fun t : State => t.launches = s.launches) _ _ rfl fun _ h _ _ => h

theorem expireJob_expires {j : Job} : Expires s (expireJob s j) := by
  unfold expireJob; extract_lets u
  have hu : Expires s u := by
    unfold u; split
    · exact ⟨rfl, fun _ h => .inl h⟩
    · exact .refl s
  split
  · exact hu.trans preempt_expires
  · exact hu

theorem waitOver_waitOver (clk : Nat) (l : Launch) : waitOver clk (waitOver clk l) = waitOver clk l := by
  cases h : l.waitSince with
  | none => simp [waitOver, h]
  | some t => by_cases ht : t + placeWait ≤ clk <;> simp [waitOver, h, ht]

/-- The launches after one job: those of a new cluster's launch are past their wait if it has lasted long enough. -/
theorem expireJob_launches {j : Job} : (expireJob s j).launches =
    match j with | .fresh l _ => mapIf (fun x => x.id == l) (waitOver s.clk) s.launches | .restore _ _ _ => s.launches := by
  cases j <;> unfold expireJob <;> dsimp only <;> split
  · exact preempt_launches
  · rfl
  · exact preempt_launches
  · rfl

theorem expireJob_clk {j : Job} : (expireJob s j).clk = s.clk := by rw [expireJob_expires.only]

/-- A launch whose wait is over, or is none, stands as it is. -/
theorem mem_foldl_expireJob {l : Launch} {js : List Job} (hl : l ∈ s.launches) (hw : waitOver s.clk l = l) :
    l ∈ (js.foldl expireJob s).launches := by
  induction js generalizing s with
  | nil => exact hl
  | cons j r ih =>
    refine ih ?_ (by rw [expireJob_clk, hw])
    rw [expireJob_launches]
    cases j with
    | restore => exact hl
    | fresh i _ => exact List.mem_map.mpr ⟨l, hl, by rw [hw, ite_self]⟩

/-- With a job of a new cluster among its launch's, the launch is past its wait if it has lasted long enough. -/
theorem waitOver_mem_foldl {l : Launch} {js : List Job} (hl : l ∈ s.launches) (hj : .fresh l.id c ∈ js) :
    waitOver s.clk l ∈ (js.foldl expireJob s).launches := by
  induction js generalizing s with
  | nil => cases hj
  | cons j r ih =>
    rw [List.foldl_cons, ← expireJob_clk (j := j)]
    by_cases he : ∃ d, j = .fresh l.id d
    · obtain ⟨d, rfl⟩ := he
      refine mem_foldl_expireJob ?_ (waitOver_waitOver _ l)
      rw [expireJob_launches, expireJob_clk]
      exact List.mem_map.mpr ⟨l, hl, by simp⟩
    · refine ih ?_ (by obtain _ | ⟨_, h⟩ := hj; exacts [absurd ⟨c, rfl⟩ he, h])
      rw [expireJob_launches]
      cases j with
      | restore => exact hl
      | fresh i d =>
        have hi : l.id ≠ i := fun h => he ⟨d, by rw [h]⟩
        exact List.mem_map.mpr ⟨l, hl, by simp [hi]⟩

end

end Sys2Proof.Machine

namespace Sys2Proof.Machine

/-! ### Saving a block (R331) -/

/-- What spilling the stack caches of some warps leaves: of the warps in question only how far their stacks stand in memory, which their
saved form says anew; of the others, of the blocks and of the accesses, nothing. -/
structure Spills (k : WarpKey → Prop) (s t : State) : Prop where
  blocks : t.blocks = s.blocks
  saved : t.saved = s.saved
  accesses : t.accesses = s.accesses
  clk : t.clk = s.clk
  warps : ∃ g : Warp → Warp, t.warps = s.warps.map g ∧ ∀ w, (g w).key = w.key ∧ (g w).blk = w.blk ∧ savedWarp (g w) = savedWarp w ∧
    (¬ k w.key → g w = w)

section
variable {s t u : State} {k : WarpKey → Prop} {w : Warp} {b : Block}

theorem KeepsBlocks.spills (h : KeepsBlocks s t) : Spills k s t :=
  ⟨h.blocks, h.saved, h.accesses, h.clk, id, by rw [h.warps, List.map_id], fun _ => ⟨rfl, rfl, rfl, fun _ => rfl⟩⟩

theorem Spills.trans (h : Spills k s t) (i : Spills k t u) : Spills k s u := by
  obtain ⟨g, hg, hg'⟩ := h.warps
  obtain ⟨f, hf, hf'⟩ := i.warps
  refine ⟨i.blocks.trans h.blocks, i.saved.trans h.saved, i.accesses.trans h.accesses, i.clk.trans h.clk, f ∘ g,
    by rw [hf, hg, List.map_map], fun w => ?_⟩
  obtain ⟨gk, gb, gs, gn⟩ := hg' w
  obtain ⟨fk, fb, fs, fn⟩ := hf' (g w)
  exact ⟨fk.trans gk, fb.trans gb, fs.trans gs, fun hw => (fn (by rwa [gk])).trans (gn hw)⟩

theorem Spills.foldl {α : Type} {f : State → α → State} {l : List α} (hf : ∀ s, ∀ x ∈ l, Spills k s (f s x)) (s : State) :
    Spills k s (l.foldl f s) := by
  induction l generalizing s with
  | nil => exact (KeepsBlocks.refl s).spills
  | cons x r ih => exact (hf s x (.head _)).trans (ih (fun s y hy => hf s y (.tail _ hy)) _)

/-- A lane whose stacks stand in memory up to some entries. -/
def Lane.spilledTo (l : Lane) (n m : Nat) : Lane := { l with spilled := n, hspilled := m }

theorem Lane.write_spilledTo {l : Lane} {n m code : Nat} {v : W32} : (l.spilledTo n m).write code v = (l.write code v).spilledTo n m := by
  simp only [Lane.write, Lane.spilledTo]; split_ifs <;> simp only

theorem Lane.commitAll_spilledTo {l : Lane} {n m : Nat} : (l.spilledTo n m).commitAll = l.commitAll.spilledTo n m := by
  have h : ∀ (fs : List FixWrite) (l : Lane), fs.foldl (fun l f => l.write f.code f.val) (l.spilledTo n m) =
      (fs.foldl (fun l f => l.write f.code f.val) l).spilledTo n m := by
    intro fs l
    induction fs generalizing l with
    | nil => rfl
    | cons f r ih => rw [List.foldl_cons, Lane.write_spilledTo, ih]; rfl
  exact h l.inflight { l with inflight := [] }

/-- The saved form of a warp does not depend on how far its stacks stand in memory. -/
theorem savedWarp_modLane {i : Nat} {f : Lane → Lane} (hf : ∀ l, ∃ n m, f l = l.spilledTo n m) :
    savedWarp (w.modLane i f) = savedWarp w := by
  simp only [savedWarp, Warp.eachLane, Warp.modLane, mapIf, List.map_map]
  congr 1
  refine List.map_congr_left fun l _ => ?_
  simp only [Function.comp]
  split
  · obtain ⟨n, m, h⟩ := hf l
    rw [h, Lane.commitAll_spilledTo]; rfl
  · rfl

theorem spillEntry_keepsBlocks {hd : Bool} {l : Lane} {e : CtlEntry} : KeepsBlocks s (spillEntry w hd l s e) := by
  rw [spillEntry]; split
  · exact partStore_keepsBlocks ‹_›
  · exact noteErrors_keepsBlocks

theorem spillEntries_keepsBlocks {hd : Bool} {l : Lane} {es : List CtlEntry} : KeepsBlocks s (es.foldl (spillEntry w hd l) s) :=
  .foldl (fun _ _ => spillEntry_keepsBlocks) es s

theorem modLane_spills {i : Nat} {f : Lane → Lane} (hw : k w.key) (hf : ∀ l, ∃ n m, f l = l.spilledTo n m) :
    Spills k s (s.modLane w.key i f) := by
  refine ⟨rfl, rfl, rfl, rfl, fun v => if v.key == w.key then v.modLane i f else v, rfl, fun v => ?_⟩
  dsimp only
  split
  · rename_i hv
    exact ⟨rfl, rfl, savedWarp_modLane hf, fun h => absurd hw (by rwa [← beq_iff_eq.mp hv])⟩
  · exact ⟨rfl, rfl, rfl, fun _ => rfl⟩

theorem spillLane_spills {l : Lane} {keep : Nat} (hw : k w.key) : Spills k s (spillLane keep w s l) := by
  rw [spillLane]
  exact (spillEntries_keepsBlocks.trans spillEntries_keepsBlocks).spills.trans (modLane_spills hw fun _ => ⟨_, _, rfl⟩)

/-- The state in which the stack caches of a block's warps have been spilled. -/
def spillBlock (s : State) (b : Block) : State :=
  (s.warps.filter fun w => w.blk == b.id).foldl (fun s w => w.lanes.foldl (spillLane 0 w) s) s

theorem spillBlock_spills : Spills (fun k => ∃ w ∈ s.warps, w.blk = b.id ∧ w.key = k) s (spillBlock s b) :=
  .foldl (fun _ w hw => .foldl (fun _ _ _ => spillLane_spills ⟨w, (List.mem_filter.mp hw).1, by simpa using (List.mem_filter.mp hw).2, rfl⟩) _) s

/-- No lane has an entry on a stack. -/
def NoStacks (s : State) : Prop := ∀ w ∈ s.warps, ∀ l ∈ w.lanes, l.stk = [] ∧ l.hstk = []

theorem spillLane_mem_of_empty {l : Lane} {keep : Nat} (h : l.stk = [] ∧ l.hstk = []) : (spillLane keep w s l).mem = s.mem := by
  simp [spillLane, h.1, h.2]

theorem spillBlock_mem (h : NoStacks s) : (spillBlock s b).mem = s.mem := by
  have hl : ∀ (ls : List Lane) (w : Warp) (t : State), (∀ l ∈ ls, l.stk = [] ∧ l.hstk = []) → (ls.foldl (spillLane 0 w) t).mem = t.mem := by
    intro ls w t hls
    induction ls generalizing t with
    | nil => rfl
    | cons l r ih => exact (ih _ fun x hx => hls x (.tail _ hx)).trans (spillLane_mem_of_empty (hls l (.head _)))
  have hw : ∀ (ws : List Warp) (t : State), (∀ w ∈ ws, ∀ l ∈ w.lanes, l.stk = [] ∧ l.hstk = []) →
      (ws.foldl (fun s w => w.lanes.foldl (spillLane 0 w) s) t).mem = t.mem := by
    intro ws t hws
    induction ws generalizing t with
    | nil => rfl
    | cons w r ih => exact (ih _ fun x hx => hws x (.tail _ hx)).trans (hl _ _ _ (hws w (.head _)))
  exact hw _ s fun w hw => h w (List.mem_filter.mp hw).1

end
end Sys2Proof.Machine

namespace Sys2Proof.Machine

section
variable {s t u : State} {b c : Block} {x : SavedBlock}

/-- A block that has been saved at a time (R331). -/
def Block.markSaved (clk : Nat) (b : Block) : Block := { b with saved := true, saving := none, since := clk, warps := [] }

/-- The saved form of a block's warps, once their stack caches are spilled. -/
def savedWarps (s : State) (b : Block) : List Warp := ((spillBlock s b).warps.filter fun w => w.blk == b.id).map savedWarp

/-- What saving a block leaves, and what its record holds. -/
structure Saves (b : Block) (s t : State) : Prop where
  warps : t.warps = (spillBlock s b).warps.filter fun w => w.blk != b.id
  accesses : t.accesses = s.accesses.filter fun a => !(savedWarps s b).any fun w => w.key == a.w
  blocks : t.blocks = mapIf (fun x => x.id == b.id) (Block.markSaved s.clk) s.blocks
  mem : t.mem = (spillBlock s b).mem
  saved : ∃ x, t.saved = s.saved ++ [x] ∧ x.blk = b.id ∧ x.warps = savedWarps s b ∧
    x.waits = s.accesses.filter (fun a => (savedWarps s b).any fun w => w.key == a.w) ∧
    x.scratch = (spillBlock s b).mem.filter fun v => scratchKey b.core b.scr ≤ v.1 && v.1 < scratchKey b.core b.scr + b.scrLen

theorem saveBlock_saves (s : State) (b : Block) : Saves b s (saveBlock s b) := by
  have hsp := spillBlock_spills (s := s) (b := b)
  unfold saveBlock
  extract_lets u ws mine c holds base inScr ts own moving staying m x v₁ v₂ v₃
  have hk : KeepsBlocks (v₃.modBlock b.id fun b => b.markSaved v₃.clk)
      (x.units.foldl (writeUnit b.ctx) (v₃.modBlock b.id fun b => b.markSaved v₃.clk)) := .foldl (fun _ _ => writeUnit_keepsBlocks) x.units _
  constructor
  case warps => exact hk.warps
  case mem => exact foldl_mem (fun _ _ => writeUnit_mem) _ _
  case accesses => rw [← hsp.accesses]; exact hk.accesses
  case blocks => rw [← hsp.blocks, ← hsp.clk]; exact hk.blocks
  case saved => rw [← hsp.saved, ← hsp.accesses]; exact ⟨x, hk.saved, rfl, rfl, rfl, rfl⟩

/-- The saved forms of a block's warps are those of the warps as they stand before the spill. -/
theorem mem_savedWarps {v : Warp} : v ∈ savedWarps s b ↔ ∃ w ∈ s.warps, w.blk = b.id ∧ savedWarp w = v := by
  obtain ⟨g, hg, hg'⟩ := (spillBlock_spills (s := s) (b := b)).warps
  simp only [savedWarps, hg, List.mem_map, List.mem_filter, beq_iff_eq]
  constructor
  · rintro ⟨_, ⟨⟨w, hw, rfl⟩, hb⟩, rfl⟩
    obtain ⟨-, gb, gs, -⟩ := hg' w
    exact ⟨w, hw, gb.symm.trans hb, gs.symm⟩
  · rintro ⟨w, hw, hb, rfl⟩
    obtain ⟨-, gb, gs, -⟩ := hg' w
    exact ⟨g w, ⟨⟨w, hw, rfl⟩, gb.trans hb⟩, gs⟩

/-- An access waits in a warp of a block. -/
def waitsIn (s : State) (b : Block) (a : Access) : Prop := ∃ w ∈ s.warps, w.blk = b.id ∧ w.key = a.w

theorem savedWarps_any {a : Access} : ((savedWarps s b).any fun w => w.key == a.w) = true ↔ waitsIn s b a := by
  simp only [List.any_eq_true, beq_iff_eq, waitsIn]
  constructor
  · rintro ⟨_, hv, hk⟩
    obtain ⟨w, hw, hb, rfl⟩ := mem_savedWarps.mp hv
    exact ⟨w, hw, hb, hk⟩
  · rintro ⟨w, hw, hb, hk⟩
    exact ⟨savedWarp w, mem_savedWarps.mpr ⟨w, hw, hb, rfl⟩, hk⟩

theorem eq_of_key {w v : Warp} (hn : (s.warps.map (·.key)).Nodup) (hw : w ∈ s.warps) (hv : v ∈ s.warps) (h : w.key = v.key) : w = v :=
  List.inj_on_of_nodup_map hn hw hv h

/-- The warps of other blocks stay as they are, when no two warps share a slot. -/
theorem saveBlock_warps (hn : (s.warps.map (·.key)).Nodup) : (saveBlock s b).warps = s.warps.filter fun w => w.blk != b.id := by
  obtain ⟨g, hg, hg'⟩ := (spillBlock_spills (s := s) (b := b)).warps
  have hp : ((fun w : Warp => w.blk != b.id) ∘ g) = fun w => w.blk != b.id := by
    funext w
    obtain ⟨-, gb, -, -⟩ := hg' w
    simp [gb]
  rw [(saveBlock_saves s b).warps, hg, List.filter_map, hp]
  refine (List.map_congr_left fun w hw => ?_).trans (List.map_id _)
  obtain ⟨hw, hb⟩ := List.mem_filter.mp hw
  obtain ⟨-, -, -, gn⟩ := hg' w
  refine gn ?_
  rintro ⟨v, hv, hvb, hk⟩
  rw [eq_of_key hn hv hw hk] at hvb
  simp [hvb] at hb

theorem mem_saveBlock_accesses {a : Access} : a ∈ (saveBlock s b).accesses ↔ a ∈ s.accesses ∧ ¬ waitsIn s b a := by
  rw [(saveBlock_saves s b).accesses, List.mem_filter, Bool.not_eq_true', ← Bool.not_eq_true, savedWarps_any]

theorem saveBlock_mem (h : NoStacks s) : (saveBlock s b).mem = s.mem := (saveBlock_saves s b).mem.trans (spillBlock_mem h)

theorem mem_saveBlock_saved (h : x ∈ s.saved) : x ∈ (saveBlock s b).saved := by
  obtain ⟨y, hy, -⟩ := (saveBlock_saves s b).saved
  rw [hy]; exact List.mem_append_left _ h

/-- A record holds what stands of a block in a state: its warps in their saved form, their waits, and, where no stack has an entry that
would be spilled into it, its scratch (R331). -/
structure HoldsBlock (s : State) (c : Block) (x : SavedBlock) : Prop where
  blk : x.blk = c.id
  warps : ∀ w ∈ s.warps, w.blk = c.id → savedWarp w ∈ x.warps
  waits : ∀ a ∈ s.accesses, waitsIn s c a → a ∈ x.waits
  scratch : NoStacks s → ∀ v ∈ s.mem, scratchKey c.core c.scr ≤ v.1 → v.1 < scratchKey c.core c.scr + c.scrLen → v ∈ x.scratch

theorem saveBlock_holds : ∃ x ∈ (saveBlock s b).saved, HoldsBlock s b x := by
  obtain ⟨x, hx, hblk, hws, hwaits, hscr⟩ := (saveBlock_saves s b).saved
  refine ⟨x, hx ▸ List.mem_append_right _ (List.mem_singleton_self x), hblk, fun w hw hb => ?_, fun a ha hw => ?_, fun hn v hv hlo hhi => ?_⟩
  · rw [hws]; exact mem_savedWarps.mpr ⟨w, hw, hb, rfl⟩
  · rw [hwaits]; exact List.mem_filter.mpr ⟨ha, savedWarps_any.mpr hw⟩
  · rw [hscr, spillBlock_mem hn]; exact List.mem_filter.mpr ⟨hv, by simp [hlo, hhi]⟩

theorem NoStacks.saveBlock (hn : (s.warps.map (·.key)).Nodup) (h : NoStacks s) : NoStacks (saveBlock s b) := fun w hw =>
  h w (by rw [saveBlock_warps hn] at hw; exact (List.mem_filter.mp hw).1)

theorem mem_saveBlock_warps {w : Warp} (hn : (s.warps.map (·.key)).Nodup) : w ∈ (saveBlock s b).warps ↔ w ∈ s.warps ∧ w.blk ≠ b.id := by
  rw [saveBlock_warps hn, List.mem_filter, bne_iff_ne]

theorem waitsIn_saveBlock {a : Access} (hn : (s.warps.map (·.key)).Nodup) (hbc : c.id ≠ b.id) (h : waitsIn s c a) :
    waitsIn (saveBlock s b) c a ∧ ¬ waitsIn s b a := by
  obtain ⟨w, hw, hb, hk⟩ := h
  refine ⟨⟨w, (mem_saveBlock_warps hn).mpr ⟨hw, by rwa [hb]⟩, hb, hk⟩, ?_⟩
  rintro ⟨v, hv, hb', hk'⟩
  rw [eq_of_key hn hw hv (hk.trans hk'.symm)] at hb
  exact hbc (hb.symm.trans hb')

/-- What a block is once another has been saved is what it was. -/
theorem HoldsBlock.of_saveBlock (hn : (s.warps.map (·.key)).Nodup) (hbc : c.id ≠ b.id) (h : HoldsBlock (saveBlock s b) c x) :
    HoldsBlock s c x where
  blk := h.blk
  warps w hw hb := h.warps w ((mem_saveBlock_warps hn).mpr ⟨hw, by rwa [hb]⟩) hb
  waits a ha hw := by
    obtain ⟨h1, h2⟩ := waitsIn_saveBlock hn hbc hw
    exact h.waits a (mem_saveBlock_accesses.mpr ⟨ha, h2⟩) h1
  scratch hs v hv := h.scratch (hs.saveBlock hn) v (by rwa [saveBlock_mem hs])

/-! ### Saving the blocks of a cluster -/

theorem nodup_saveBlock (hn : (s.warps.map (·.key)).Nodup) : ((saveBlock s b).warps.map (·.key)).Nodup := by
  rw [saveBlock_warps hn]
  exact hn.sublist (List.filter_sublist.map _)

variable {bs : List Block}

theorem mem_saveBlocks_warps {w : Warp} (hn : (s.warps.map (·.key)).Nodup) :
    w ∈ (bs.foldl saveBlock s).warps ↔ w ∈ s.warps ∧ ∀ c ∈ bs, w.blk ≠ c.id := by
  induction bs generalizing s with
  | nil => simp
  | cons b r ih => rw [List.foldl_cons, ih (nodup_saveBlock hn), mem_saveBlock_warps hn, List.forall_mem_cons, and_assoc]

theorem of_mem_saveBlocks_accesses {a : Access} (h : a ∈ (bs.foldl saveBlock s).accesses) : a ∈ s.accesses := by
  induction bs generalizing s with
  | nil => exact h
  | cons b r ih => exact (mem_saveBlock_accesses.mp (ih h)).1

theorem not_mem_saveBlocks_accesses {a : Access} (hn : (s.warps.map (·.key)).Nodup) (hi : (bs.map (·.id)).Nodup) (hc : c ∈ bs)
    (ha : waitsIn s c a) : a ∉ (bs.foldl saveBlock s).accesses := by
  induction bs generalizing s with
  | nil => cases hc
  | cons b r ih =>
    obtain ⟨hb, hr⟩ := List.nodup_cons.mp hi
    obtain _ | ⟨_, hc⟩ := hc
    · exact fun h => (mem_saveBlock_accesses.mp (of_mem_saveBlocks_accesses h)).2 ha
    · have hne : c.id ≠ b.id := fun h => hb (List.mem_map.mpr ⟨c, hc, h⟩)
      exact ih (nodup_saveBlock hn) hr hc (waitsIn_saveBlock hn hne ha).1

theorem mem_saveBlocks_saved (h : x ∈ s.saved) : x ∈ (bs.foldl saveBlock s).saved := by
  induction bs generalizing s with
  | nil => exact h
  | cons b r ih => exact ih (mem_saveBlock_saved h)

theorem saveBlocks_holds (hn : (s.warps.map (·.key)).Nodup) (hi : (bs.map (·.id)).Nodup) (hc : c ∈ bs) :
    ∃ x ∈ (bs.foldl saveBlock s).saved, HoldsBlock s c x := by
  induction bs generalizing s with
  | nil => cases hc
  | cons b r ih =>
    obtain ⟨hb, hr⟩ := List.nodup_cons.mp hi
    obtain _ | ⟨_, hc⟩ := hc
    · obtain ⟨x, hx, hh⟩ := saveBlock_holds (s := s) (b := c)
      exact ⟨x, mem_saveBlocks_saved (s := saveBlock s c) hx, hh⟩
    · have hne : c.id ≠ b.id := fun h => hb (List.mem_map.mpr ⟨c, hc, h⟩)
      obtain ⟨x, hx, hh⟩ := ih (nodup_saveBlock hn) hr hc
      exact ⟨x, hx, hh.of_saveBlock hn hne⟩

theorem blockAt_of_mem {i : Nat} (h : ∃ b ∈ s.blocks, b.id = i) : s.blockAt i ∈ s.blocks ∧ (s.blockAt i).id = i := by
  obtain ⟨b, hb, hi⟩ := h
  obtain ⟨y, hy⟩ := Option.isSome_iff_exists.mp (List.find?_isSome (p := fun x : Block => x.id == i).mpr ⟨b, hb, beq_iff_eq.mpr hi⟩)
  rw [State.blockAt, findD, hy]
  exact ⟨List.mem_of_find?_eq_some hy, by simpa using List.find?_some hy⟩

/-- A block is there and saved. -/
def IsSaved (s : State) (i : Nat) : Prop := (∃ b ∈ s.blocks, b.id = i) ∧ ∀ b ∈ s.blocks, b.id = i → b.saved = true

theorem IsSaved.blockAt {i : Nat} (h : IsSaved s i) : (s.blockAt i).saved = true :=
  h.2 _ (blockAt_of_mem h.1).1 (blockAt_of_mem h.1).2

theorem isSaved_saveBlock {i : Nat} (h : ∃ b ∈ s.blocks, b.id = i) (hs : i = b.id ∨ IsSaved s i) : IsSaved (saveBlock s b) i := by
  rw [IsSaved, (saveBlock_saves s b).blocks]
  obtain ⟨y, hy, hi⟩ := h
  refine ⟨⟨_, List.mem_map.mpr ⟨y, hy, rfl⟩, ?_⟩, fun z hz hzi => ?_⟩
  · split <;> exact hi
  · obtain ⟨y, hy, rfl⟩ := List.mem_map.mp hz
    by_cases hyb : y.id = b.id
    · rw [if_pos (beq_iff_eq.mpr hyb)]; rfl
    · rw [if_neg (mt beq_iff_eq.mp hyb)] at hzi ⊢
      obtain rfl | hs := hs
      · exact absurd hzi hyb
      · exact hs.2 y hy hzi

theorem IsSaved.saveBlocks {i : Nat} (h : IsSaved s i) : IsSaved (bs.foldl saveBlock s) i := by
  induction bs generalizing s with
  | nil => exact h
  | cons b r ih => exact ih (isSaved_saveBlock h.1 (.inr h))

theorem saveBlocks_saved (hc : c ∈ bs) (h : ∃ b ∈ s.blocks, b.id = c.id) : IsSaved (bs.foldl saveBlock s) c.id := by
  induction bs generalizing s with
  | nil => cases hc
  | cons b r ih =>
    obtain _ | ⟨_, hc⟩ := hc
    · exact (isSaved_saveBlock (b := c) h (.inl rfl)).saveBlocks
    · refine ih hc ?_
      obtain ⟨y, hy, hi⟩ := h
      rw [(saveBlock_saves s b).blocks]
      exact ⟨_, List.mem_map.mpr ⟨y, hy, rfl⟩, by split <;> exact hi⟩

end
end Sys2Proof.Machine

namespace Sys2Proof.Machine

section
variable {s t u : State} {b c : Block} {x : SavedBlock} {core blk : Nat}

theorem mem_clusterAll {l cl : Nat} (h : c ∈ clusterAll s l cl) : c ∈ s.blocks ∧ c.launch = l ∧ c.cluster = cl := by
  rw [clusterAll] at h
  split at h
  · cases h
  · simpa using List.mem_filter.mp h

theorem nodup_clusterAll {l cl : Nat} (h : (s.blocks.map (·.id)).Nodup) : ((clusterAll s l cl).map (·.id)).Nodup := by
  rw [clusterAll]; split
  · exact List.nodup_nil
  · exact h.sublist (List.filter_sublist.map _)

/-! ### Placing a saved block (R331) -/

/-- A list that grows by one element in each step that succeeds. -/
theorem length_foldl_bind {α β : Type} {f : List α → β → Option (List α)} (hf : ∀ ks i ks', f ks i = some ks' → ks'.length = ks.length + 1) :
    ∀ (l : List β) (ks ks' : List α), l.foldl (fun (a : Option (List α)) i => a.bind fun ks => f ks i) (some ks) = some ks' →
      ks'.length = ks.length + l.length
  | [], ks, ks', h => by cases h; rfl
  | i :: r, ks, ks', h => by
    rw [List.foldl_cons, Option.bind_some] at h
    cases hi : f ks i with
    | none =>
      have hn : r.foldl (fun (a : Option (List α)) i => a.bind fun ks => f ks i) none = none :=
        List.foldlRecOn (motive := fun a : Option (List α) => a = none) r _ rfl fun _ h _ _ => by rw [h]; rfl
      rw [hi, hn] at h; cases h
    | some ks₁ =>
      rw [hi] at h
      rw [length_foldl_bind hf r ks₁ ks' h, hf ks i ks₁ hi, List.length_cons]; omega

theorem planWarps_length {nreg n : Nat} {ks : List WarpKey} (h : planWarps s core nreg n = some ks) : ks.length = n := by
  have := length_foldl_bind (fun ks i ks' hi => ?_) (List.range n) [] ks h
  · simpa using this
  · dsimp only at hi
    split at hi
    · cases hi
    · obtain ⟨t, -, rfl⟩ := Option.map_eq_some_iff.mp hi
      exact List.length_append

theorem ownSlots?_length {nreg : Nat} {ws : List Warp} {ks : List WarpKey} (h : ownSlots? s core nreg ws = some ks) :
    ks.length = ws.length := by
  unfold ownSlots? at h
  extract_lets ks' fits at h
  split at h
  · rw [← Option.some.inj h]; exact List.length_map _
  · cases h

theorem rekeyBlock_warps {m : List (WarpKey × WarpKey)} : (rekeyBlock s x m core).warps = s.warps := rfl
theorem rekeyBlock_blocks {m : List (WarpKey × WarpKey)} : (rekeyBlock s x m core).blocks = s.blocks := rfl
theorem rekeyBlock_saved {m : List (WarpKey × WarpKey)} : (rekeyBlock s x m core).saved = s.saved := rfl

theorem readUnits_keepsBlocks {y : Nat} {ks : List WarpKey} {us : List Nat} :
    KeepsBlocks s (us.foldl (touchUnit y .rd) (emptyRuns (dropL1 s core) y ks)) :=
  ((dropL1_keepsBlocks (i := core)).trans (by constructor <;> rfl)).trans (.foldl (fun _ _ => touchUnit_keepsBlocks) us _)

/-- What a saved block's return to a core leaves. -/
theorem placeSaved_some (h : placeSaved s blk core = some u) (hx : s.savedAt? blk = some x) :
    ∃ (ks : List WarpKey) (off : Nat), ks.length = x.warps.length ∧
      u.warps = s.warps ++ (x.warps.zip ks).map (fun v => { v.1 with key := v.2, restoring := true, since := s.clk }) ∧
      u.blocks = mapIf (fun y => y.id == blk) (fun b =>
        { b with core := core, scr := off, warps := ks, since := s.clk, saved := false, target := none }) s.blocks ∧
      u.saved = s.saved.filter fun y => y.blk != blk := by
  unfold placeSaved at h
  rw [hx] at h
  dsimp only at h
  split at h
  · cases h
  split at h
  · cases h
  split at h
  · cases h
  split at h
  · rename_i ks off hplan hoff
    have hlen : ks.length = x.warps.length := by
      split at hplan
      · exact ownSlots?_length hplan
      · exact planWarps_length hplan
    refine ⟨ks, off, hlen, ?_, ?_, ?_⟩
    · rw [← Option.some.inj h, rekeyBlock_warps, readUnits_keepsBlocks.warps]; rfl
    · rw [← Option.some.inj h, rekeyBlock_blocks, readUnits_keepsBlocks.blocks]; rfl
    · rw [← Option.some.inj h, rekeyBlock_saved, readUnits_keepsBlocks.saved]; rfl
  · cases h

end
end Sys2Proof.Machine

namespace Sys2Proof.Machine

/-! ### Readings of the cones (R314) -/

/-- Blocks only stop for save: of each block nothing but its mark and its target differs, and no mark goes. -/
def BlocksStop (l l' : List Block) : Prop :=
  ∃ g : Block → Block, l' = l.map g ∧ ∀ b, g b = { b with saving := (g b).saving, target := (g b).target } ∧
    (b.saving.isSome = true → (g b).saving.isSome = true)

/-- What the readings of cones may change: the cores, the marks of the blocks, and the log. -/
structure ConesRead (s t : State) : Prop where
  only : t = { s with cores := t.cores, blocks := t.blocks, kilnLog := t.kilnLog }
  blocks : BlocksStop s.blocks t.blocks

section
variable {s t u : State} {rs : List ConeReading} {r : ConeReading} {b : Block} {core : Nat}

theorem BlocksStop.refl (l : List Block) : BlocksStop l l := ⟨id, (List.map_id l).symm, fun _ => ⟨rfl, id⟩⟩

theorem BlocksStop.trans {l l' l'' : List Block} (h : BlocksStop l l') (i : BlocksStop l' l'') : BlocksStop l l'' := by
  obtain ⟨g, rfl, hg⟩ := h
  obtain ⟨f, rfl, hf⟩ := i
  refine ⟨f ∘ g, List.map_map, fun b => ⟨?_, fun hb => (hf _).2 ((hg b).2 hb)⟩⟩
  show f (g b) = { b with saving := (f (g b)).saving, target := (f (g b)).target }
  rw [(hf (g b)).1, (hg b).1]

theorem ConesRead.refl (s : State) : ConesRead s s := ⟨rfl, .refl _⟩

theorem ConesRead.trans (h : ConesRead s t) (i : ConesRead t u) : ConesRead s u :=
  ⟨i.only.trans (by rw [h.only]), h.blocks.trans i.blocks⟩

theorem ConesRead.foldl {α : Type} {f : State → α → State} (hf : ∀ s x, ConesRead s (f s x)) (l : List α) (s : State) :
    ConesRead s (l.foldl f s) := by
  induction l generalizing s with
  | nil => exact refl s
  | cons x r ih => exact (hf s x).trans (ih _)

theorem ConesRead.clk (h : ConesRead s t) : t.clk = s.clk := by rw [h.only]
theorem ConesRead.droopMax (h : ConesRead s t) : t.droopMax = s.droopMax := by rw [h.only]

theorem blockAt_map {g : Block → Block} {i : Nat} (hg : t.blocks = s.blocks.map g) (hid : ∀ b, (g b).id = b.id) (hb : ∃ b ∈ s.blocks, b.id = i) :
    t.blockAt i = g (s.blockAt i) := by
  obtain ⟨y, hy⟩ := Option.isSome_iff_exists.mp
    (List.find?_isSome (p := fun x : Block => x.id == i) |>.mpr (hb.imp fun b hb => ⟨hb.1, beq_iff_eq.mpr hb.2⟩))
  rw [State.blockAt, findD, hg, find?_map_of_eq _ g fun x => by rw [hid], State.blockAt, findD, hy]; rfl

/-- A block that is there is found again, and its mark has not gone. -/
theorem ConesRead.blockAt (h : ConesRead s t) (hb : ∃ b ∈ s.blocks, b.id = core) :
    (∃ sv tg, t.blockAt core = { s.blockAt core with saving := sv, target := tg }) ∧
      ((s.blockAt core).saving.isSome = true → (t.blockAt core).saving.isSome = true) := by
  obtain ⟨g, hg, hg'⟩ := h.blocks
  rw [blockAt_map hg (fun b => by rw [(hg' b).1]) hb]
  exact ⟨⟨_, _, (hg' _).1⟩, (hg' _).2⟩

theorem ConesRead.block_mem (h : ConesRead s t) {i : Nat} (hb : ∃ b ∈ s.blocks, b.id = i) : ∃ b ∈ t.blocks, b.id = i := by
  obtain ⟨g, hg, hg'⟩ := h.blocks
  obtain ⟨b, hb, hi⟩ := hb
  exact ⟨g b, hg ▸ List.mem_map_of_mem hb, by rw [(hg' b).1]; exact hi⟩

/-- A block of a cluster whose blocks stop for save to migrate (R314). -/
def stopBlock (v : Nat × Nat) (ts : List (Nat × Nat)) (b : Block) : Block :=
  if b.launch == v.1 && b.cluster == v.2 then
    { b with
      saving := if b.retired || b.saved then b.saving else some true
      target := smFind ts b.id }
  else b

theorem stopForSave_blocks {v : Nat × Nat} {ts : List (Nat × Nat)} :
    (stopForSave s v (some ts)).blocks = s.blocks.map (stopBlock v ts) := rfl

theorem stopBlock_id (v : Nat × Nat) (ts : List (Nat × Nat)) (b : Block) : (stopBlock v ts b).id = b.id := by
  rw [stopBlock]; split <;> rfl

theorem stopForSave_conesRead {v : Nat × Nat} {ts : List (Nat × Nat)} : ConesRead s (stopForSave s v (some ts)) := by
  refine ⟨rfl, stopBlock v ts, rfl, fun b => ?_⟩
  unfold stopBlock
  split
  · refine ⟨rfl, fun hb => ?_⟩
    dsimp only
    split
    · exact hb
    · rfl
  · exact ⟨rfl, id⟩

/-- What a hot reading does for one old block of its core. -/
def coneBlock (rs : List ConeReading) (core : Nat) (s : State) (b : Block) : State :=
  if (s.blockAt b.id).saving.isSome then s
  else match (if mayMigrate s (b.launch, b.cluster) then targetsOf s rs b else none) with
    | some ts => stopForSave s (b.launch, b.cluster) (some ts)
    | none => s.modCore core fun c => { c with throttled := true }

/-- The state in which a hot reading stands in the log. -/
def logCone (s : State) (r : ConeReading) : State := addLog s 4095 1 (r.core + r.temp % 256 * 256)

theorem readCone_cool (h : coneHot s r = false) : readCone rs s r = s.modCore r.core fun c => { c with throttled := false } := by
  rw [readCone, h]; rfl

theorem readCone_hot (h : coneHot s r = true) : readCone rs s r =
    ((logCone s r).blocks.filter fun b => b.core == r.core && asksMigration (logCone s r) rs b).foldl (coneBlock rs r.core) (logCone s r) := by
  rw [readCone, if_neg (by simp [h])]
  refine congrArg (fun f => List.foldl f _ _) (funext₂ fun t b => ?_)
  unfold coneBlock
  generalize (if mayMigrate t (b.launch, b.cluster) then targetsOf t rs b else none) = o
  cases o <;> rfl

theorem coneBlock_conesRead : ConesRead s (coneBlock rs core s b) := by
  rw [coneBlock]; split
  · exact .refl s
  · split
    · exact stopForSave_conesRead
    · exact ⟨rfl, .refl _⟩

theorem logCone_conesRead : ConesRead s (logCone s r) := by
  obtain ⟨l, h⟩ : ∃ l, logCone s r = { s with kilnLog := l } := ⟨_, by rw [logCone, addLog]⟩
  rw [h]; exact ⟨rfl, .refl _⟩

theorem readCone_conesRead : ConesRead s (readCone rs s r) := by
  cases h : coneHot s r with
  | false => rw [readCone_cool h]; exact ⟨rfl, .refl _⟩
  | true => rw [readCone_hot h]; exact logCone_conesRead.trans (.foldl (fun _ _ => coneBlock_conesRead) _ _)

/-! #### Throttling -/

theorem throttled_modCore {c d : Nat} {v : Bool} :
    ((s.modCore c fun x => { x with throttled := v }).coreAt d).throttled = if c = d then v else (s.coreAt d).throttled := by
  rw [coreAt_modCore (f := fun x => { x with throttled := v }) fun _ => rfl]; split <;> rfl

/-- One core may have been throttled; every other is as it was. -/
def Throttles (core : Nat) (s t : State) : Prop :=
  ∀ c, (t.coreAt c).throttled = (s.coreAt c).throttled ∨ (c = core ∧ (t.coreAt c).throttled = true)

theorem Throttles.refl (core : Nat) (s : State) : Throttles core s s := fun _ => .inl rfl

theorem Throttles.of_cores (h : t.cores = s.cores) : Throttles core s t := fun c => .inl (by rw [State.coreAt, h]; rfl)

theorem Throttles.trans (h : Throttles core s t) (i : Throttles core t u) : Throttles core s u := fun c => by
  obtain e | ⟨rfl, e⟩ := i c
  · rw [e]; exact h c
  · exact .inr ⟨rfl, e⟩

theorem Throttles.foldl {α : Type} {f : State → α → State} (hf : ∀ s x, Throttles core s (f s x)) (l : List α) (s : State) :
    Throttles core s (l.foldl f s) := by
  induction l generalizing s with
  | nil => exact refl core s
  | cons x r ih => exact (hf s x).trans (ih _)

theorem Throttles.stays (h : Throttles core s t) (hc : (s.coreAt core).throttled = true) : (t.coreAt core).throttled = true := by
  obtain e | ⟨-, e⟩ := h core
  · exact e.trans hc
  · exact e

theorem Throttles.other (h : Throttles core s t) {c : Nat} (hc : c ≠ core) : (t.coreAt c).throttled = (s.coreAt c).throttled :=
  (h c).resolve_right fun e => hc e.1

theorem coneBlock_throttles : Throttles core s (coneBlock rs core s b) := by
  rw [coneBlock]; split
  · exact .refl core s
  · split
    · exact .of_cores rfl
    · intro c
      rw [throttled_modCore]
      by_cases h : core = c
      · rw [if_pos h]; exact .inr ⟨h.symm, rfl⟩
      · rw [if_neg h]; exact .inl rfl

theorem readCone_other {c : Nat} (hc : c ≠ r.core) : ((readCone rs s r).coreAt c).throttled = (s.coreAt c).throttled := by
  cases h : coneHot s r with
  | false => rw [readCone_cool h, throttled_modCore, if_neg hc.symm]
  | true =>
    rw [readCone_hot h]
    exact ((Throttles.of_cores (core := r.core) (by rw [logCone, addLog])).trans (.foldl (fun _ _ => coneBlock_throttles) _ _)).other hc

/-! #### Blocks that a hot reading asks to migrate -/

/-- A block stops for save, or its core is throttled. -/
def Answered (s : State) (i core : Nat) : Prop := (s.blockAt i).saving.isSome = true ∨ (s.coreAt core).throttled = true

theorem Answered.stays {i : Nat} (h : Answered s i core) (hb : ∃ b ∈ s.blocks, b.id = i) (hc : ConesRead s t) (ht : Throttles core s t) :
    Answered t i core :=
  h.imp (hc.blockAt hb).2 ht.stays

theorem stopForSave_saving {ts : List (Nat × Nat)} (hb : ∃ x ∈ s.blocks, x.id = b.id) (hl : (s.blockAt b.id).launch = b.launch)
    (hc : (s.blockAt b.id).cluster = b.cluster) (hr : (s.blockAt b.id).retired = false) (hs : (s.blockAt b.id).saved = false) :
    ((stopForSave s (b.launch, b.cluster) (some ts)).blockAt b.id).saving = some true := by
  rw [blockAt_map stopForSave_blocks (stopBlock_id _ ts) hb, stopBlock]
  simp [hl, hc, hr, hs]

theorem coneBlock_answers (hb : ∃ x ∈ s.blocks, x.id = b.id) (hl : (s.blockAt b.id).launch = b.launch)
    (hc : (s.blockAt b.id).cluster = b.cluster) (hr : (s.blockAt b.id).retired = false) (hs : (s.blockAt b.id).saved = false) :
    Answered (coneBlock rs core s b) b.id core := by
  rw [coneBlock]; split
  · exact .inl ‹_›
  · split
    · exact .inl (by rw [stopForSave_saving hb hl hc hr hs]; rfl)
    · exact .inr (by rw [throttled_modCore, if_pos rfl])

theorem foldl_coneBlock_answers {l : List Block} (hm : b ∈ l) (hb : ∃ x ∈ s.blocks, x.id = b.id) (hl : (s.blockAt b.id).launch = b.launch)
    (hc : (s.blockAt b.id).cluster = b.cluster) (hr : (s.blockAt b.id).retired = false) (hs : (s.blockAt b.id).saved = false) :
    Answered (l.foldl (coneBlock rs core) s) b.id core := by
  induction l generalizing s with
  | nil => cases hm
  | cons x r ih =>
    have hread : ConesRead s (coneBlock rs core s x) := coneBlock_conesRead
    obtain _ | ⟨_, hm⟩ := hm
    · exact (coneBlock_answers hb hl hc hr hs).stays (hread.block_mem hb) (.foldl (fun _ _ => coneBlock_conesRead) r _)
        (.foldl (fun _ _ => coneBlock_throttles) r _)
    · obtain ⟨sv, tg, he⟩ := (hread.blockAt hb).1
      exact ih hm (hread.block_mem hb) (by rw [he]; exact hl) (by rw [he]; exact hc) (by rw [he]; exact hr) (by rw [he]; exact hs)

end
end Sys2Proof.Machine

namespace Sys2Proof.Machine

section
variable {s t u : State} {rs : List ConeReading} {r : ConeReading} {b : Block} {core : Nat}

/-! #### The entry of a hot reading in the log (R314, R351) -/

/-- No entry comes from a source above the Kiln's own. -/
def KilnSources (l : List LogEntry) : Prop := ∀ e ∈ l, e.src ≤ 4095

/-- The entry of a hot reading. -/
def coneEntry (s : State) (r : ConeReading) : LogEntry := ⟨s.ts, 4095, 1, r.core + r.temp % 256 * 256⟩

theorem insertLog_kilnSources {l : List LogEntry} {e : LogEntry} (h : KilnSources l) (he : e.src = 4095) : insertLog l e = l ++ [e] := by
  have hn : (l.reverse.takeWhile fun x => x.ts == e.ts && e.src < x.src) = [] := by
    refine List.takeWhile_eq_nil_iff.mpr fun hl => ?_
    have := h _ (List.mem_reverse.mp (List.get_mem _ ⟨0, hl⟩))
    simp only [Bool.and_eq_true, decide_eq_true_eq, not_and, not_lt]
    intro _; omega
  simp only [insertLog, hn]
  simp

theorem logCone_kilnLog (h : KilnSources s.kilnLog) :
    (logCone s r).kilnLog = (s.kilnLog ++ [coneEntry s r]).drop ((s.kilnLog ++ [coneEntry s r]).length - 4096) := by
  rw [← insertLog_kilnSources h rfl, logCone, addLog, coneEntry]

theorem coneBlock_kilnLog : (coneBlock rs core s b).kilnLog = s.kilnLog := by
  rw [coneBlock]; split
  · rfl
  · split <;> rfl

theorem foldl_coneBlock_kilnLog {l : List Block} : (l.foldl (coneBlock rs core) s).kilnLog = s.kilnLog := by
  induction l generalizing s with
  | nil => rfl
  | cons x r ih => exact ih.trans coneBlock_kilnLog

/-- A reading leaves the log as it is, or it is hot and its entry stands last. -/
theorem readCone_kilnLog : (readCone rs s r).kilnLog = if coneHot s r then (logCone s r).kilnLog else s.kilnLog := by
  cases h : coneHot s r with
  | false => rw [readCone_cool h, if_neg Bool.false_ne_true]; rfl
  | true => rw [readCone_hot h, if_pos rfl]; exact foldl_coneBlock_kilnLog

theorem readCone_kilnSources (h : KilnSources s.kilnLog) : KilnSources (readCone rs s r).kilnLog := by
  rw [readCone_kilnLog]; split
  · rw [logCone_kilnLog h]
    intro e he
    obtain he | he := List.mem_append.mp (List.mem_of_mem_drop he)
    · exact h e he
    · rw [List.mem_singleton.mp he]; exact le_refl 4095
  · exact h

/-- An entry stands in a log with at most `n` behind it. -/
def StandsBefore (n : Nat) (e : LogEntry) (l : List LogEntry) : Prop := ∃ i, ∃ h : i < l.length, l[i] = e ∧ l.length ≤ i + n + 1

theorem StandsBefore.mem {n : Nat} {e : LogEntry} {l : List LogEntry} (h : StandsBefore n e l) : e ∈ l := by
  obtain ⟨i, hi, rfl, -⟩ := h
  exact List.getElem_mem hi

theorem StandsBefore.mono {n m : Nat} {e : LogEntry} {l : List LogEntry} (h : StandsBefore n e l) (hm : n ≤ m) : StandsBefore m e l := by
  obtain ⟨i, hi, he, hl⟩ := h
  exact ⟨i, hi, he, by omega⟩

theorem StandsBefore.push {n : Nat} {e d : LogEntry} {l : List LogEntry} (h : StandsBefore n e l) (hn : n + 2 ≤ 4096) :
    StandsBefore (n + 1) e ((l ++ [d]).drop ((l ++ [d]).length - 4096)) := by
  obtain ⟨i, hi, he, hl⟩ := h
  have hlen : (l ++ [d]).length = l.length + 1 := by simp
  refine ⟨i - ((l ++ [d]).length - 4096), by rw [List.length_drop]; omega, ?_, by rw [List.length_drop]; omega⟩
  rw [List.getElem_drop, List.getElem_append_left (by omega)]
  simpa only [show (l ++ [d]).length - 4096 + (i - ((l ++ [d]).length - 4096)) = i by omega] using he

theorem logCone_standsBefore (h : KilnSources s.kilnLog) : StandsBefore 0 (coneEntry s r) (logCone s r).kilnLog := by
  rw [logCone_kilnLog h]
  have hlen : (s.kilnLog ++ [coneEntry s r]).length = s.kilnLog.length + 1 := by simp
  refine ⟨s.kilnLog.length - ((s.kilnLog ++ [coneEntry s r]).length - 4096), by rw [List.length_drop]; omega, ?_,
    by rw [List.length_drop]; omega⟩
  rw [List.getElem_drop, List.getElem_append_right (by omega)]
  simp

theorem readCone_standsBefore {n : Nat} {e : LogEntry} (hk : KilnSources s.kilnLog) (h : StandsBefore n e s.kilnLog) (hn : n + 2 ≤ 4096) :
    StandsBefore (n + 1) e (readCone rs s r).kilnLog := by
  rw [readCone_kilnLog]; split
  · rw [logCone_kilnLog hk]; exact h.push hn
  · exact h.mono (Nat.le_succ n)

/-! #### All readings of an event -/

theorem readCones_conesRead {l : List ConeReading} : ConesRead s (l.foldl (readCone rs) s) := .foldl (fun _ _ => readCone_conesRead) l s

theorem readCones_kilnSources {l : List ConeReading} (h : KilnSources s.kilnLog) : KilnSources (l.foldl (readCone rs) s).kilnLog := by
  induction l generalizing s with
  | nil => exact h
  | cons x r ih => exact ih (readCone_kilnSources h)

theorem readCones_standsBefore {l : List ConeReading} {n : Nat} {e : LogEntry} (hk : KilnSources s.kilnLog) (h : StandsBefore n e s.kilnLog)
    (hn : n + l.length + 1 ≤ 4096) : StandsBefore (n + l.length) e (l.foldl (readCone rs) s).kilnLog := by
  induction l generalizing s n with
  | nil => exact h
  | cons x r ih =>
    rw [List.length_cons] at hn
    rw [List.length_cons, Nat.add_comm r.length, ← Nat.add_assoc]
    exact ih (readCone_kilnSources hk) (readCone_standsBefore hk h (by omega)) (by omega)

theorem readCones_other {l : List ConeReading} (h : ∀ q ∈ l, core ≠ q.core) :
    ((l.foldl (readCone rs) s).coreAt core).throttled = (s.coreAt core).throttled := by
  induction l generalizing s with
  | nil => rfl
  | cons x r ih => exact (ih fun q hq => h q (.tail _ hq)).trans (readCone_other (h x (.head _)))

theorem coneHot_eq_true : coneHot s r = true ↔ 95 < r.temp ∨ s.droopMax < r.droops := by
  simp only [coneHot, Bool.or_eq_true, decide_eq_true_eq]

theorem ConesRead.coneHot (h : ConesRead s t) : coneHot t r = coneHot s r := by rw [Machine.coneHot, h.droopMax]; rfl

theorem ConesRead.ts (h : ConesRead s t) : t.ts = s.ts := by rw [State.ts, h.clk]; rfl

/-- A hot reading stops an old block of its core for save, or throttles the core. -/
theorem readCone_answers (hr : r ∈ rs) (hh : Machine.coneHot s r = true) (hb : b ∈ s.blocks) (hat : s.blockAt b.id = b) (hcore : b.core = r.core)
    (hs : b.saved = false) (ht : b.retired = false) (hage : b.since + 2600000 ≤ s.clk) : Answered (readCone rs s r) b.id r.core := by
  have hlog : ConesRead s (logCone s r) := logCone_conesRead
  have hblocks : (logCone s r).blocks = s.blocks := by rw [logCone, addLog]
  have hb' : b ∈ (logCone s r).blocks := by rwa [hblocks]
  have hat' : (logCone s r).blockAt b.id = b := by rw [State.blockAt, hblocks, ← State.blockAt, hat]
  have hask : asksMigration (logCone s r) rs b = true := by
    have hany : (rs.any fun q => q.core == b.core && Machine.coneHot (logCone s r) q) = true :=
      List.any_eq_true.mpr ⟨r, hr, by rw [hlog.coneHot, hh, hcore]; simp⟩
    rw [asksMigration, hany, hlog.clk, hs, ht]
    simp [migrateAge, clkOfNs, ceilDiv, hage]
  rw [readCone_hot hh]
  refine foldl_coneBlock_answers (List.mem_filter.mpr ⟨hb', by rw [hask, hcore]; simp⟩) ⟨b, hb', rfl⟩ ?_ ?_ ?_ ?_ <;> rw [hat']
  · exact ht
  · exact hs

end

end Sys2Proof.Machine

namespace Sys2Proof.Claims

open Machine

section
variable {s t u : State} {id blk core : Nat}

theorem useFree_keepsBlocks : KeepsBlocks s s.useFree := by constructor <;> rfl

/-! ### DISPATCH_PLACE_BLOCK (R302, R311) -/

theorem dispatchPlaceBlock_places {q : Queue} {j : Job} {rest : List (Queue × Job)} (hq : queueOrder s = (q, j) :: rest) (hu : tryJob s j = some u) :
    (dispatch (queueOrder s) s).useFree = (afterPlace u q j).useFree := by
  rw [hq, dispatch_first (e := (q, j)) hu]

/-- A placed job's blocks, warps and core stand as its placing left them. -/
theorem dispatchPlaceBlock_keepsBlocks {q : Queue} {j : Job} {rest : List (Queue × Job)} (hq : queueOrder s = (q, j) :: rest)
    (hu : tryJob s j = some u) : KeepsBlocks u (dispatch (queueOrder s) s).useFree := by
  rw [dispatchPlaceBlock_places hq hu]
  exact afterPlace_keepsBlocks.trans useFree_keepsBlocks

theorem dispatchPlaceBlock_waits {q : Queue} {c : Nat} {l : Launch} (hq : queueOrder s = [(q, .fresh id c)])
    (hn : tryJob s (.fresh id c) = none) (hl : l ∈ s.launches) (hi : l.id = id) (hw : l.waitSince = none) :
    { l with waitSince := some s.clk, pref := some (jobPref s (.fresh id c)) } ∈ (dispatch (queueOrder s) s).useFree.launches := by
  subst hi
  rw [hq, dispatch, hn]
  exact beginWaitFor_launches hl hw

/-! ### PLACEMENT_WAIT_EXPIRY (R311, R313) -/

theorem waitOver_of_waitSince {l : Launch} {clk w : Nat} (h : l.waitSince = some w) :
    waitOver clk l = if w + 5200 ≤ clk then { l with waited := true } else l := by
  rw [waitOver, h]; rfl

theorem placementWaitExpiry_launches {c : Nat} {l : Launch} {w : Nat} (hj : .fresh id c ∈ jobsOf s id) (hl : l ∈ s.launches) (hi : l.id = id)
    (hw : l.waitSince = some w) :
    (w + 5200 ≤ s.clk → { l with waited := true } ∈ ((jobsOf s id).foldl expireJob s).launches) ∧
      (s.clk < w + 5200 → l ∈ ((jobsOf s id).foldl expireJob s).launches) := by
  subst hi
  have h := waitOver_mem_foldl hl hj
  rw [waitOver_of_waitSince hw] at h
  exact ⟨fun hle => by rwa [if_pos hle] at h, fun hlt => by rwa [if_neg (Nat.not_le.mpr hlt)] at h⟩

theorem expires_foldl_expireJob {js : List Job} : Expires s (js.foldl expireJob s) := .foldl (fun _ _ => expireJob_expires) js s

theorem useFree_of_expires (h : Expires s t) : t.useFree = { s with launches := t.launches, blocks := t.blocks, free := s.free + 1 } := by
  rw [h.only]; rfl

/-! ### CONTEXT_SAVE_COMPLETE (R330, R331) -/

/-- The blocks of a block's cluster that have not been saved. -/
def unsavedBlocks (s : State) (b : Block) : List Block := (clusterAll s b.launch b.cluster).filter fun c => !c.saved

theorem exec_contextSaveComplete : exec (.contextSaveComplete blk) s =
    .next (if saveReady s (s.blockAt blk) then (unsavedBlocks s (s.blockAt blk)).foldl saveBlock s else s) := rfl

theorem mem_unsavedBlocks {b c : Block} : c ∈ unsavedBlocks s b ↔ c ∈ clusterAll s b.launch b.cluster ∧ c.saved = false := by
  rw [unsavedBlocks, List.mem_filter, Bool.not_eq_true']

theorem nodup_unsavedBlocks {b : Block} (h : (s.blocks.map (·.id)).Nodup) : ((unsavedBlocks s b).map (·.id)).Nodup :=
  (nodup_clusterAll h).sublist (List.filter_sublist.map _)

/-- What the saving of a cluster's blocks leaves of one of them that has not been saved yet. -/
theorem saveBlocks_mine {bs : List Block} {c : Block} (hk : (s.warps.map (·.key)).Nodup) (hn : (bs.map (·.id)).Nodup) (hc : c ∈ bs)
    (hb : c ∈ s.blocks) :
    ((bs.foldl saveBlock s).blockAt c.id).saved = true ∧ (∀ w ∈ (bs.foldl saveBlock s).warps, w.blk ≠ c.id) ∧
      ∃ x ∈ (bs.foldl saveBlock s).saved, x.blk = c.id ∧ (∀ w ∈ s.warps, w.blk = c.id → savedWarp w ∈ x.warps) ∧
        (∀ a ∈ s.accesses, (∃ w ∈ s.warps, w.blk = c.id ∧ w.key = a.w) → a ∈ x.waits ∧ a ∉ (bs.foldl saveBlock s).accesses) ∧
        ((∀ w ∈ s.warps, ∀ l ∈ w.lanes, l.stk = [] ∧ l.hstk = []) →
          ∀ v ∈ s.mem, scratchKey c.core c.scr ≤ v.1 → v.1 < scratchKey c.core c.scr + c.scrLen → v ∈ x.scratch) := by
  obtain ⟨x, hx, hold⟩ := saveBlocks_holds hk hn hc
  refine ⟨(saveBlocks_saved hc ⟨c, hb, rfl⟩).blockAt, fun w hw => ((mem_saveBlocks_warps hk).mp hw).2 c hc, x, hx, hold.blk, hold.warps,
    fun a ha hw => ⟨hold.waits a ha hw, not_mem_saveBlocks_accesses hk hn hc hw⟩, hold.scratch⟩

/-! ### BLOCK_RESTORE (R302, R331) -/

/-- The job restores a block. -/
def restores (blk : Nat) (j : Job) : Bool := match j with | .restore _ _ bs => bs.contains blk | .fresh _ _ => false

theorem restores_iff {j : Job} : restores blk j = true ↔ ∃ l c bs, j = .restore l c bs ∧ blk ∈ bs := by
  cases j with
  | fresh id c => simp [restores]
  | restore l c bs => simp [restores]

/-- What BLOCK_RESTORE does when the first job that can be placed is known. -/
def restoreFirst (s : State) (blk : Nat) : Option (Queue × Job) → State
  | none => s
  | some e => if restores blk e.2 then (match tryJob s e.2 with | some t => afterPlace t e.1 e.2 | none => s).useFree else s

theorem execBlockRestore_eq : execBlockRestore blk s = .next (restoreFirst s blk ((queueOrder s).find? fun e => (tryJob s e.2).isSome)) := by
  rw [execBlockRestore, restoreFirst.eq_def]; rfl

theorem restoreFirst_other {e : Queue × Job} (h : ¬ ∃ l c bs, e.2 = .restore l c bs ∧ blk ∈ bs) : restoreFirst s blk (some e) = s :=
  if_neg fun hr => h (restores_iff.mp hr)

theorem restoreFirst_mine {e : Queue × Job} (h : ∃ l c bs, e.2 = .restore l c bs ∧ blk ∈ bs) (hu : tryJob s e.2 = some u) :
    restoreFirst s blk (some e) = (afterPlace u e.1 e.2).useFree := by
  rw [restoreFirst, if_pos (restores_iff.mpr h), hu]

/-- A saved block that has been placed again stands on its core with its warps, and its record is gone. -/
theorem placeSaved_restores {x : SavedBlock} (h : placeSaved s blk core = some u) (hx : s.savedAt? blk = some x) (hb : ∃ b ∈ s.blocks, b.id = blk) :
    (u.blockAt blk).saved = false ∧ (u.blockAt blk).core = core ∧ (∀ y ∈ u.saved, y.blk ≠ blk) ∧
      ∀ w ∈ x.warps, ∃ k, { w with key := k, restoring := true, since := s.clk } ∈ u.warps := by
  obtain ⟨ks, off, hlen, hwarps, hblocks, hsaved⟩ := placeSaved_some h hx
  have hat := blockAt_map (t := u) (i := blk) hblocks (fun b => by split <;> rfl) hb
  rw [if_pos (beq_iff_eq.mpr (blockAt_of_mem hb).2)] at hat
  refine ⟨by rw [hat], by rw [hat], fun y hy => ?_, fun w hw => ?_⟩
  · rw [hsaved] at hy
    simpa using (List.mem_filter.mp hy).2
  · obtain ⟨i, hi, rfl⟩ := List.getElem_of_mem hw
    refine ⟨ks[i], hwarps ▸ List.mem_append_right _ (List.mem_map.mpr ⟨(x.warps[i], ks[i]), ?_, rfl⟩)⟩
    exact List.mem_iff_getElem.mpr ⟨i, by simp only [List.length_zip]; omega, List.getElem_zip⟩

/-! ### KILN_CONE_READ (R314) -/

/-- An event's readings split at one of them: those behind it are of other cores. -/
theorem exists_split_readings {rs : List ConeReading} {r : ConeReading} (hr : r ∈ rs) (hn : (rs.map fun q => q.core).Nodup) :
    ∃ before behind, rs = before ++ r :: behind ∧ ∀ q ∈ behind, r.core ≠ q.core := by
  obtain ⟨before, behind, rfl⟩ := List.append_of_mem hr
  rw [List.map_append, List.map_cons, List.nodup_append, List.nodup_cons] at hn
  obtain ⟨-, ⟨hr, -⟩, -⟩ := hn
  exact ⟨before, behind, rfl, fun q hq he => hr (he ▸ List.mem_map_of_mem hq)⟩

section
variable {rs before behind : List ConeReading} {r : ConeReading} {b : Block}

theorem foldl_readCone_split :
    (before ++ r :: behind).foldl (readCone rs) s = behind.foldl (readCone rs) (readCone rs (before.foldl (readCone rs) s) r) := by
  rw [List.foldl_append, List.foldl_cons]

theorem readCones_cool (hr : r.temp ≤ 95 ∧ r.droops ≤ s.droopMax) (hb : ∀ q ∈ behind, r.core ≠ q.core) :
    (((before ++ r :: behind).foldl (readCone rs) s).coreAt r.core).throttled = false := by
  have hcool : coneHot (before.foldl (readCone rs) s) r = false := by
    rw [readCones_conesRead.coneHot, ← Bool.not_eq_true, coneHot_eq_true]
    omega
  rw [foldl_readCone_split, readCones_other hb, readCone_cool hcool, throttled_modCore, if_pos rfl]

theorem readCones_logged (hr : coneHot s r = true) (hk : KilnSources s.kilnLog) (hlen : (before ++ r :: behind).length ≤ 4096) :
    ∃ e ∈ ((before ++ r :: behind).foldl (readCone rs) s).kilnLog, e.ts = s.ts ∧ e.src = 4095 ∧ e.code = 1 := by
  have hread : ConesRead s (before.foldl (readCone rs) s) := readCones_conesRead
  have hsrc : KilnSources (before.foldl (readCone rs) s).kilnLog := readCones_kilnSources hk
  have hlast : StandsBefore 0 (coneEntry (before.foldl (readCone rs) s) r) (readCone rs (before.foldl (readCone rs) s) r).kilnLog := by
    rw [readCone_kilnLog, hread.coneHot, if_pos hr]
    exact logCone_standsBefore hsrc
  rw [List.length_append, List.length_cons] at hlen
  rw [foldl_readCone_split]
  exact ⟨_, (readCones_standsBefore (readCone_kilnSources hsrc) hlast (by omega)).mem, hread.ts, rfl, rfl⟩

/-- An old block of a hot core stops for save, or its core is throttled, and so it stays behind the other cores' readings. -/
theorem readCones_answers (hm : r ∈ rs) (hr : coneHot s r = true) (hothers : ∀ q ∈ behind, r.core ≠ q.core) (hb : b ∈ s.blocks)
    (hat : s.blockAt b.id = b) (hcore : b.core = r.core) (hs : b.saved = false) (ht : b.retired = false) (hage : b.since + 2600000 ≤ s.clk) :
    Answered ((before ++ r :: behind).foldl (readCone rs) s) b.id r.core := by
  have hread : ConesRead s (before.foldl (readCone rs) s) := readCones_conesRead
  obtain ⟨hmem, hid⟩ := blockAt_of_mem (hread.block_mem ⟨b, hb, rfl⟩)
  obtain ⟨sv, tg, hat'⟩ := (hread.blockAt ⟨b, hb, rfl⟩).1
  rw [hat] at hat'
  rw [hat'] at hmem hid
  have h := readCone_answers (r := r) hm (by rwa [hread.coneHot]) hmem hat' hcore hs ht (by rwa [hread.clk])
  rw [foldl_readCone_split]
  refine h.imp (readCones_conesRead.blockAt ?_).2 fun hc => by rwa [readCones_other hothers]
  exact (hread.trans readCone_conesRead).block_mem ⟨b, hb, rfl⟩

end
end

/-- Settles O55: each event is the model's fold over its jobs, blocks or readings, and what one step of the fold leaves is carried through
the others. -/
theorem placementEventsComplete : Obligations.PlacementEventsComplete := by
  unfold Obligations.PlacementEventsComplete
  refine ⟨fun s => ⟨_, rfl, fun h => by rw [h, dispatch], fun q j rest u => dispatchPlaceBlock_places, fun q id c rest ks off hq => ?_,
      fun q id c hq hn l hl hi hw => dispatchPlaceBlock_waits hq hn hl hi hw⟩,
    fun id s => ⟨_, execPlacementWaitExpiry_eq, useFree_of_expires expires_foldl_expireJob, fun h => by rw [h]; rfl,
      fun c hj l hl hi w hw => placementWaitExpiry_launches hj hl hi hw, expires_foldl_expireJob.blocks⟩,
    fun blk s => ⟨fun h => ?_, fun h hk hn => ?_⟩,
    fun blk s => ⟨_, execBlockRestore_eq, fun h => by rw [h]; rfl, fun e h => ⟨fun hm => ?_, fun hm u hu => ?_⟩⟩,
    fun blk core s u x h hx hb => placeSaved_restores h hx hb,
    fun rs s r hr hn hlen hk => ⟨_, rfl, readCones_conesRead.only, fun h1 h2 => ?_, fun hh => ?_⟩⟩
  · intro l core h1 hw hks hoff
    obtain ⟨u, hu, hcore, hblock, hwarps⟩ := placeNew_some (f1 := 0) (c := c) hks hoff
    have hkeeps := dispatchPlaceBlock_keepsBlocks hq ((tryJob_fresh h1 hw).trans hu)
    rw [hkeeps.lastCore, hkeeps.blocks, hkeeps.warps]
    exact ⟨hcore, hblock, hwarps⟩
  · rw [exec_contextSaveComplete, if_neg (Bool.eq_false_iff.mp h)]
  · rw [exec_contextSaveComplete, if_pos h]
    exact ⟨_, rfl, fun w hw hne => (mem_saveBlocks_warps hk).mpr ⟨hw, fun c hc => hne c (mem_unsavedBlocks.mp hc)⟩,
      fun c hc => saveBlocks_mine hk (nodup_unsavedBlocks hn) (mem_unsavedBlocks.mpr hc) (mem_clusterAll hc.1).1⟩
  · rw [h, restoreFirst_other hm]
  · rw [h, restoreFirst_mine hm hu]
  · obtain ⟨before, behind, rfl, hothers⟩ := exists_split_readings hr hn
    exact readCones_cool ⟨h1, h2⟩ hothers
  · obtain ⟨before, behind, hrs, hothers⟩ := exists_split_readings hr hn
    have hot : coneHot s r = true := coneHot_eq_true.mpr hh
    rw [hrs] at hlen
    constructor
    · have h := readCones_logged (rs := rs) hot hk hlen
      rwa [← hrs] at h
    · intro b hb hat hcore hs ht hage
      have h := readCones_answers (before := before) hr hot hothers hb hat hcore hs ht hage
      rwa [← hrs] at h

end Sys2Proof.Claims

/-! ## Number formats and the compaction of a warp

The default NaN as the only NaN of float arithmetic (R110), the order of FMIN, FMAX and FCMP (R111), and what VCOMPACT packs (R132, R510). -/

namespace Sys2Proof.Machine

section
variable {rm : Nat} {ftz neg : Bool} {fp a b v : W32}

/-! ### The NaNs that packing can make (R109, R110) -/

/-- A NaN is read as a NaN: its exponent bits are all ones and its fraction is not 0. -/
theorem unpack32_of_isNan32 (h : isNan32 v = true) : unpack32 ftz v = .nan := by
  simp only [isNan32, decide_eq_true_eq] at h
  have hx : v.toNat / 2 ^ 23 % 256 = 255 := by omega
  have hf : v.toNat % 2 ^ 23 ≠ 0 := by omega
  simp only [unpack32, hx, beq_self_eq_true, if_true, beq_eq_false_iff_ne.mpr hf]
  rfl

/-- A number with a stand-in from a bound on is at most the bound when its stand-in is. -/
theorem capped_le {bits sat inf : Nat} (h : sat ≤ inf) : (if bits < inf then bits else sat) ≤ inf := by
  split
  · omega
  · exact h

/-- A rounded magnitude is at most that of an infinity: on overflow it is an infinity or the largest number, as the mode says. -/
theorem roundMag_le_inf {p n : Nat} {e : Int} : roundMag p rm neg n e ≤ 255 * 2 ^ (p - 1) := by
  unfold roundMag
  split
  · exact Nat.zero_le _
  · refine capped_le ?_
    split
    · exact le_rfl
    · exact Nat.sub_le _ _
    · cases neg
      · exact le_rfl
      · exact Nat.sub_le _ _
    · cases neg
      · exact Nat.sub_le _ _
      · exact le_rfl

/-- A sign above a magnitude of at most an infinity is no NaN. -/
theorem isNan32_signed {m : Nat} (h : m ≤ 255 * 2 ^ 23) : isNan32 (BitVec.ofNat 32 ((if neg then 2 ^ 31 else 0) + m)) = false := by
  rw [isNan32, decide_eq_false_iff_not, BitVec.toNat_ofNat]
  split <;> omega

/-- A value that is no NaN is written as none. -/
theorem isNan32_pack32 {x : FVal} (h : x ≠ .nan) : isNan32 (pack32 rm ftz x) = false := by
  cases x with
  | nan => exact absurd rfl h
  | inf neg => exact isNan32_signed le_rfl
  | num neg n e =>
    refine isNan32_signed ?_
    split
    · exact Nat.zero_le _
    · exact roundMag_le_inf

/-- So a NaN that packing writes is the default one. -/
theorem pack32_eq_dNaN {x : FVal} (h : isNan32 (pack32 rm ftz x) = true) : pack32 rm ftz x = dNaN := by
  by_cases hx : x = .nan
  · rw [hx]; rfl
  · rw [isNan32_pack32 hx] at h
    cases h

theorem frnd32_eq_dNaN (h : isNan32 (frnd32 fp a) = true) : frnd32 fp a = dNaN := by
  unfold frnd32 at h ⊢
  split at h
  · rfl
  · exact pack32_eq_dNaN h
  · exact pack32_eq_dNaN h

/-- A NaN converts to the default NaN of BF16 (R110, R115). -/
theorem convert_bf16_of_isNan32 (h : isNan32 a = true) : convert fp 1#4 0#4 (a.setWidth 64) = 0x7FC0#64 := by
  have ha : (a.setWidth 64).setWidth 32 = a := BitVec.setWidth_setWidth_of_le a (by decide)
  show (packBf16 (rmOf fp) (ftzOf fp) (unpack32 (ftzOf fp) ((a.setWidth 64).setWidth 32))).setWidth 64 = 0x7FC0#64
  rw [ha, unpack32_of_isNan32 h]
  rfl

/-! ### FMIN, FMAX and FCMP (R111) -/

/-- A flushed value is a NaN only where the value was one: a zero is none. -/
theorem isNan32_ftzIn (h : isNan32 v = false) : isNan32 (ftzIn ftz v) = false := by
  unfold ftzIn
  split
  · have hsign : (0x80000000#32).toNat % 2 ^ 31 = 0 := rfl
    rw [isNan32, BitVec.toNat_and, Nat.and_mod_two_pow, hsign, Nat.and_zero]
    rfl
  · exact h

theorem ftzIn_negZero : ftzIn ftz 0x80000000#32 = 0x80000000#32 := by cases ftz <;> rfl

theorem ftzIn_posZero : ftzIn ftz 0#32 = 0#32 := by cases ftz <;> rfl

theorem fmin32_of_nan (h : isNan32 a = true ∨ isNan32 b = true) : fmin32 fp a b = dNaN := by
  rw [fmin32, if_pos (Bool.or_eq_true_iff.mpr h)]

theorem fmax32_of_nan (h : isNan32 a = true ∨ isNan32 b = true) : fmax32 fp a b = dNaN := by
  rw [fmax32, if_pos (Bool.or_eq_true_iff.mpr h)]

theorem fcmpTrue_of_nan {cc : BitVec 4} (h : isNan32 a = true ∨ isNan32 b = true) : fcmpTrue fp cc a b = decide (cc = 1#4) := by
  rw [fcmpTrue, if_pos (Bool.or_eq_true_iff.mpr h), beq_eq_decide]

theorem fmin32_of_num (ha : isNan32 a = false) (hb : isNan32 b = false) : fmin32 fp a b =
    if floatKey (ftzIn (ftzOf fp) b) < floatKey (ftzIn (ftzOf fp) a) then ftzIn (ftzOf fp) b else ftzIn (ftzOf fp) a := by
  rw [fmin32, ha, hb]; rfl

theorem fmax32_of_num (ha : isNan32 a = false) (hb : isNan32 b = false) : fmax32 fp a b =
    if floatKey (ftzIn (ftzOf fp) a) < floatKey (ftzIn (ftzOf fp) b) then ftzIn (ftzOf fp) b else ftzIn (ftzOf fp) a := by
  rw [fmax32, ha, hb]; rfl

/-- An operand is a NaN, or both are numbers. -/
theorem nan_or_num (a b : W32) : (isNan32 a = true ∨ isNan32 b = true) ∨ (isNan32 a = false ∧ isNan32 b = false) := by
  cases isNan32 a <;> cases isNan32 b <;> simp

/-- One of two flushed numbers is no NaN. -/
theorem isNan32_ite_ftzIn {p : Prop} [Decidable p] (ha : isNan32 a = false) (hb : isNan32 b = false) :
    isNan32 (if p then ftzIn ftz b else ftzIn ftz a) = false := by
  split
  · exact isNan32_ftzIn hb
  · exact isNan32_ftzIn ha

theorem fmin32_eq_dNaN (h : isNan32 (fmin32 fp a b) = true) : fmin32 fp a b = dNaN := by
  rcases nan_or_num a b with hn | ⟨ha, hb⟩
  · exact fmin32_of_nan hn
  · rw [fmin32_of_num ha hb, isNan32_ite_ftzIn ha hb] at h
    cases h

theorem fmax32_eq_dNaN (h : isNan32 (fmax32 fp a b) = true) : fmax32 fp a b = dNaN := by
  rcases nan_or_num a b with hn | ⟨ha, hb⟩
  · exact fmax32_of_nan hn
  · rw [fmax32_of_num ha hb, isNan32_ite_ftzIn ha hb] at h
    cases h

end

/-! ### Results in flight behind a sticky bit (R99) -/

section
variable {s t u : State} {c : Cur}

theorem cur?_setSticky {x bit : Nat} : cur? (s.setSticky x bit) = cur? s := by
  rw [State.setSticky]
  split <;> rfl

/-- What the issue of a word leaves does not depend on what a state holds beside its warps and its clock. -/
theorem Issued.of_still {r : InRun} {R : Lane → Lane → Prop} (hw : u.warps = s.warps) (hclk : u.clk = s.clk)
    (h : Issued u t c r R) : Issued s t c r R := by
  have hat : ∀ k, u.warpAt? k = s.warpAt? k := fun k => by rw [State.warpAt?, hw]; rfl
  have hlane : ∀ n, u.laneAt c.key n = s.laneAt c.key n := fun n => by rw [State.laneAt, State.warpAt, hat]; rfl
  refine ⟨fun k hk => ?_, h.warp, ?_, h.otherPaths, fun n => ?_⟩
  · rw [h.others k hk, hat]
  · rw [h.path, hclk]
  · rw [← hlane]; exact h.lanes n

/-- Results that enter flight as a word issues, of a word that has changed nothing else that issue looks at: they are those of a row when
each comes from an executing lane, and every executing lane has all of its own. -/
theorem putFix_inFlight {r : Row} {vals : List (Nat × Nat × W32)} (hc : cur? s = some c)
    (hu : cur? u = cur? s ∧ u.warps = s.warps ∧ u.clk = s.clk)
    (hv : ∀ v, v ∈ vals ↔ ∃ l ∈ active s c r.hdr, ∃ x ∈ r.out s c l, v = (l.id, x)) :
    OnlyWarps u (advance (putFix u c r.lat vals) c) ∧ Issued s (advance (putFix u c r.lat vals) c) c c.r LaneKept ∧
      InFlight s (advance (putFix u c r.lat vals) c) c r := by
  obtain ⟨hcur, hw, hclk⟩ := hu
  obtain ⟨honly, hissued, hin⟩ := putFix_done (hcur.trans hc) r.lat vals
  have hlane : ∀ n, u.laneAt c.key n = s.laneAt c.key n := fun n => by rw [State.laneAt, State.warpAt, State.warpAt?, hw]; rfl
  refine ⟨honly, hissued.of_still hw hclk, fun l hl x hx => ?_, fun n x hx => ?_, fun n x hx => ?_⟩
  · rw [hin, hclk]
    exact .inr ⟨active_hasLane hc hl, _, (hv _).mpr ⟨l, hl, x, hx, rfl⟩, rfl, rfl⟩
  · rw [hin, hlane]
    exact .inl hx
  · rw [hin, hlane, hclk] at hx
    obtain hx | ⟨_, v, hm, hn, rfl⟩ := hx
    · exact .inl hx
    · obtain ⟨l, hl, y, hy, rfl⟩ := (hv v).mp hm
      exact .inr ⟨l, hl, hn, y, hy, rfl⟩

end

/-! ### VCOMPACT (R132, R510, R511) -/

/-- What VCOMPACT writes in the lane that stands at place `j` of the executing lanes, of kept elements whose first has position `base`: its
element, unless there is none or its position is too high, and NEXT, J and GOT. -/
def packed (s : State) (d a : Code) (kept : List Lane) (base : Nat) (l : Lane) (j : Nat) : List (Nat × W32) :=
  let got : Bool := decide (j < kept.length ∧ base + j ≤ 65535)
  (if got then [(d.toNat, rd s (kept.getD j l) a)] else []) ++
    [(d.toNat + 1, BitVec.ofNat 32 (min (base + kept.length) 65535 + j * 65536 + if got then 8388608 else 0))]

/-- The results that a word gives lanes by their places are those that each lane finds at its places. -/
theorem mem_laneResults {act : List Lane} {g : Lane → Nat → List (Nat × W32)} {v : Nat × Nat × W32} :
    (v ∈ act.zipIdx.flatMap fun e => (g e.1 e.2).map fun y => (e.1.id, y)) ↔
      ∃ l ∈ act, ∃ y ∈ act.zipIdx.flatMap fun e => if e.1 = l then g l e.2 else [], v = (l.id, y) := by
  simp only [List.mem_flatMap, List.mem_map]
  constructor
  · rintro ⟨e, he, y, hy, rfl⟩
    exact ⟨e.1, List.fst_mem_of_mem_zipIdx he, y, ⟨e, he, by rwa [if_pos rfl]⟩, rfl⟩
  · rintro ⟨l, _, y, ⟨e, he, hy⟩, rfl⟩
    by_cases hl : e.1 = l
    · rw [if_pos hl] at hy
      exact ⟨e, he, y, by rwa [hl], by rw [hl]⟩
    · rw [if_neg hl] at hy
      cases hy

/-- VCOMPACT with an executing lane puts into flight what it packs. -/
theorem exec_vcompact {s : State} {c : Cur} {h : Hdr} {d a b cc : Code} {nc : Bool} {f : Lane} {ls : List Lane}
    (hi : Issues (.vcompact h d a b cc nc) s c) (hact : active s c h = f :: ls) :
    let kept := (active s c h).filter fun l => rdP s l cc ^^ nc
    let base := ((rd s f b).extractLsb' 0 16).toNat
    exec (.vcompact h d a b cc nc) s = .next (advance (putFix
      (if 65535 < base + kept.length then s.setSticky c.w.ctx stCmpovf else s) c 6
      ((active s c h).zipIdx.flatMap fun e => (packed s d a kept base e.1 e.2).map fun y => (e.1.id, y))) c) := by
  intro kept base
  have hkept : (f :: ls).filter (fun l => rdPN s l cc nc) = kept := by rw [← hact]; rfl
  have hbase : (rd s f b).toNat % 65536 = base := rfl
  show execVcompact h d a b cc nc s = _
  rw [execVcompact, runWord_ok hi.cur hi.ok]
  simp only [hact, hkept, hbase]
  refine congrArg (fun vals => Host.Outcome.next (advance (putFix _ c 6 vals) c)) (List.flatMap_congr fun e _ => ?_)
  simp only [packed, List.map_append, Bool.decide_and]
  split <;> rfl

end Sys2Proof.Machine

namespace Sys2Proof.Claims

open Sys2Proof.Machine

/-- Settles O5: with a NaN the check for one decides, and signed zeros, which flushing keeps, stand in the order of `floatKey`. -/
theorem floatOrderOfNansAndZeros : Obligations.FloatOrderOfNansAndZeros := by
  unfold Obligations.FloatOrderOfNansAndZeros
  refine fun fp a b => ⟨fun h => ⟨fmin32_of_nan h, fmax32_of_nan h, fun cc => fcmpTrue_of_nan h⟩, ?_, ?_, ?_, ?_⟩
  · rw [fmin32_of_num rfl rfl, ftzIn_negZero, ftzIn_posZero]; rfl
  · rw [fmin32_of_num rfl rfl, ftzIn_negZero, ftzIn_posZero]; rfl
  · rw [fmax32_of_num rfl rfl, ftzIn_negZero, ftzIn_posZero]; rfl
  · rw [fmax32_of_num rfl rfl, ftzIn_negZero, ftzIn_posZero]; rfl

/-- Settles O6: FADD, FSUB, FMUL and FFMA pack their result, and packing writes no other NaN; FMIN, FMAX and FRND answer with it where an
operand is a NaN, and else with an operand, flushed, or with what they pack. -/
theorem nanResultsAreTheDefaultNan : Obligations.NanResultsAreTheDefaultNan := by
  unfold Obligations.NanResultsAreTheDefaultNan
  refine fun fp a b c => ⟨fun r hr => ?_, convert_bf16_of_isNan32⟩
  simp only [List.mem_cons, List.not_mem_nil, or_false] at hr
  obtain rfl | rfl | rfl | rfl | rfl | rfl | rfl := hr
  · exact pack32_eq_dNaN
  · exact pack32_eq_dNaN
  · exact pack32_eq_dNaN
  · exact pack32_eq_dNaN
  · exact fmin32_eq_dNaN
  · exact fmax32_eq_dNaN
  · exact frnd32_eq_dNaN

/-- Settles O38: the word's results are those of `packed`, and the sticky bit that the overflow sets is nothing that issue looks at. -/
theorem vcompactPacksKeptElements : Obligations.VcompactPacksKeptElements := by
  unfold Obligations.VcompactPacksKeptElements
  intro h d a b cc nc s c f ls hi hact act kept base next got out
  refine ⟨_, exec_vcompact hi hact, putFix_inFlight (r := ⟨h, 6, fun _ _ l => out l⟩) hi.cur ?_ fun v => mem_laneResults⟩
  split
  · exact ⟨cur?_setSticky, setSticky_still.warps, setSticky_still.clk⟩
  · exact ⟨rfl, rfl, rfl⟩

end Sys2Proof.Claims

/-! ## The first of the address checks -/

namespace Sys2Proof.Claims
open Sys2Proof.Machine

/-- Settles O13: alignment is the first of the checks. -/
theorem misalignedAddressesRaiseMisalign : Obligations.MisalignedAddressesRaiseMisalign := by
  unfold Obligations.MisalignedAddressesRaiseMisalign
  intro i r s c l _ h
  rw [checkAccess, if_pos (bne_iff_ne.mpr h)]

end Sys2Proof.Claims

/-! ## Read-modify-write accesses and waits on words at the home -/

namespace Sys2Proof.Machine

section
open Sys2Proof.Claims
variable {s t u : State} {a : Access} {key v : Nat} {f : Nat → Option Nat}

/-- What a thread reads at the home, in every state that differs from one only in what no read looks at. -/
theorem hideControl_homeRead (h : Quiet s t) (hf : anyForeign s key a.bytes a.tkey = false) :
    hideControl t a (homeRead t key a.bytes a.tkey) = hideControl s a (memRead s.mem key a.bytes) := by
  rw [hideControl_congr h, homeRead_plain ((anyForeign_congr h).trans hf), h.mem]

theorem laneAt_congr (h : t.warps = s.warps) (k : WarpKey) (n : Nat) : t.laneAt k n = s.laneAt k n := by
  rw [State.laneAt, State.laneAt, State.warpAt, State.warpAt, State.warpAt?, State.warpAt?, h]

/-! ### MWAIT (R215, R216) -/

theorem performMwait_parks (hf : anyForeign s key a.bytes a.tkey = false)
    (hm : hideControl s a (memRead s.mem key a.bytes) = a.cmp.toNat % 256 ^ a.bytes) :
    ∃ u, Still s u ∧ performMwait s a key = u.modAccess a.id fun b => { b with st := .parked } := by
  have ho : Still s (observe s key a.bytes a.who) := observe_still
  refine ⟨dropHere (observe s key a.bytes a.who) a.w.core (lineOf key), ho.trans dropHere_still, ?_⟩
  rw [performMwait]
  rw [hideControl_homeRead ho.toQuiet hf, if_pos (beq_iff_eq.mpr hm)]

theorem performMwait_ends (hf : anyForeign s key a.bytes a.tkey = false)
    (hm : hideControl s a (memRead s.mem key a.bytes) ≠ a.cmp.toNat % 256 ^ a.bytes) :
    ∃ u, Still s u ∧ performMwait s a key = finishAccess u a (hideControl s a (memRead s.mem key a.bytes)) := by
  have ho : Still s (observe s key a.bytes a.who) := observe_still
  refine ⟨fencedRead (acquire (dropHere (observe s key a.bytes a.who) a.w.core (lineOf key)) a key) a,
    ((ho.trans dropHere_still).trans acquire_still).trans fencedRead_still, ?_⟩
  rw [performMwait]
  rw [hideControl_homeRead ho.toQuiet hf, if_neg (by simpa using hm)]

/-- What a look of an MWAIT at its word leaves of a state from which its own has moved on only in what no read looks at. -/
structure Looked (s t : State) (a : Access) (word : Nat) : Prop where
  mem : t.mem = s.mem
  warps : t.warps = s.warps
  parks : word = a.cmp.toNat % 256 ^ a.bytes → ∃ b ∈ t.accesses, b.id = a.id ∧ b.st = .parked
  ends : word ≠ a.cmp.toNat % 256 ^ a.bytes → Answers t a word

theorem performMwait_looked (h : Still s u) (hf : anyForeign s key a.bytes a.tkey = false) (hflag : a.flag.isSome = true)
    (ha : a ∈ s.accesses) : Looked s (performMwait u a key) a (hideControl s a (memRead s.mem key a.bytes)) := by
  have hfu : anyForeign u key a.bytes a.tkey = false := (anyForeign_congr h.toQuiet).trans hf
  have hw : hideControl u a (memRead u.mem key a.bytes) = hideControl s a (memRead s.mem key a.bytes) := by
    rw [hideControl_congr h.toQuiet, h.mem]
  rw [← hw]
  by_cases hm : hideControl u a (memRead u.mem key a.bytes) = a.cmp.toNat % 256 ^ a.bytes
  · obtain ⟨x, hx, he⟩ := performMwait_parks hfu hm
    have hsx := h.trans hx
    rw [he]
    exact ⟨hsx.mem, hsx.warps, fun _ => ⟨_, List.mem_map.mpr ⟨a, hsx.accesses ▸ ha, if_pos (beq_self_eq_true a.id)⟩, rfl, rfl⟩,
      fun hn => absurd hm hn⟩
  · obtain ⟨x, hx, he⟩ := performMwait_ends hfu hm
    have hsx := h.trans hx
    rw [he]
    exact ⟨finishAccess_quiet.mem.trans hsx.mem, finishAccess_quiet.warps.trans hsx.warps, fun e => absurd e hm,
      fun _ => answers_finishAccess hflag ⟨a, hsx.accesses ▸ ha, rfl⟩⟩

theorem noteWait_still : Still s (noteWait s a) := by
  rw [noteWait]; split
  · exact .refl s
  · exact modCtx_still

theorem wakeReady_mem (hk : a.kind = .mwait) (hst : a.st = .parked) (hl : a.loc = .mem key) (hp : failedPort? s a = none) :
    wakeReady s a = (hideControl s a (homeRead s key a.bytes a.tkey) != a.cmp.toNat % 256 ^ a.bytes) := by
  rw [wakeReady, hk, hst, hl]; simp [hp]

/-- MWAIT_WAKE of an MWAIT that is parked at a word of byte storage. -/
theorem exec_mwaitWake (hfind : s.accesses.find? (fun x => x.id == a.id) = some a) (hl : a.loc = .mem key) (hp : failedPort? s a = none) :
    exec (.mwaitWake a.id) s = .next (if wakeReady s a then performMwait (noteWait s a) a key else s) := by
  show execMwaitWake a.id s = _
  rw [execMwaitWake]; simp only [hfind, hl, hp]

/-! ### ATOM, RED and CAS (R205, R206) -/

theorem predict_still {core : Nat} {queued : Bool} : Still s (predict s core key queued) := by
  rw [predict]; split
  · exact .refl s
  · repeat' constructor

/-- The state in which an atomic reads its word. -/
def atomBase (s : State) (a : Access) (key : Nat) : State :=
  acquire (observe (predict s a.w.core key (contended s a key)) key a.bytes a.who) a key

/-- The state in which an atomic has read its word. -/
def atomRead (s : State) (a : Access) (key : Nat) : State := fencedRead (dropHere (atomBase s a key) a.w.core (lineOf key)) a

/-- The value that an atomic reads. -/
def atomOld (s : State) (a : Access) (key : Nat) : Nat :=
  hideControl (atomBase s a key) a (homeRead (atomBase s a key) key a.bytes a.tkey)

/-- The write of an atomic. -/
def atomWrite (s : State) (a : Access) (key v : Nat) : State :=
  clobberControl (writeAt (notePhys s key a.bytes) key a.bytes v a.tkey a.relCode true a.who a.agent (some a.w.core)) a

theorem atomBase_still : Still s (atomBase s a key) := (predict_still.trans observe_still).trans acquire_still

theorem atomRead_still : Still s (atomRead s a key) := (atomBase_still.trans dropHere_still).trans fencedRead_still

theorem atomOld_eq (h : Quiet s u) (hf : anyForeign s key a.bytes a.tkey = false) :
    atomOld u a key = hideControl s a (memRead s.mem key a.bytes) :=
  hideControl_homeRead (h.trans atomBase_still.toQuiet) hf

theorem performAtom_none (h : f (atomOld s a key) = none) : performAtom s a key f = finishAccess (atomRead s a key) a (atomOld s a key) := by
  change finishAccess (match f (atomOld s a key) with | some v => _ | none => _) a (atomOld s a key) = _
  rw [h]; rfl

theorem performAtom_some (h : f (atomOld s a key) = some v) : performAtom s a key f = finishAccess
    (if a.kind == .cas then spendRel (atomWrite (atomRead s a key) a key v) a else atomWrite (atomRead s a key) a key v) a
    (atomOld s a key) := by
  change finishAccess (match f (atomOld s a key) with | some v => _ | none => _) a (atomOld s a key) = _
  rw [h]; rfl

theorem atomWrite_mem : (atomWrite s a key v).mem = memWrite s.mem key a.bytes v := by simp [atomWrite]

theorem atomWrite_accesses : (atomWrite s a key v).accesses = s.accesses := by
  rw [atomWrite, clobberControl_accesses, writeAt_threads.2, notePhys_still.accesses]

theorem atomWrite_warps (h : stackOffset a.va.toNat = none) : (atomWrite s a key v).warps = s.warps := by
  rw [atomWrite, clobberControl_none h, writeAt_threads.1, notePhys_still.warps]

/-! #### What a conditional write uses up (R171) -/

theorem mem_spendRel_accesses (h : a ∈ s.accesses) : ∃ b ∈ (spendRel s a).accesses, b.id = a.id :=
  ⟨_, List.mem_map_of_mem h, by split <;> rfl⟩

/-- A lane after one lane of a warp has been changed by a function that keeps numbers. -/
theorem Warp.laneAt_modLane (w : Warp) (i : Nat) (g : Lane → Lane) (hg : ∀ l, (g l).id = l.id) {n : Nat} (h : w.hasLane n) :
    (w.modLane i g).laneAt n = if n = i then g (w.laneAt n) else w.laneAt n := by
  obtain ⟨l, -, hid, hfind, -⟩ := Warp.laneAt_of_hasLane h
  have : (mapIf (fun x => x.id == i) g w.lanes).find? (fun x => x.id == n) = some (if l.id == i then g l else l) := by
    rw [find?_mapIf_of_eq _ _ g (fun x _ => by rw [hg]), hfind]; rfl
  simp only [Warp.laneAt, findD, Warp.modLane, this, hfind, Option.getD_some, hid, beq_iff_eq]

theorem Warp.hasLane_modLane {w : Warp} {i : Nat} {g : Lane → Lane} (hg : ∀ l, (g l).id = l.id) {n : Nat} :
    (w.modLane i g).hasLane n ↔ w.hasLane n := by
  simp only [Warp.hasLane, Warp.modLane, mapIf, List.mem_map]
  constructor
  · rintro ⟨_, ⟨x, hx, rfl⟩, hn⟩
    exact ⟨x, hx, by by_cases h : x.id == i <;> simp_all⟩
  · rintro ⟨x, hx, hn⟩
    exact ⟨_, ⟨x, hx, rfl⟩, by by_cases h : x.id == i <;> simp_all⟩

/-- Every lane of the machine after one lane has been changed: as before, or changed. -/
theorem State.laneAt_modLane_or (s : State) (k : WarpKey) (i : Nat) (g : Lane → Lane) (hg : ∀ l, (g l).id = l.id) (k' : WarpKey) (n : Nat) :
    (s.modLane k i g).laneAt k' n = s.laneAt k' n ∨ (s.modLane k i g).laneAt k' n = g (s.laneAt k' n) := by
  simp only [State.laneAt, State.warpAt, State.modLane, State.warpAt?_modWarp s k k' (fun w => w.modLane i g) fun _ => rfl]
  cases s.warpAt? k' with
  | none => exact .inl rfl
  | some w =>
    simp only [Option.map_some, Option.getD_some]
    split
    · by_cases hn : w.hasLane n
      · rw [Warp.laneAt_modLane w i g hg hn]; split
        · exact .inr rfl
        · exact .inl rfl
      · rw [Warp.laneAt_of_not_hasLane hn, Warp.laneAt_of_not_hasLane ((Warp.hasLane_modLane hg).not.mpr hn)]
        exact .inl rfl
    · exact .inl rfl

/-- The entries of a lane's FENCEs that a conditional write leaves. -/
def leaveRel (a : Access) (l : Lane) : Lane :=
  if l.wid == a.wid then { l with frel := l.frel.filter fun f => a.id < f.2 } else l

theorem leaveRel_eq (l : Lane) : leaveRel a l = { l with frel := (leaveRel a l).frel } := by
  rw [leaveRel]; split <;> rfl

theorem spendRel_laneAt (k : WarpKey) (n : Nat) :
    (spendRel s a).laneAt k n = { s.laneAt k n with frel := ((spendRel s a).laneAt k n).frel } := by
  have h : (spendRel s a).laneAt k n = s.laneAt k n ∨ (spendRel s a).laneAt k n = leaveRel a (s.laneAt k n) :=
    State.laneAt_modLane_or { s with accesses := _ } a.w a.lane (leaveRel a) (fun l => by rw [leaveRel_eq]) k n
  rcases h with h | h
  · rw [h]
  · rw [h]; exact leaveRel_eq _

/-- What an atomic that reads `old` and writes `new`, or nothing, leaves at the home. -/
structure Modified (s t : State) (a : Access) (key old : Nat) (new : Option Nat) : Prop where
  kept : new = none → t.mem = s.mem
  wrote : ∀ v, new = some v → t.mem = memWrite s.mem key a.bytes v
  answer : a.flag.isSome = true → Answers t a old
  warps : stackOffset a.va.toNat = none → a.kind ≠ .cas → t.warps = s.warps
  lanes : stackOffset a.va.toNat = none → ∀ k n, t.laneAt k n = { s.laneAt k n with frel := (t.laneAt k n).frel }

theorem finishAccess_modified (h : ∃ b ∈ u.accesses, b.id = a.id) {old : Nat} {new : Option Nat} (hk : new = none → u.mem = s.mem)
    (hw : ∀ v, new = some v → u.mem = memWrite s.mem key a.bytes v)
    (hwarps : stackOffset a.va.toNat = none → a.kind ≠ .cas → u.warps = s.warps)
    (hl : stackOffset a.va.toNat = none → ∀ k n, u.laneAt k n = { s.laneAt k n with frel := (u.laneAt k n).frel }) :
    Modified s (finishAccess u a old) a key old new where
  kept e := finishAccess_quiet.mem.trans (hk e)
  wrote v e := finishAccess_quiet.mem.trans (hw v e)
  answer hf := answers_finishAccess hf h
  warps hv hc := finishAccess_quiet.warps.trans (hwarps hv hc)
  lanes hv k n := by rw [laneAt_congr finishAccess_quiet.warps]; exact hl hv k n

theorem performAtom_modified (h : Still s u) (hf : anyForeign s key a.bytes a.tkey = false) (ha : a ∈ s.accesses) :
    Modified s (performAtom u a key f) a key (hideControl s a (memRead s.mem key a.bytes))
      (f (hideControl s a (memRead s.mem key a.bytes))) := by
  have hold : atomOld u a key = hideControl s a (memRead s.mem key a.bytes) := atomOld_eq h.toQuiet hf
  have hr : Still s (atomRead u a key) := h.trans atomRead_still
  rw [← hold]
  cases hn : f (atomOld u a key) with
  | none =>
    rw [performAtom_none hn]
    exact finishAccess_modified ⟨a, hr.accesses ▸ ha, rfl⟩ (fun _ => hr.mem) nofun (fun _ _ => hr.warps)
      fun _ k n => by rw [laneAt_congr hr.warps]
  | some v =>
    have hm : (atomWrite (atomRead u a key) a key v).mem = memWrite s.mem key a.bytes v := by rw [atomWrite_mem, hr.mem]
    have hw (hv : stackOffset a.va.toNat = none) : (atomWrite (atomRead u a key) a key v).warps = s.warps := (atomWrite_warps hv).trans hr.warps
    have hacc : a ∈ (atomWrite (atomRead u a key) a key v).accesses := by rwa [atomWrite_accesses, hr.accesses]
    rw [performAtom_some hn]
    split
    · next hc =>
      refine finishAccess_modified (mem_spendRel_accesses hacc) nofun (fun v' e => ?_) (fun _ hne => absurd (beq_iff_eq.mp hc) hne) fun hv k n => ?_
      · cases e; rw [spendRel_mem, hm]
      · rw [spendRel_laneAt, laneAt_congr (hw hv)]
    · refine finishAccess_modified ⟨a, hacc, rfl⟩ nofun (fun v' e => ?_) (fun hv _ => hw hv) fun hv k n => ?_
      · cases e; exact hm
      · rw [laneAt_congr (hw hv)]

/-- An access of a thread to byte storage as its event performs it, when its kind has a function of its own. -/
theorem exec_homeAccess_mem (hfind : s.accesses.find? (fun x => x.id == a.id) = some a) (hcan : canPerform s a = true)
    (hhalf : otherHalf? s a = none) (hp : failedPort? s a = none) (hl : a.loc = .mem key) :
    exec (.homeAccess (.thread a.id)) s = .next (performMem s a key).useFree := by
  rw [execHomeAccess_thread hfind hcan, performAccess_eq hhalf (performOne_mem_loc hl hp)]

/-- The new value of an atomic access, by its kind. -/
def atomNew (a : Access) (old : Nat) : Option Nat :=
  if a.kind = .cas then (if old = a.cmp.toNat % 256 ^ a.bytes then some a.data.toNat else none) else some (atomOp a.ty old a.data.toNat)

theorem performMem_atomic (hk : a.kind = .atom ∨ a.kind = .red ∨ a.kind = .cas) :
    performMem s a key = performAtom (chargeOrdinary (mayEvict s key) key a.bytes) a key (atomNew a) := by
  have hn : (atomNew a = fun m => some (atomOp a.ty m a.data.toNat)) ∨ a.kind = .cas := by
    by_cases hc : a.kind = .cas
    · exact .inr hc
    · exact .inl (funext fun m => if_neg hc)
  rcases hk with hk | hk | hk
  · rw [performMem]; simp only [hk]
    rw [hn.resolve_right (by simp [hk])]
  · rw [performMem]; simp only [hk]
    rw [hn.resolve_right (by simp [hk])]
  · rw [performMem]; simp only [hk]
    congr 1; funext m; rw [atomNew, if_pos hk]; simp only [beq_iff_eq]

end

end Sys2Proof.Machine

namespace Sys2Proof.Claims

open Sys2Proof.Machine

/-- Settles O45: a look at the word decides alone, and the traffic that it makes touches nothing that a read depends on. -/
theorem mwaitParksAndWakes : Obligations.MwaitParksAndWakes := by
  unfold Obligations.MwaitParksAndWakes
  intro s a key hk hflag hl hfind hf hp word
  have ha := List.mem_of_find?_eq_some hfind
  refine ⟨fun hcan hhalf => ⟨_, exec_homeAccess_mem hfind hcan hhalf hp hl, ?_⟩, fun hst => ⟨_, exec_mwaitWake hfind hl hp, ?_⟩⟩
  · rw [performMem]; simp only [hk]
    obtain ⟨hm, hw, hpark, hend⟩ := performMwait_looked charged_still hf hflag ha
    exact ⟨hm, hw, hpark, hend⟩
  · have hready : wakeReady s a = true ↔ word ≠ a.cmp.toNat % 256 ^ a.bytes := by
      rw [wakeReady_mem hk hst hl hp, homeRead_plain hf, bne_iff_ne]
    split
    · next h =>
      obtain ⟨hm, hw, -, hend⟩ := performMwait_looked noteWait_still hf hflag ha
      exact ⟨hm, hw, fun e => absurd e (hready.mp h), hend⟩
    · next h => exact ⟨rfl, rfl, fun _ => rfl, fun e => absurd (hready.mpr e) h⟩

/-- Settles O16: at the home an atomic is one read and, where its operation gives a value, one write. -/
theorem atomicsReadModifyWrite : Obligations.AtomicsReadModifyWrite := by
  unfold Obligations.AtomicsReadModifyWrite
  refine ⟨?_, fun m v x y => ?_⟩
  · intro s a key hfind hhalf hcan hp hk hl hinv hf old new
    obtain ⟨hkept, hwrote, hans, hwarps, hlanes⟩ :=
      performAtom_modified (f := atomNew a) (charged_still (s := s) (key := key) (n := a.bytes)) hf (List.mem_of_find?_eq_some hfind)
    refine ⟨_, exec_homeAccess_mem hfind hcan hhalf hp hl, ?_⟩
    rw [performMem_atomic hk]
    refine ⟨fun x => ?_, hans, hwarps, hlanes⟩
    change memGet (performAtom _ a key (atomNew a)).mem x = _
    have hnew : new = atomNew a old := rfl
    rw [hnew]
    split
    · next v hv => rw [hwrote v hv]; exact memGet_memWrite a.bytes key v x hinv
    · next hv => rw [hkept hv]
  · simp only [atomOp, BitVec.ofNat_toNat, BitVec.setWidth_eq, BitVec.slt, BitVec.ult, decide_eq_true_eq]
    exact ⟨(BitVec.toNat_add m v).symm, rfl, rfl, rfl, rfl, rfl, rfl, rfl, rfl, (BitVec.toNat_add x y).symm, Nat.mod_eq_of_lt y.isLt⟩

end Sys2Proof.Claims

/-! ## The answer to a request of another device for a word of several accesses -/

namespace Sys2Proof.Machine

/-- A load of lane 0 of a warp of core 0 that waits for its answer from another device. -/
def awaitedLoad : Access where
  id := 7
  grp := 7
  half := false
  kind := .ld
  ctx := 0
  w := ⟨0, 0, 0⟩
  lane := 0
  wid := 0
  launch := 0
  loc := .mem 0x4000
  va := 0x4000
  bytes := 4
  page := .C
  sem := 0
  scope := 4
  ty := 0
  data := 0
  wide := 0
  cmp := 0
  dst := 2
  flag := some 0
  walk := none
  mask := 1
  pc := 0
  base := 0
  agent := ⟨0, some (0, 0), some 0, some (0, 0), some 0, true, true⟩
  fcs := 0
  fu := 0
  rel := 0
  fences := []
  tkey := 0
  ts := 0
  st := .remoteWait
  result := 0

/-- A store of the same word to the same bytes, through the stack window, that waits too. -/
def awaitedStore : Access := { awaitedLoad with id := 8, kind := .st, va := 0x00FF800000000000, flag := none }

/-- The two accesses wait, and the control stack of their lane has one entry. -/
def mixedWord : State :=
  { State.reset with
    warps := [{ blankWarp ⟨0, 0, 0⟩ with lanes := [{ blankLane 0 with stk := [⟨0, true, 0, false, false⟩] }] }]
    accesses := [awaitedLoad, awaitedStore] }

/-- The answer to the load performs the store, which writes over the entry. -/
theorem mixedWord_answer_changes_warps :
    (match exec (.remoteAcceptance awaitedLoad.id 0) mixedWord with | .next t => t.warps | _ => mixedWord.warps) ≠ mixedWord.warps := by
  decide +kernel

end Sys2Proof.Machine

namespace Sys2Proof.Claims

open Sys2Proof.Machine

/-- Refutes O53: the clause on an answered load asks that every access with the load's group, place and size be unrefused, but not that it be
a load. In `mixedWord` a store through the stack window shares all three, so the answer performs it as well, and a control entry of its lane
is written over. No word issues such a pair, but the clause is about every state. -/
theorem not_remoteEventsComplete : ¬ Obligations.RemoteEventsComplete := by
  unfold Obligations.RemoteEventsComplete
  rintro ⟨-, -, -, hacc, -⟩
  obtain ⟨-, h⟩ := hacc 0 mixedWord awaitedLoad rfl
  obtain ⟨t, ht, -, hwarps, -⟩ := h ⟨rfl, rfl, rfl⟩ rfl rfl rfl (by decide +kernel) (by decide +kernel)
  have hne := mixedWord_answer_changes_warps
  rw [ht] at hne
  exact hne hwarps

end Sys2Proof.Claims

/-! ## Requests to stop a command -/

namespace Sys2Proof.Machine

section
open Sys2Proof.Claims
variable {s : State} {r : FutRef} {o : EngOp} {c : Cur}

theorem EngOp.ref_beq_iff (q : EngOp) (r : FutRef) : (q.ref == r) = (q.core == r.core && q.slot == r.slot && q.seq == r.seq) := by
  rw [Bool.eq_iff_iff]
  cases r
  simp [EngOp.ref, and_assoc]

/-- The command that a reference names is the first that has it. -/
theorem State.opOf?_eq (s : State) (r : FutRef) : s.opOf? r = s.ops.find? fun q => q.ref == r := by
  simp only [State.opOf?, EngOp.ref_beq_iff]

theorem State.opOf?_ref (h : s.opOf? r = some o) : o.ref = r := by
  rw [State.opOf?_eq] at h
  simpa using List.find?_some h

/-! ### A command that is not armed (R214, R409) -/

/-- What a command that is not armed becomes when it is asked to stop. -/
def askedOp (s : State) (o : EngOp) : EngOp :=
  if o.over then o else if behindOther s o then { o with state := .stopped } else { o with cancelReq := true }

theorem askedOp_resolved : (askedOp s o).resolved = o.resolved := by
  rw [askedOp]; (repeat' split) <;> rfl

/-- A command that has been asked to stop, when its retained slot is let go with its completion. -/
theorem askedOp_letGo : { askedOp s o with retained := false } =
    if o.over = false ∧ behindOther s o = true then { o with state := .stopped, retained := false }
    else { o with cancelReq := o.cancelReq || !o.over, retained := false } := by
  cases hov : o.over with
  | true => simp [askedOp, hov]
  | false => cases hb : behindOther s o <;> simp [askedOp, hov, hb]

/-- The request to stop changes the commands of one slot alone, none in its reference, and the named one as `askedOp` says. -/
theorem askStop_unarmed (h : s.opOf? r = some o) (ha : o.state ≠ .armed) :
    ∃ g : EngOp → EngOp, (∀ q, (g q).ref = q.ref) ∧ g o = askedOp s o ∧
      askStop s r = { s with ops := mapIf (fun q => q.core == o.core && q.slot == o.slot) g s.ops } := by
  rw [askStop]
  simp only [h, beq_iff_eq, ha, if_false]
  cases hov : o.over with
  | true => exact ⟨id, fun _ => rfl, by simp [askedOp, hov], by simp [mapIf]⟩
  | false =>
    cases hb : behindOther s o with
    | true => exact ⟨fun q => { q with state := .stopped }, fun _ => rfl, by simp [askedOp, hov, hb], rfl⟩
    | false => exact ⟨fun q => { q with cancelReq := true }, fun _ => rfl, by simp [askedOp, hov, hb], rfl⟩

/-- The commands with a reference, after a change of those of a slot that keeps references. -/
theorem find?_ref_mapIf {p : EngOp → Bool} {g : EngOp → EngOp} (hg : ∀ q, (g q).ref = q.ref) (l : List EngOp) :
    (mapIf p g l).find? (fun q => q.ref == r) = (l.find? fun q => q.ref == r).map fun q => if p q then g q else q :=
  find?_mapIf_of_eq _ _ g (fun x _ => by rw [hg]) l

theorem filter_ref_mapIf {p : EngOp → Bool} {g : EngOp → EngOp} (hg : ∀ q, (g q).ref = q.ref) (l : List EngOp) :
    (mapIf p g l).filter (fun q => q.ref == r) = mapIf p g (l.filter fun q => q.ref == r) := by
  rw [mapIf, List.filter_map, mapIf]
  congr 1
  refine List.filter_congr fun q _ => ?_
  rw [Function.comp]
  split
  · rw [hg]
  · rfl

/-- What letting a retained slot go leaves of the commands with its reference. -/
theorem letGo_filter : (letGo s r).ops.filter (fun q => q.ref == r) =
    ((s.ops.filter fun q => q.ref == r).filter fun q => !q.resolved).map fun q => { q with retained := false } := by
  have hkeep : ∀ q : EngOp, ((if q.ref == r then { q with retained := false } else q : EngOp).ref == r) = (q.ref == r) := fun q => by
    split <;> rfl
  rw [letGo, List.filter_map, List.filter_filter, List.filter_filter]
  simp only [Function.comp_def, hkeep]
  have hf : (fun q : EngOp => q.ref == r && !(q.ref == r && q.resolved)) = fun q => !q.resolved && q.ref == r := by
    funext q; cases q.ref == r <;> cases q.resolved <;> rfl
  rw [hf]
  refine List.map_congr_left fun q hq => if_pos ?_
  simpa using (Bool.and_eq_true_iff.mp (List.mem_filter.mp hq).2).2

/-! ### An armed command (R156, R214) -/

theorem modEngine_eq (s : State) (o : EngOp) (f : Matrix → Matrix) :
    ∃ cores saved, modEngine s o f = { s with cores := cores, saved := saved } := by
  rw [modEngine]
  split
  · exact ⟨s.cores, _, rfl⟩
  · split
    · exact ⟨_, s.saved, rfl⟩
    · exact ⟨s.cores, s.saved, rfl⟩

theorem spoilStopped_eq (s : State) (o : EngOp) : ∃ cores saved, spoilStopped s o = { s with cores := cores, saved := saved } := by
  rw [spoilStopped]
  split
  · exact modEngine_eq ..
  · split
    · exact modEngine_eq ..
    · exact ⟨s.cores, s.saved, rfl⟩

theorem smFind_smErase {α : Type} (m : List (Nat × α)) (k : Nat) : smFind (smErase m k) k = none := by
  induction m with
  | nil => rfl
  | cons e m ih =>
    by_cases h : e.1 = k
    · simpa [smErase, h] using ih
    · simpa [smErase, smFind, h] using ih

/-- The matrix slot of a resident warp's command emptied, and the command that it held stopped. -/
theorem disarm_resident {w : Warp} {k : Nat} (hw : opWarp? s o = some w) (hk : smFind w.mq k = some r) : ∃ cores saved,
    disarm s o k .stopped = { s.modWarp o.w fun w => { w with mq := smErase w.mq k } with
      cores := cores
      saved := saved
      ops := mapIf (fun q => q.ref == r && q.state == .armed) (fun q => { q with state := .stopped }) s.ops } := by
  have hany : opWarpAny? s o = some w := by rw [opWarpAny?, hw]
  rw [disarm, hany, Option.bind_some, hk]
  simp only [modOpWarp, hw, Option.isSome_some, if_true]
  split
  · next q _ =>
    obtain ⟨cores, saved, hs⟩ := spoilStopped_eq (s.modWarp o.w fun w => { w with mq := smErase w.mq k }) q
    exact ⟨cores, saved, by rw [hs]; rfl⟩
  · exact ⟨s.cores, s.saved, rfl⟩

theorem askStop_armed {w : Warp} {k : Nat} (h : s.opOf? r = some o) (ha : o.state = .armed) (hw : opWarp? s o = some w)
    (hq : w.mq.find? (fun e => e.2 == r) = some (k, r)) : askStop s r = (disarm s o k .stopped).useFree := by
  have hany : opWarpAny? s o = some w := by rw [opWarpAny?, hw]
  rw [askStop]
  simp [h, EngOp.over, ha, hany, hq]

theorem opWarp?_some {w : Warp} (h : opWarp? s o = some w) : s.warpAt? o.w = some w := by
  obtain ⟨x, hx, h⟩ := Option.bind_eq_some_iff.mp h
  split at h <;> simp_all

/-- The issue of a word changes no matrix queue. -/
theorem advance_mq {k : WarpKey} : ((advance s c).warpAt k).mq = (s.warpAt k).mq := by
  have hat : (advance s c).warpAt? k = _ :=
    State.warpAt?_modWarp s c.key k (fun w => (w.modPath c.lane0 (stepRun s.clk)).mapLanes c.p.mask (Lane.pastWord c)) fun _ => rfl
  rw [State.warpAt, State.warpAt, hat]
  cases s.warpAt? k with
  | none => rfl
  | some w => simp only [Option.map_some, Option.getD_some]; split <;> rfl

/-! ### The two words -/

theorem exec_fcancel {h : Hdr} {a : Code} (hi : Issues (.fcancel h a) s c) :
    exec (.fcancel h a) s = .next (advance (((active s c h).filterMap fun l => pendRef? s l a).foldl askStop s) c) := by
  show execFcancel h a s = _
  rw [execFcancel, runWord_ok hi.cur hi.ok]

theorem exec_fcancelRaw {h : Hdr} {a : Code} (hi : Issues (.fcancelRaw h a) s c) :
    exec (.fcancelRaw h a) s = .next (advance ((((active s c h).filterMap fun l => rawTarget? s c.w.ctx (rd64 s l a)).map EngOp.ref).foldl
      (fun s r => letGo (askStop s r) r) s) c) := by
  show execFcancelRaw h a s = _
  rw [execFcancelRaw, runWord_ok hi.cur hi.ok]

/-- A word that has changed no warp before the path moves on. -/
theorem advance_issued {u : State} (hc : cur? s = some c) (hu : u.warps = s.warps) (hclk : u.clk = s.clk) :
    Issued s (advance u c) c c.r LaneKept :=
  (advance_run hc (fun r => r) (by rw [hu]; simp [State.modPath, State.modWarp, Warp.modPath, mapIf]) hclk).1

end

end Sys2Proof.Machine

namespace Sys2Proof.Claims

open Sys2Proof.Machine

/-- Settles O41: the request changes the named command, and the matrix queue and engine of an armed one, and the word itself only moves its
path on. -/
theorem cancelWordsAskTheirCommands : Obligations.CancelWordsAskTheirCommands := by
  unfold Obligations.CancelWordsAskTheirCommands
  refine ⟨fun h a s c hi hnone => ?_, fun h a s c hi hnone => ?_, fun h a s c l r o hi hl hr ho hover => ?_,
    fun h a s c l o hi hl ho hone ha => ?_⟩
  · refine ⟨_, exec_fcancel hi, ?_⟩
    rw [List.filterMap_eq_nil_iff.mpr hnone]
    exact ⟨(advance_plain hi.cur).1, (advance_plain hi.cur).2.1⟩
  · refine ⟨_, exec_fcancelRaw hi, ?_⟩
    rw [List.filterMap_eq_nil_iff.mpr hnone]
    exact ⟨(advance_plain hi.cur).1, (advance_plain hi.cur).2.1⟩
  · have hex : exec (.fcancel h a) s = .next (advance (askStop s r) c) := by
      have hasked : [l].filterMap (fun l => pendRef? s l a) = [r] := by simp [hr]
      rw [exec_fcancel hi, hl, hasked]; rfl
    have hfind : s.ops.find? (fun q => q.ref == r) = some o := by rw [← State.opOf?_eq, ho]
    refine ⟨_, hex, ?_, fun ha => ?_, fun w k ha hw hq hk => ?_⟩
    · rw [advance_mem, askStop_mem]
    · obtain ⟨g, hg, hgo, he⟩ := askStop_unarmed ho ha
      rw [he]
      refine ⟨rfl, advance_issued hi.cur rfl rfl, ?_⟩
      rw [State.opOf?_eq]
      change (mapIf _ g s.ops).find? _ = _
      rw [find?_ref_mapIf hg, hfind, Option.map_some, if_pos (by simp), hgo, askedOp, hover]
      simp
    · obtain ⟨cores, saved, hd⟩ := disarm_resident hw hk
      rw [askStop_armed ho ha hw hq, hd]
      refine ⟨rfl, ?_, ?_⟩
      · rw [State.opOf?_eq]
        change (mapIf (fun q => q.ref == r && q.state == .armed) (fun q => { q with state := .stopped }) s.ops).find? _ = _
        rw [find?_ref_mapIf (g := fun q => { q with state := .stopped }) fun _ => rfl, hfind, Option.map_some,
          if_pos (by simp [State.opOf?_ref ho, ha])]
      · rw [advance_mq]
        have hat : (s.modWarp o.w fun w => { w with mq := smErase w.mq k }).warpAt? o.w = _ :=
          State.warpAt?_modWarp_self _ (fun _ => rfl) (opWarp?_some hw)
        change smFind (((s.modWarp o.w _).warpAt? o.w).getD _).mq k = none
        rw [hat]; exact smFind_smErase w.mq k
  · have hex : exec (.fcancelRaw h a) s = .next (advance (letGo (askStop s o.ref) o.ref) c) := by
      have hasked : [l].filterMap (fun l => rawTarget? s c.w.ctx (rd64 s l a)) = [o] := by simp [ho]
      rw [exec_fcancelRaw hi, hl, hasked]; rfl
    have hfind : s.opOf? o.ref = some o := by rw [State.opOf?_eq, ← List.head?_filter, hone]; rfl
    obtain ⟨g, hg, hgo, he⟩ := askStop_unarmed hfind ha
    refine ⟨_, hex, ?_, ?_, ?_⟩
    · rw [he]; rfl
    · exact advance_issued hi.cur (by rw [he]; rfl) (by rw [he]; rfl)
    · change (letGo (askStop s o.ref) o.ref).ops.filter _ = _
      rw [letGo_filter, he]
      change ((mapIf _ g s.ops).filter _ |>.filter _).map _ = _
      rw [filter_ref_mapIf hg, hone]
      have hm : mapIf (fun q => q.core == o.core && q.slot == o.slot) g [o] = [askedOp s o] := by simp [mapIf, hgo]
      rw [hm]
      by_cases hres : o.resolved = true
      · simp [askedOp_resolved, hres]
      · have hkeep : [askedOp s o].filter (fun q => !q.resolved) = [askedOp s o] := by simp [askedOp_resolved, hres]
        rw [hkeep, List.map_singleton, askedOp_letGo, if_neg hres]
        split <;> rfl

end Sys2Proof.Claims

/-! ## What fault records leave (R97, R325) -/

namespace Sys2Proof.Machine

/-! ### The control registers of a context -/

theorem smGet_smSet_self {α : Type} (d : α) (m : List (Nat × α)) (n : Nat) (v : α) : smGet d (smSet m n v) n = v := by
  induction m with
  | nil => simp [smSet, smGet]
  | cons e m ih =>
    by_cases h : e.1 = n
    · simp [smSet, smGet, h]
    · simp [smSet, smGet, h, ih]

theorem smGet_smSet_ne {α : Type} (d : α) (m : List (Nat × α)) {n k : Nat} (v : α) (h : k ≠ n) : smGet d (smSet m n v) k = smGet d m k := by
  induction m with
  | nil => simp [smSet, smGet, Ne.symm h]
  | cons e m ih =>
    by_cases he : e.1 = n
    · simp [smSet, smGet, he, Ne.symm h]
    · simp [smSet, smGet, he, ih]

/-- A map laid over another reads the same at a key after another key has been erased from the one and set in the other. -/
theorem smGet_smErase_append_smSet {α : Type} (d : α) (m r : List (Nat × α)) {n k : Nat} (v : α) (h : k ≠ n) :
    smGet d (smErase m n ++ smSet r n v) k = smGet d (m ++ r) k := by
  induction m with
  | nil => exact smGet_smSet_ne d r v h
  | cons e m ih =>
    by_cases he : e.1 = n
    · have : e.1 ≠ k := fun c => h (c ▸ he)
      simpa [smErase, smGet, he, Ne.symm h] using ih
    · simp only [smErase, smGet, List.filter_cons, bne_iff_ne, ne_eq, he, not_false_eq_true, if_true, List.cons_append] at ih ⊢
      rw [ih]

/-- Two states of a context agree in the registers of some numbers, as every core sees them. -/
def Ctx.AgreeOn (P : Nat → Prop) (c d : Ctx) : Prop :=
  ∀ n, P n → d.csrOf n = c.csrOf n ∧ ∀ core, (d.view core).csrOf n = (c.view core).csrOf n

section
variable {P : Nat → Prop} {c d e : Ctx} {n : Nat} {v : W32}

theorem Ctx.AgreeOn.refl (c : Ctx) : c.AgreeOn P c := fun _ _ => ⟨rfl, fun _ => rfl⟩

theorem Ctx.AgreeOn.trans (h : c.AgreeOn P d) (g : d.AgreeOn P e) : c.AgreeOn P e := fun n hn =>
  ⟨(g n hn).1.trans (h n hn).1, fun k => ((g n hn).2 k).trans ((h n hn).2 k)⟩

/-- What a core sees of a context is settled by the registers and by what its cores still see of them. -/
theorem Ctx.AgreeOn.of_eq (hc : d.csr = c.csr) (ho : d.old = c.old) : c.AgreeOn P d := fun n _ => by
  refine ⟨by rw [csrOf, csrOf, hc], fun core => ?_⟩
  simp only [Ctx.view, ho]
  split
  · rw [csrOf, csrOf, hc]
  · simp only [csrOf, hc]

theorem Ctx.csrOf_setCsr_self : (c.setCsr n v).csrOf n = v := smGet_smSet_self ..

theorem smFind_map {α β : Type} (f : α → β) (m : List (Nat × α)) (k : Nat) : smFind (m.map fun e => (e.1, f e.2)) k = (smFind m k).map f := by
  induction m with
  | nil => rfl
  | cons e m ih => simp only [List.map_cons, smFind, ih]; split <;> rfl

/-- A write of a register leaves every other one, for every core. -/
theorem Ctx.setCsr_agree (hn : ¬ P n) : c.AgreeOn P (c.setCsr n v) := fun k hk => by
  have hne : k ≠ n := fun e => hn (e ▸ hk)
  refine ⟨smGet_smSet_ne _ _ v hne, fun core => ?_⟩
  simp only [Ctx.view, Ctx.setCsr, smFind_map fun x : BitVec 512 × List (Nat × W32) => (x.1, smErase x.2 n)]
  cases smFind c.old core with
  | none => exact smGet_smSet_ne _ _ v hne
  | some x => exact smGet_smErase_append_smSet _ _ _ v hne

end

/-- A context after one context has been changed by a function that keeps numbers. -/
theorem State.ctxAt_modCtx {s : State} {x y : Nat} {f : Ctx → Ctx} (hf : ∀ c, (f c).num = c.num) :
    (s.modCtx x f).ctxAt y = if x = y then f (s.ctxAt y) else s.ctxAt y := by
  simp only [State.ctxAt, State.modCtx, findD, upsert]
  split
  · next hc =>
    change ((mapIf (fun c => c.num == x) f s.ctxs).find? _).getD _ = _
    rw [find?_mapIf_of_eq _ _ f fun c _ => by rw [hf]]
    cases hx : s.ctxs.find? (fun c => c.num == y) with
    | none =>
      have hne : x ≠ y := fun e => by
        subst e
        obtain ⟨c, hm, hp⟩ := List.any_eq_true.mp hc
        exact List.find?_eq_none.mp hx c hm hp
      simp [hne]
    | some c =>
      have hnum : c.num = y := by simpa using List.find?_some hx
      by_cases hxy : x = y
      · simp [hnum, hxy]
      · simp [hnum, hxy, Ne.symm hxy]
  · next hc =>
    have hnone : s.ctxs.find? (fun c => c.num == x) = none := List.find?_eq_none.mpr fun c hm hp => hc (List.any_eq_true.mpr ⟨c, hm, hp⟩)
    rw [List.find?_append]
    by_cases hxy : x = y
    · subst hxy
      have : (f (blankCtx x)).num = x := hf _
      simp [hnone, this]
    · have : ¬ (f (blankCtx x)).num = y := by rw [hf]; exact hxy
      simp [this, hxy]

/-! ### States that agree in the registers of every context -/

/-- Warps, blocks and accesses are as before, and in every context the registers of some numbers, as every core sees them. -/
structure Recorded (P : Nat → Prop) (s t : State) : Prop where
  keeps : KeepsBlocks s t
  csrs : ∀ x, (s.ctxAt x).AgreeOn P (t.ctxAt x)

section
variable {P : Nat → Prop} {s t u : State} {x n : Nat}

theorem Recorded.refl (s : State) : Recorded P s s := ⟨.refl s, fun _ => .refl _⟩

theorem Recorded.trans (h : Recorded P s t) (g : Recorded P t u) : Recorded P s u := ⟨h.keeps.trans g.keeps, fun x => (h.csrs x).trans (g.csrs x)⟩

theorem Recorded.foldl {α : Type} {f : State → α → State} (hf : ∀ s a, Recorded P s (f s a)) (l : List α) (s : State) :
    Recorded P s (l.foldl f s) := by
  induction l generalizing s with
  | nil => exact refl s
  | cons a r ih => exact (hf s a).trans (ih _)

theorem Recorded.of_ctxs (h : KeepsBlocks s t) (hc : t.ctxs = s.ctxs) : Recorded P s t :=
  ⟨h, fun x => by rw [State.ctxAt, State.ctxAt, hc]; exact .refl _⟩

theorem modCtx_recorded {f : Ctx → Ctx} (hf : ∀ c, (f c).num = c.num) (hP : ∀ c : Ctx, c.AgreeOn P (f c)) : Recorded P s (s.modCtx x f) := by
  refine ⟨modCtx_keepsBlocks, fun y => ?_⟩
  rw [State.ctxAt_modCtx hf]
  split
  · exact hP _
  · exact .refl _

/-- What a core sees of a context. -/
theorem Recorded.ctxFor (h : Recorded P s t) (hn : P n) (core : Nat) : (t.ctxFor core x).csrOf n = (s.ctxFor core x).csrOf n :=
  ((h.csrs x n hn).2 core)

theorem Recorded.csr64 (h : Recorded P s t) (hn : P n) (hn' : P (n + 1)) (core : Nat) : (t.ctxFor core x).csr64 n = (s.ctxFor core x).csr64 n := by
  rw [Ctx.csr64, Ctx.csr64, h.ctxFor hn, h.ctxFor hn']

/-! ### Stores of the part's own, logs and records -/

theorem markDirty_ctxs {line : Nat} : (markDirty s line).ctxs = s.ctxs := by
  rw [markDirty]; (repeat' split) <;> rfl

theorem foldl_markDirty_ctxs {ls : List Nat} : (ls.foldl markDirty s).ctxs = s.ctxs := by
  induction ls generalizing s with
  | nil => rfl
  | cons l ls ih => exact ih.trans markDirty_ctxs

theorem homeWrite_ctxs {key v tkey : Nat} : (homeWrite s key n v tkey).ctxs = s.ctxs := by
  rw [homeWrite]; split
  · rfl
  · exact foldl_markDirty_ctxs

theorem foreignWrite_ctxs {key v tkey : Nat} : (foreignWrite s key n v tkey).ctxs = s.ctxs := by
  have h : (chargeOrdinary s key n).ctxs = s.ctxs := by rw [chargeOrdinary_charged]
  exact homeWrite_ctxs.trans h

theorem partStore_ctxs {va v : Nat} (h : partStore s x va n v = .ok t) : t.ctxs = s.ctxs := by
  unfold partStore at h
  split at h
  · cases h
  · split at h
    · cases h; rfl
    · split at h
      · cases h
      · cases h; exact foreignWrite_ctxs

theorem partStores_ctxs {l : List (Nat × Nat × Nat)} (h : partStores s x l = .ok t) : t.ctxs = s.ctxs := by
  induction l generalizing s with
  | nil => cases h; rfl
  | cons e r ih =>
    unfold partStores at h
    split at h
    · cases h
    · exact (ih h).trans (partStore_ctxs ‹_›)

theorem addLog_ctxs {src code data : Nat} : (addLog s src code data).ctxs = s.ctxs := by rw [addLog]

theorem portError_ctxs {port : Nat} : (portError s port).ctxs = s.ctxs := by
  unfold portError; extract_lets u
  split
  · exact addLog_ctxs
  · rfl

theorem noteErrors_recorded {vas : List Nat} : Recorded P s (noteErrors s x vas) :=
  .foldl (fun _ _ => .of_ctxs portError_keepsBlocks portError_ctxs) _ s

theorem noteFaults_recorded {w : Warp} {fs : List LaneFault} : Recorded P s (noteFaults s w fs) := noteErrors_recorded

/-- STICKY is written. -/
theorem setSticky_recorded {bit : Nat} (hn : ¬ P 0x11) : Recorded P s (s.setSticky x bit) := by
  rw [State.setSticky]; split
  · exact .refl s
  · exact modCtx_recorded (fun _ => rfl) fun c => (Ctx.setCsr_agree hn).trans (.of_eq rfl rfl)

/-- A record writes FBHEAD, or STICKY. -/
theorem writeRecord_recorded {ts src rec : Nat} (h1 : ¬ P 0x11) (h2 : ¬ P 0x23) : Recorded P s (writeRecord s x ts src rec) := by
  unfold writeRecord; extract_lets c fb head size e later moved
  split
  · exact .refl s
  · split
    · exact setSticky_recorded h1
    · split
      · exact noteErrors_recorded.trans (setSticky_recorded h1)
      · next t ht =>
        exact (Recorded.of_ctxs (partStores_keepsBlocks ht) (partStores_ctxs ht)).trans
          (modCtx_recorded (fun _ => rfl) fun c => (Ctx.setCsr_agree h2).trans (.of_eq rfl rfl))

/-- The records of a word's lanes. -/
theorem recordHeads_recorded {ts : Nat} {w : Warp} {pc : W64} {mask : Mask} {fs : List LaneFault} (h1 : ¬ P 0x11) (h2 : ¬ P 0x23) :
    Recorded P s (recordHeads s ts w pc mask fs).1 := by
  suffices h : ∀ (l : List LaneFault) (a : State × SMap W32), Recorded P s a.1 → Recorded P s (l.foldl (fun t f =>
      (writeRecord t.1 w.ctx ts (sourceOf w.key) (recordOf s ts w pc mask f), t.2 ++ [(f.lane, (t.1.ctxAt w.ctx).csrOf 0x23)])) a).1 from
    h fs (s, []) (.refl s)
  intro l
  induction l with
  | nil => exact fun _ ha => ha
  | cons f l ih => exact fun a ha => ih _ (ha.trans (writeRecord_recorded h1 h2))

/-- The first lane's FBHEAD is the one before every record. -/
theorem recordHeads_head {ts : Nat} {w : Warp} {pc : W64} {mask : Mask} {f : LaneFault} {fs : List LaneFault} :
    smGet 0#32 (recordHeads s ts w pc mask (f :: fs)).2 f.lane = (s.ctxAt w.ctx).csrOf 0x23 := by
  suffices h : ∀ (l : List LaneFault) (a : State × SMap W32), a.2.head? = some (f.lane, (s.ctxAt w.ctx).csrOf 0x23) →
      ((l.foldl (fun t f => (writeRecord t.1 w.ctx ts (sourceOf w.key) (recordOf s ts w pc mask f),
        t.2 ++ [(f.lane, (t.1.ctxAt w.ctx).csrOf 0x23)])) a).2).head? = some (f.lane, (s.ctxAt w.ctx).csrOf 0x23) by
    have hh := h fs (writeRecord s w.ctx ts (sourceOf w.key) (recordOf s ts w pc mask f), [(f.lane, (s.ctxAt w.ctx).csrOf 0x23)]) rfl
    obtain ⟨m, hm⟩ := List.head?_eq_some_iff.mp hh
    change smGet 0#32 (fs.foldl _ (_, [] ++ _)).2 f.lane = _
    rw [List.nil_append]
    rw [hm]
    simp [smGet]
  intro l
  induction l with
  | nil => exact fun _ ha => ha
  | cons g l ih => exact fun a ha => ih _ (by rw [List.head?_append, ha]; rfl)

end

end Sys2Proof.Machine

/-! ## Where lanes stop, and the traps that wait (R14, R319, R320) -/

namespace Sys2Proof.Machine

/-! ### Masks -/

theorem foldl_maskOf_getLsbD (ls : List Nat) (m : Mask) (n : Nat) :
    (ls.foldl (fun m l => m ||| (1#32 <<< l)) m).getLsbD n = (m.getLsbD n || decide (n < 32) && ls.contains n) := by
  induction ls generalizing m with
  | nil => simp
  | cons l ls ih =>
    rw [List.foldl_cons, ih, BitVec.getLsbD_or]
    have hbit : (1#32 <<< l).getLsbD n = (decide (n < 32) && decide (n = l)) := by
      rw [BitVec.getLsbD_shiftLeft, BitVec.getLsbD_one, Bool.eq_iff_iff]
      simp only [Bool.and_eq_true, decide_eq_true_eq, Bool.not_eq_true', decide_eq_false_iff_not]
      omega
    rw [hbit, List.contains_cons, Bool.or_assoc, ← Bool.and_or_distrib_left]
    rfl

/-- The bits of the mask of a list of lanes. -/
theorem maskOf_getLsbD (ls : List Nat) (n : Nat) : (maskOf ls).getLsbD n = (decide (n < 32) && ls.contains n) := by
  rw [maskOf, foldl_maskOf_getLsbD]; simp

theorem ne_zero_of_getLsbD {m : Mask} {n : Nat} (h : m.getLsbD n = true) : m ≠ 0#32 := fun e => by simp [e] at h

/-- The lowest lane of a list whose first lane is the lowest. -/
theorem lowLane_maskOf {l : Nat} {ls : List Nat} (hl : l < 32) (h : ∀ x ∈ ls, l < x) : lowLane (maskOf (l :: ls)) = l := by
  have hfind : (List.range 32).find? (fun n => (maskOf (l :: ls)).getLsbD n) = some l := by
    refine List.find?_range_eq_some.mpr ⟨by simp [maskOf_getLsbD, hl], List.mem_range.mpr hl, fun j hj => ?_⟩
    have hne : j ∉ l :: ls := fun hm => (List.mem_cons.mp hm).elim (fun e => absurd hj (e ▸ lt_irrefl _)) fun e => absurd hj (h j e).asymm
    rw [maskOf_getLsbD, List.contains_eq_mem, decide_eq_false hne, Bool.and_false]; rfl
  rw [lowLane, lanesOf, List.headD_eq_head?_getD, List.head?_filter, hfind]; rfl

/-! ### A warp whose paths have been settled -/

section
variable {w : Warp} {s : State} {r : Raise} {mark : Nat → Bool} {n : Nat}

/-- Settling paths changes nothing else of a warp than serial mode. -/
theorem settlePaths_eq (w : Warp) :
    settlePaths w = { w with serial := (settlePaths w).serial, sage := (settlePaths w).sage, paths := (settlePaths w).paths } := by
  unfold settlePaths; extract_lets ps m
  split
  · split <;> rfl
  · split <;> rfl

/-- A lane at its resume point. -/
def stopLane (resume : List (Nat × W64 × W64)) (l : Lane) : Lane :=
  match resume.find? fun x => x.1 == l.id with
  | some x => { l with pc := x.2.1, run := x.2.2 }
  | none => l

theorem stopLane_eq (resume : List (Nat × W64 × W64)) (l : Lane) :
    stopLane resume l = { l with pc := (stopLane resume l).pc, run := (stopLane resume l).run } := by
  rw [stopLane]; split <;> rfl

theorem stopLane_id (resume : List (Nat × W64 × W64)) (l : Lane) : (stopLane resume l).id = l.id := by rw [stopLane_eq]

theorem stopLane_some {resume : List (Nat × W64 × W64)} {l : Lane} {x : Nat × W64 × W64} (h : resume.find? (fun x => x.1 == l.id) = some x) :
    (stopLane resume l).pc = x.2.1 ∧ (stopLane resume l).run = x.2.2 := by
  simp [stopLane, h]

/-- The warp of a raise with its lanes at their resume points, in paths of their own. -/
def stopWarp (clk : Nat) (r : Raise) (mark : Nat → Bool) (w : Warp) : Warp :=
  settlePaths { (w.eachLane (stopLane r.resume)).dropLanes r.mask with
    paths := (w.dropLanes r.mask).paths ++
      stoppedPaths { (w.paths.find? fun p => p.mask &&& r.mask != 0).getD (newPath 0 0) with endedAt := clk } r.resume mark }

theorem stopLanes_eq : stopLanes s r mark = s.modWarp r.key (stopWarp s.clk r mark) := rfl

theorem stopWarp_eq (clk : Nat) (r : Raise) (mark : Nat → Bool) (w : Warp) : stopWarp clk r mark w =
    { w with
      lanes := w.lanes.map (stopLane r.resume)
      serial := (stopWarp clk r mark w).serial
      sage := (stopWarp clk r mark w).sage
      paths := (stopWarp clk r mark w).paths } := by
  conv_lhs => rw [stopWarp, settlePaths_eq]
  rfl

theorem stopWarp_key (clk : Nat) (r : Raise) (mark : Nat → Bool) (w : Warp) : (stopWarp clk r mark w).key = w.key := by rw [stopWarp_eq]

/-- A lane of a warp that has been stopped. -/
theorem stopWarp_laneAt (clk : Nat) (r : Raise) (mark : Nat → Bool) (h : w.hasLane n) :
    (stopWarp clk r mark w).laneAt n = stopLane r.resume (w.laneAt n) := by
  rw [stopWarp_eq]; exact Warp.laneAt_eachLane w (stopLane r.resume) (stopLane_id _) h

/-! ### Traps that wait for their entry -/

/-- A warp that has stopped with a trap request: the request waits for its entry, or for its turn. -/
def trapWarp (clk : Nat) (r : Raise) (nrec : Nat) (fb : W32) (w : Warp) : Warp :=
  let v := stopWarp clk r (fun l => r.tl.getLsbD l) w
  if v.trapMode || v.trapReq.isSome then { v with deferred := v.deferred ++ [reqOf r nrec fb] } else { v with trapReq := some (reqOf r nrec fb) }

theorem trapWarp_key (clk : Nat) (r : Raise) (nrec : Nat) (fb : W32) (w : Warp) : (trapWarp clk r nrec fb w).key = w.key := by
  rw [trapWarp]; split <;> exact stopWarp_key ..

theorem trapWarp_lanes (clk : Nat) (r : Raise) (nrec : Nat) (fb : W32) (w : Warp) :
    (trapWarp clk r nrec fb w).lanes = (stopWarp clk r (fun l => r.tl.getLsbD l) w).lanes := by
  rw [trapWarp]; split <;> rfl

theorem trapWarp_trapReq (clk : Nat) (r : Raise) (nrec : Nat) (fb : W32) (hm : w.trapMode = false) (hq : w.trapReq = none) :
    (trapWarp clk r nrec fb w).trapReq = some (reqOf r nrec fb) := by
  have h1 : (stopWarp clk r (fun l => r.tl.getLsbD l) w).trapMode = false := by rw [stopWarp_eq]; exact hm
  have h2 : (stopWarp clk r (fun l => r.tl.getLsbD l) w).trapReq = none := by rw [stopWarp_eq]; exact hq
  rw [trapWarp, if_neg (by simp [h1, h2])]

/-- A trap outside the handler path of a context with a handler. -/
theorem takeTrap_eq {nrec : Nat} {fb : W32} (hw : s.warpAt? r.key = some w) (hb : (s.ctxFor r.key.core w.ctx).csr64 0x1C ≠ 0)
    (hr : r.handler = false) : takeTrap s r nrec fb = (keepFromMigration s w.blk).modWarp r.key (trapWarp s.clk r nrec fb) := by
  have hat : s.warpAt r.key = w := by rw [State.warpAt, hw]; rfl
  rw [takeTrap, hat]
  simp only [beq_iff_eq, hb, if_false, hr, Bool.false_eq_true]
  rw [stopLanes_eq, State.modWarp_modWarp _ _ _ _ fun v => stopWarp_key ..]
  rfl

/-- A trap that waits for its entry. -/
structure TrapWaits (s t : State) (r : Raise) (w : Warp) (nrec : Nat) (fb : W32) : Prop where
  accesses : t.accesses = s.accesses
  request : (t.warpAt r.key).trapReq = some (reqOf r nrec fb)
  lanes : ∀ n, w.hasLane n → t.laneAt r.key n = stopLane r.resume (w.laneAt n)

/-- A trap outside trap mode, with a handler and none before it, waits for its entry. -/
theorem takeTrap_waits {nrec : Nat} {fb : W32} (hw : s.warpAt? r.key = some w) (hb : (s.ctxFor r.key.core w.ctx).csr64 0x1C ≠ 0)
    (hr : r.handler = false) (hm : w.trapMode = false) (hq : w.trapReq = none) : TrapWaits s (takeTrap s r nrec fb) r w nrec fb := by
  have hat : (takeTrap s r nrec fb).warpAt r.key = trapWarp s.clk r nrec fb w := by
    have hw' : (keepFromMigration s w.blk).warpAt? r.key = some w := hw
    rw [takeTrap_eq hw hb hr, State.warpAt, State.warpAt?_modWarp_self _ (trapWarp_key _ _ _ _) hw']; rfl
  refine ⟨by rw [takeTrap_eq hw hb hr]; rfl, by rw [hat, trapWarp_trapReq _ _ _ _ hm hq], fun n hn => ?_⟩
  rw [State.laneAt, hat, Warp.laneAt, trapWarp_lanes]
  exact stopWarp_laneAt _ _ _ hn

end

end Sys2Proof.Machine

/-! ## Causes raised per lane (R89, R325, R326) -/

namespace Sys2Proof.Machine

section
open Sys2Proof.Claims
variable {s u : State} {c : Cur} {w : Warp} {r : Raise} {n : Nat} {m : Mask}

theorem Raise.without_none (r : Raise) : r.without (maskOf []) = { r with effs := r.effs.map (clipEff 0xFFFFFFFF#32) } := by
  have hall : ~~~(maskOf []) = 0xFFFFFFFF#32 := rfl
  have hand : ∀ m : Mask, m &&& 0xFFFFFFFF#32 = m := fun _ => BitVec.and_allOnes
  have hres : r.resume.filter (fun x => !(maskOf []).getLsbD x.1) = r.resume := List.filter_eq_self.mpr fun x _ => by simp [maskOf]
  rw [Raise.without, hall, hand, hand, hres]

/-! ### Lanes outside helper bodies -/

theorem bodyLanes_mapLanes {g : Lane → Lane} (hg : ∀ l, (g l).id = l.id ∧ (g l).helper = l.helper) (m' : Mask) (h : bodyLanes w m = []) :
    bodyLanes (w.mapLanes m' g) m = [] := by
  rw [bodyLanes, List.map_eq_nil_iff, List.filter_eq_nil_iff] at h ⊢
  intro l hl
  obtain ⟨hin, hbit⟩ := List.mem_filter.mp hl
  obtain ⟨x, hx, rfl⟩ := List.mem_map.mp hin
  have hkeep : (if m'.getLsbD x.id then g x else x).id = x.id ∧ (if m'.getLsbD x.id then g x else x).helper = x.helper := by
    split
    · exact hg x
    · exact ⟨rfl, rfl⟩
  rw [hkeep.1] at hbit
  rw [hkeep.2]
  exact h x (List.mem_filter.mpr ⟨hx, hbit⟩)

theorem bodyLanes_of_bodyOf (hc : cur? s = some c) (hb : bodyOf c = []) (hm : ∀ n, m.getLsbD n = true → c.p.mask.getLsbD n = true) :
    bodyLanes c.w m = [] := by
  obtain ⟨-, -, -, -, -, hl⟩ := cur?_some hc
  rw [bodyLanes, List.map_eq_nil_iff, List.filter_eq_nil_iff]
  intro l hmem
  obtain ⟨hin, hbit⟩ := List.mem_filter.mp hmem
  exact List.filter_eq_nil_iff.mp hb l (hl ▸ List.mem_filter.mpr ⟨hin, hm _ hbit⟩)

theorem Warp.laneAt_id (h : w.hasLane n) : (w.laneAt n).id = n := by
  obtain ⟨l, -, hid, -, hat⟩ := Warp.laneAt_of_hasLane h
  rw [hat, hid]

/-- A lane of the path. -/
theorem lanes_find (hc : cur? s = some c) (hn : c.w.hasLane n) (hm : c.p.mask.getLsbD n = true) :
    c.lanes.find? (fun l => l.id == n) = some (c.w.laneAt n) := by
  obtain ⟨-, -, -, -, -, hl⟩ := cur?_some hc
  obtain ⟨l, -, -, hfind, hat⟩ := Warp.laneAt_of_hasLane hn
  rw [hl, Warp.lanesIn, List.find?_filter, hat, ← hfind]
  congr 1
  funext x
  by_cases hx : x.id = n
  · simp [hx, hm]
  · simp [hx]

/-- A lane of the path that a raise stops where a function of its lanes says. -/
theorem stopLane_resume (hc : cur? s = some c) (hn : c.w.hasLane n) (hm : c.p.mask.getLsbD n = true) {l : Lane} (hid : l.id = n)
    (g : Lane → W64 × W64) :
    ((stopLane (c.lanes.map fun l => (l.id, g l)) l).pc, (stopLane (c.lanes.map fun l => (l.id, g l)) l).run) = g (c.w.laneAt n) := by
  have hfind : (c.lanes.map fun l => (l.id, g l)).find? (fun x => x.1 == l.id) = some ((c.w.laneAt n).id, g (c.w.laneAt n)) := by
    rw [List.find?_map, hid]
    exact congrArg (Option.map _) (lanes_find hc hn hm)
  obtain ⟨h1, h2⟩ := stopLane_some hfind
  rw [h1, h2]

/-- The lanes in which a word executes are lanes of its path. -/
theorem mask_of_active {h : Hdr} (hc : cur? s = some c) {l : Lane} (hl : l ∈ active s c h) : c.p.mask.getLsbD l.id = true := by
  obtain ⟨-, -, -, -, -, hls⟩ := cur?_some hc
  have := (List.mem_filter.mp hl).1
  rw [hls] at this
  exact (List.mem_filter.mp this).2

theorem activeMask_le {h : Hdr} (hc : cur? s = some c) (hn : (activeMask s c h).getLsbD n = true) : c.p.mask.getLsbD n = true := by
  rw [activeMask, maskOf_getLsbD, Bool.and_eq_true, List.contains_iff_mem, List.mem_map] at hn
  obtain ⟨-, l, hl, rfl⟩ := hn
  exact mask_of_active hc hl

/-- The numbers of registers that recording faults leaves: all but STICKY and FBHEAD. -/
def unrecorded (n : Nat) : Prop := n ≠ 0x11 ∧ n ≠ 0x23

/-- The raise by which lanes outside helper bodies trap: its cause is that of the first fault. -/
def trapRaise (r : Raise) (cause : Nat) : Raise := { r with effs := r.effs.map (clipEff 0xFFFFFFFF#32), cause := cause }

/-- A raise per lane outside helper bodies with FAULTMODE STOP: the records are written, and the trap of the first fault is taken. -/
theorem raiseLanes_stops {f : LaneFault} {fs : List LaneFault} (hw : s.warpAt? r.key = some w) (hbody : bodyLanes w r.tl = [])
    (hf : r.faults = f :: fs) (htl : ∀ g ∈ r.faults, r.tl.getLsbD g.lane = true)
    (hstop : ((s.ctxFor r.key.core w.ctx).csrOf 0x13).getLsbD 0 = false) :
    ∃ u fb, Recorded unrecorded s u ∧ raiseLanes s r =
        (takeTrap u (trapRaise r f.cause) (fs.length + 1) fb, false) ∧
      (lowLane r.tl = f.lane → fb = (s.ctxAt w.ctx).csrOf 0x23) := by
  have hat : s.warpAt r.key = w := by rw [State.warpAt, hw]; rfl
  have hall : r.faults.filter (fun g => r.tl.getLsbD g.lane) = r.faults := List.filter_eq_self.mpr htl
  have hne : r.tl ≠ 0 := ne_zero_of_getLsbD (htl f (hf ▸ List.mem_cons_self))
  have hrec : Recorded unrecorded s (noteFaults (recordHeads s r.ts w r.tpc r.mask r.faults).1 w r.faults) :=
    (recordHeads_recorded (fun h => h.1 rfl) fun h => h.2 rfl).trans noteFaults_recorded
  refine ⟨_, smGet 0#32 (recordHeads s r.ts w r.tpc r.mask r.faults).2 (lowLane r.tl), hrec, ?_, fun hlow => ?_⟩
  · have hmode := hrec.ctxFor (x := w.ctx) (n := 0x13) ⟨by decide, by decide⟩ r.key.core
    rw [← hmode] at hstop
    rw [raiseLanes]
    simp only [hat, hbody, List.foldl_nil, Raise.without_none, beq_iff_eq, hne, if_false, hstop, hall, Bool.false_and, Bool.false_eq_true]
    rw [hf]; rfl
  · rw [hlow, hf]; exact recordHeads_head

/-- And with a handler, outside trap mode and with no trap before it, that trap waits for its entry. -/
theorem raiseLanes_waits {f : LaneFault} {fs : List LaneFault} (hw : s.warpAt? r.key = some w) (hbody : bodyLanes w r.tl = [])
    (hf : r.faults = f :: fs) (htl : ∀ g ∈ r.faults, r.tl.getLsbD g.lane = true)
    (hstop : ((s.ctxFor r.key.core w.ctx).csrOf 0x13).getLsbD 0 = false) (hb : (s.ctxFor r.key.core w.ctx).csr64 0x1C ≠ 0)
    (hr : r.handler = false) (hm : w.trapMode = false) (hq : w.trapReq = none) :
    ∃ t fb, raiseLanes s r = (t, false) ∧ TrapWaits s t (trapRaise r f.cause) w (fs.length + 1) fb ∧
      (lowLane r.tl = f.lane → fb = (s.ctxAt w.ctx).csrOf 0x23) := by
  obtain ⟨u, fb, hu, he, hfb⟩ := raiseLanes_stops hw hbody hf htl hstop
  have hwu : u.warpAt? r.key = some w := by rw [State.warpAt?, hu.keeps.warps]; exact hw
  have hbu : (u.ctxFor r.key.core w.ctx).csr64 0x1C ≠ 0 := by
    rw [hu.csr64 (by unfold unrecorded; decide) (by unfold unrecorded; decide)]; exact hb
  obtain ⟨hacc, hreq, hlanes⟩ := takeTrap_waits (r := trapRaise r f.cause) (nrec := fs.length + 1) (fb := fb) hwu hbu hr hm hq
  exact ⟨_, fb, he, ⟨hacc.trans hu.keeps.accesses, hreq, hlanes⟩, hfb⟩

/-- What a word whose every executing lane faults leaves, when its trap waits for its entry. -/
structure LanesTrap (s t : State) (c : Cur) (tl : Mask) (cause nrec : Nat) (fb : W32) : Prop where
  accesses : t.accesses = s.accesses
  request : (t.warpAt c.key).trapReq = some ⟨cause, 0, c.pc, 0, tl, 0, 0, 0, nrec, fb, noted c.r⟩
  lanes : ∀ n, c.w.hasLane n → c.p.mask.getLsbD n = true →
    ((t.laneAt c.key n).pc, (t.laneAt c.key n).run) = if tl.getLsbD n then resumeAt c else resumeNext c

/-- The raise of a word whose lanes have faulted. -/
def laneRaise (c : Cur) (f : LaneFault) (bad : List LaneFault) (good : Lane → W64 × W64) : Raise :=
  { raiseHere c f.cause (maskOf (bad.map (·.lane))) bad with
    resume := c.lanes.map fun l => (l.id, if (maskOf (bad.map (·.lane))).getLsbD l.id then resumeAt c else good l) }

theorem finishLanes_stopped {t : State} {f : LaneFault} {fs : List LaneFault} {good : Lane → W64 × W64}
    (h : raiseLanes (u.modWarp c.key fun w => w.mapLanes c.p.mask (Lane.pastWord c)) (laneRaise c f (f :: fs) good) = (t, false)) :
    finishLanes u c (f :: fs) good = popIssue t := by
  unfold finishLanes; dsimp only
  split
  · next hon => exact absurd ((congrArg Prod.snd h).symm.trans (Bool.and_eq_true_iff.mp hon).1) Bool.false_ne_true
  · exact congrArg (fun x => popIssue x.1) h

theorem Lane.pastWord_keeps (l : Lane) : (l.pastWord c).id = l.id ∧ (l.pastWord c).helper = l.helper := by
  rw [Lane.pastWord]; split <;> exact ⟨rfl, rfl⟩

theorem finishLanes_traps {h : Hdr} {f : LaneFault} {fs : List LaneFault} {good : Lane → W64 × W64} (hc : cur? s = some c)
    (hu : Recorded (fun _ => True) s u) (hl : (f :: fs).map (·.lane) = (active s c h).map (·.id)) (hbody : bodyOf c = [])
    (hb : hasHandler s c.key c.w) (hstop : faultStops s c.key c.w) (hh : c.p.handler = false) (hm : c.w.trapMode = false)
    (hq : c.w.trapReq = none) (hgood : ∀ l, good l = resumeNext c) :
    ∃ fb, LanesTrap s (finishLanes u c (f :: fs) good) c (activeMask s c h) f.cause (fs.length + 1) fb ∧
      ((∀ g ∈ fs, f.lane < g.lane) → fb = fbHead s c.w) := by
  obtain ⟨-, hw, -, -, -, -⟩ := cur?_some hc
  have htl : maskOf ((f :: fs).map (·.lane)) = activeMask s c h := congrArg maskOf hl
  have hlane : ∀ g ∈ f :: fs, (activeMask s c h).getLsbD g.lane = true := fun g hg => by
    have hmem : g.lane ∈ (active s c h).map (·.id) := hl ▸ List.mem_map_of_mem hg
    obtain ⟨l, hact, hid⟩ := List.mem_map.mp hmem
    have hlt : g.lane < 32 := hid ▸ BitVec.lt_of_getLsbD (mask_of_active hc hact)
    rw [activeMask, maskOf_getLsbD, List.contains_iff_mem.mpr hmem, decide_eq_true hlt]; rfl
  have hwu : u.warpAt? c.key = some c.w := by rw [State.warpAt?, hu.keeps.warps]; exact hw
  have hmode : ((u.ctxFor c.key.core c.w.ctx).csrOf 0x13).getLsbD 0 = false := by
    rw [hu.ctxFor trivial]; exact hstop
  have hbase : (u.ctxFor c.key.core c.w.ctx).csr64 0x1C ≠ 0 := by
    rw [hu.csr64 trivial trivial]; exact hb
  obtain ⟨t, fb, hraise, ⟨hacc, hreq, hlanes⟩, hfb⟩ := raiseLanes_waits
    (s := u.modWarp c.key fun w => w.mapLanes c.p.mask (Lane.pastWord c)) (r := laneRaise c f (f :: fs) good)
    (State.warpAt?_modWarp_self _ (fun _ => rfl) hwu)
    (bodyLanes_mapLanes Lane.pastWord_keeps _ (bodyLanes_of_bodyOf hc hbody fun n hn => activeMask_le (h := h) hc (htl ▸ hn))) rfl
    (by rw [← htl] at hlane; exact hlane) hmode hbase hh hm hq
  rw [finishLanes_stopped hraise]
  refine ⟨fb, ⟨hacc.trans hu.keeps.accesses, ?_, fun n hn hbit => ?_⟩, fun hasc => ?_⟩
  · rw [← htl]; exact hreq
  · have hn' := (Warp.hasLane_mapLanes (w := c.w) (m := c.p.mask) fun l => Lane.pastWord_id c l).mpr hn
    have hstand : (popIssue t).laneAt c.key n = _ := hlanes n hn'
    rw [hstand, ← htl]
    refine (stopLane_resume hc hn hbit (Warp.laneAt_id hn') _).trans ?_
    rw [Warp.laneAt_id hn, hgood]
  · have hlow : lowLane (maskOf ((f :: fs).map (·.lane))) = f.lane :=
      lowLane_maskOf (BitVec.lt_of_getLsbD (hlane f List.mem_cons_self)) fun x hx => by
        obtain ⟨g, hg, rfl⟩ := List.mem_map.mp hx
        exact hasc g hg
    rw [hfb hlow]
    exact ((hu.csrs c.w.ctx) 0x23 trivial).1

end

end Sys2Proof.Machine

/-! ## Words whose every executing lane faults (R136, R147, R159, R386) -/

namespace Sys2Proof.Machine

section
open Sys2Proof.Claims
variable {s : State} {c : Cur} {i : Instr} {h : Hdr} {k : Nat}

/-- A word whose every executing lane faults, the first by a cause: before it ends, nothing that a raise looks at has changed. -/
def Faults (i : Instr) (s : State) (c : Cur) (h : Hdr) (k : Nat) : Prop :=
  ∃ u f fs good, exec i s = .next (finishLanes u c (f :: fs) good) ∧ Recorded (fun _ => True) s u ∧
    (f :: fs).map (·.lane) = (active s c h).map (·.id) ∧ f.cause = k ∧ ∀ l, good l = resumeNext c

theorem filterMap_eq_map_of_some {α β : Type} {f : α → Option β} {g : α → β} {l : List α} (h : ∀ x ∈ l, f x = some (g x)) :
    l.filterMap f = l.map g := by
  rw [← List.filterMap_eq_map]
  exact List.filterMap_congr h

/-- A warp without change. -/
theorem modWarp_mapLanes_none (s : State) (k : WarpKey) (g : Lane → Lane) : (s.modWarp k fun w => w.mapLanes (maskOf []) g) = s := by
  have hw : ∀ w : Warp, w.mapLanes (maskOf []) g = w := fun w => by
    simp [Warp.mapLanes, mapIf, maskOf]
  simp [State.modWarp, mapIf, hw]

theorem watchHit_none {x : Ctx} {kind va n : Nat} (h : ∀ wp < 4, (x.csrOf (0x102 + 4 * wp)).getLsbD kind = false) :
    watchHit x kind va n = none := by
  rw [watchHit, List.findSome?_eq_none_iff]
  intro wp hwp
  rw [h wp (List.mem_range.mp hwp)]; rfl

/-- The fault of a lane whose address fails a check. -/
def addrFault (s : State) (c : Cur) (f : MemForm) (ea : State → Lane → Nat) (l : Lane) : LaneFault :=
  match checkAccess s c.w f l (ea s l) with
  | .error (cause, va) => ⟨l.id, cause, 0, va, f.acc⟩
  | .ok _ => ⟨l.id, 0, 0, 0, f.acc⟩

theorem memWord_faults {f : MemForm} {ea : State → Lane → Nat} {data : State → Lane → W128} {cmp : State → Lane → W64} (hi : Issues i s c)
    (hwp : f.store = true → ∀ wp < 4, ((s.ctxAt c.w.ctx).csrOf (0x102 + 4 * wp)).getLsbD 16 = false)
    (herr : ∀ x ∈ active s c h, ∃ e, checkAccess s c.w f x (ea s x) = .error e) :
    ∃ u, Recorded (fun _ => True) s u ∧
      memWord i h f ea data cmp s = finishLanes u c ((active s c h).map (addrFault s c f ea)) fun _ => resumeNext c := by
  unfold memWord; rw [runWord_ok hi.cur hi.ok]; extract_lets act x hits res good bad fl far as s1 bad' ls s2 s3
  have hhits : hits = [] := by
    simp only [hits]
    split
    · next hst =>
      refine List.filterMap_eq_nil_iff.mpr fun l _ => ?_
      rw [watchHit_none (hwp hst)]; split <;> rfl
    · rfl
  have hgood : good = [] := by
    refine List.filterMap_eq_nil_iff.mpr fun y hy => ?_
    obtain ⟨l, hl, rfl⟩ := List.mem_map.mp hy
    obtain ⟨e, he⟩ := herr l hl
    simp only [he]
  have hfar : far = false := by simp only [far, hgood]; rfl
  have has : as = [] := by
    change dropLowerStt (numberFrom s.nextId (res.flatMap _)) = []
    rw [List.flatMap_eq_nil_iff.mpr fun y hy => ?_]
    · rfl
    · obtain ⟨l, hl, rfl⟩ := List.mem_map.mp hy
      obtain ⟨e, he⟩ := herr l hl
      simp only [he, hfar]; rfl
  have hbad : bad = act.map (addrFault s c f ea) := by
    refine List.filterMap_map.trans (filterMap_eq_map_of_some fun l hl => ?_)
    obtain ⟨e, he⟩ := herr l hl
    simp only [Function.comp, addrFault, he]
  have hls : ls = [] := by simp only [ls, hfar, hgood]; rfl
  have h1 : Recorded (fun _ => True) s s1 := by
    refine .of_ctxs ⟨rfl, rfl, rfl, ?_, rfl, rfl⟩ rfl
    change s.accesses ++ as = s.accesses
    rw [has, List.append_nil]
  have h2 : s2 = s1 := by
    simp only [s2, hls, bindFlags]
    split
    · split
      · rfl
      · exact modWarp_mapLanes_none ..
    · rfl
  have h3 : s3 = s1 := by
    simp only [s3, hgood, h2]; exact modWarp_mapLanes_none ..
  rw [if_neg (by simp [hhits])]
  refine ⟨s1, h1, ?_⟩
  rw [h3, ← hbad]
  simp only [bad', hfar]; rfl

/-! ### Memory words -/

theorem tyBytes_eq_sizeOf (ty : BitVec 4) : tyBytes ty = Claims.sizeOf ty := by revert ty; decide

theorem atomBytes_eq_operandSize (ty : BitVec 4) : atomBytes ty = operandSize ty := by revert ty; decide

/-- The words of `memRow` are memory words with the form and the addresses of their rows. -/
theorem exec_memRow {r : MemRow} (hr : memRow i = some r) (s : State) : ∃ data cmp,
    exec i s = .next (memWord i r.hdr r.form (fun s l => (r.addr s l).toNat) data cmp s) := by
  cases i <;> cases hr
  case atom | red => rw [← atomBytes_eq_operandSize]; exact ⟨_, _, rfl⟩
  case ld | st | cas | stt | retract | commit | mwait => rw [← tyBytes_eq_sizeOf]; exact ⟨_, _, rfl⟩

theorem memRow_faults {r : MemRow} {l : Lane} {ls : List Lane} {va : Nat} (hr : memRow i = some r) (hi : Issues i s c)
    (hact : active s c r.hdr = l :: ls) (hk : checkAccess s c.w r.form l (r.addr s l).toNat = .error (k, va))
    (hls : ∀ x ∈ ls, ∃ e, checkAccess s c.w r.form x (r.addr s x).toNat = .error e)
    (hwp : r.form.store = true → ∀ wp < 4, ((s.ctxAt c.w.ctx).csrOf (0x102 + 4 * wp)).getLsbD 16 = false) : Faults i s c r.hdr k := by
  obtain ⟨data, cmp, hex⟩ := exec_memRow hr s
  have hall : ∀ x ∈ active s c r.hdr, ∃ e, checkAccess s c.w r.form x (r.addr s x).toNat = .error e := by
    rw [hact]
    exact List.forall_mem_cons.mpr ⟨⟨_, hk⟩, hls⟩
  obtain ⟨u, hu, he⟩ := memWord_faults (h := r.hdr) (ea := fun s l => (r.addr s l).toNat) (data := data) (cmp := cmp) hi hwp hall
  let F := addrFault s c r.form fun s l => (r.addr s l).toNat
  refine ⟨u, F l, ls.map F, fun _ => resumeNext c, ?_, hu, ?_, ?_, fun _ => rfl⟩
  · rw [hex, he, hact]; rfl
  · have hlane : ∀ x, (F x).lane = x.id := fun x => by simp only [F, addrFault]; split <;> rfl
    rw [hact, ← List.map_cons, List.map_map]
    exact List.map_congr_left fun x _ => hlane x
  · simp only [F, addrFault, hk]

/-! ### Words that act on the stack or transfer -/

/-- A lane's fault in such a word, if it has one. -/
def stepFault (f : State → Cur → Lane → LaneStep) (s : State) (c : Cur) (l : Lane) : LaneFault :=
  match f s c l with
  | .error e => e
  | .ok _ => ⟨l.id, 0, 0, 0, 0⟩

theorem stepWord_faults {f : State → Cur → Lane → LaneStep} (hi : Issues i s c) (herr : ∀ x ∈ active s c h, ∃ e, f s c x = .error e) :
    ∃ u good, Recorded (fun _ => True) s u ∧ (∀ l, good l = resumeNext c) ∧
      stepWord i h f s = finishLanes u c ((active s c h).map (stepFault f s c)) good := by
  unfold stepWord; rw [runWord_ok hi.cur hi.ok]; extract_lets res good bad s1 targets s2
  have hgood : good = [] := by
    refine List.filterMap_eq_nil_iff.mpr fun y hy => ?_
    obtain ⟨l, hl, rfl⟩ := List.mem_map.mp hy
    obtain ⟨e, he⟩ := herr l hl
    simp only [he]
  have htargets : targets = [] := by simp only [targets, hgood]; rfl
  have hbad : bad = (active s c h).map (stepFault f s c) := by
    refine List.filterMap_map.trans (filterMap_eq_map_of_some fun l hl => ?_)
    obtain ⟨e, he⟩ := herr l hl
    simp only [Function.comp, stepFault, he]
  have h1 : s1 = s := by
    simp only [s1, hgood]
    simp [State.modWarp, mapIf, Warp.eachLane]
  have h2 : s2 = s := by simp only [s2, htargets, h1]; rfl
  rw [h2, hbad, htargets]
  exact ⟨s, _, .refl s, fun _ => rfl, rfl⟩

theorem Faults.of_stepWord {f : State → Cur → Lane → LaneStep} {P : Lane → Nat → Prop} {l : Lane} {ls : List Lane} (hi : Issues i s c)
    (hex : exec i s = .next (stepWord i h f s)) (hact : active s c h = l :: ls)
    (hP : ∀ x j, P x j → ∃ e, f s c x = .error e ∧ e.lane = x.id ∧ e.cause = j) (hl : P l k) (hls : ∀ x ∈ ls, ∃ j, P x j) :
    Faults i s c h k := by
  have hall : ∀ x ∈ active s c h, ∃ j, P x j := by
    rw [hact]
    exact List.forall_mem_cons.mpr ⟨⟨k, hl⟩, hls⟩
  obtain ⟨u, good, hu, hgood, he⟩ := stepWord_faults (h := h) hi fun x hx => (hall x hx).elim fun j hj => (hP x j hj).imp fun _ he => he.1
  have hlane : ∀ x ∈ active s c h, (stepFault f s c x).lane = x.id := fun x hx => by
    obtain ⟨j, hj⟩ := hall x hx
    obtain ⟨e, he, hid, -⟩ := hP x j hj
    simp only [stepFault, he, hid]
  obtain ⟨e, hfl, -, hcause⟩ := hP l k hl
  refine ⟨u, stepFault f s c l, ls.map (stepFault f s c), good, by rw [hex, he, hact]; rfl, hu, ?_, ?_, hgood⟩
  · rw [← List.map_cons, ← hact, List.map_map]
    exact List.map_congr_left hlane
  · simp only [stepFault, hfl, hcause]

variable {l : Lane} {w : Warp}

theorem pushEntry_error {ret : Bool} {val : W64} {size : Nat} (hf : ¬ fits c l (16 + size)) :
    pushEntry s w c.p.handler ret val size l = .error ⟨l.id, cStack, 0, stackByte s w c.p.handler l (depthOf c.p.handler l), 5⟩ := by
  rw [pushEntry]; exact if_pos (by unfold fits at hf; omega)

theorem pushEntry_ok {ret : Bool} {val : W64} {size : Nat} (hf : fits c l (16 + size)) :
    ∃ l', pushEntry s w c.p.handler ret val size l = .ok l' := by
  rw [pushEntry]; exact ⟨_, if_neg (by unfold fits at hf; omega)⟩

theorem checkTarget_error {t : W64} (ht : t.toNat % 8 ≠ 0) : checkTarget l t = .error ⟨l.id, cMisalign, 0, t.toNat, 0⟩ := by
  rw [checkTarget, if_pos (bne_iff_ne.mpr ht)]

/-- The kind of a known top entry. -/
theorem entryIsRet_of_topIs {ret : Bool} {e : CtlEntry} (ht : topIs c l ret e) : entryIsRet s l (topEntry c.p.handler l) = ret := by
  obtain ⟨-, hlast, hany, -, hret⟩ := ht
  rw [topEntry, hlast, Option.getD_some, entryIsRet, hany]
  exact hret

theorem popReturn_error (hp : depthOf c.p.handler l = 0 ∨ ∃ e, topIs c l false e) :
    popReturn s w c.p.handler l = .error (popFault s w c.p.handler l) := by
  rw [popReturn, if_pos]
  rcases hp with hd | ⟨e, he⟩
  · simp [hd]
  · simp [entryIsRet_of_topIs he]

theorem popFrame_error (hp : depthOf c.p.handler l = 0 ∨ ∃ e, topIs c l true e) :
    popFrame s w c.p.handler l = .error (popFault s w c.p.handler l) := by
  rw [popFrame, if_pos]
  rcases hp with hd | ⟨e, he⟩
  · simp [hd]
  · simp [entryIsRet_of_topIs he]

/-- A word whose every executing lane meets the conditions of its row faults by the first lane's cause. -/
theorem faultRow_faults {r : FaultRow} {ls : List Lane} (hr : faultRow i = some r) (hi : Issues i s c) (hact : active s c r.hdr = l :: ls)
    (hk : r.cause s c l k) (hls : ∀ x ∈ ls, ∃ j, r.cause s c x j)
    (hwp : r.store = true → ∀ wp < 4, ((s.ctxAt c.w.ctx).csrOf (0x102 + 4 * wp)).getLsbD 16 = false) : Faults i s c r.hdr k := by
  unfold faultRow at hr
  split at hr
  · next m hm =>
    cases hr
    obtain ⟨va, hva⟩ := hk
    exact memRow_faults hm hi hact hva (fun x hx => (hls x hx).elim fun j hj => hj.elim fun va he => ⟨_, he⟩) hwp
  · split at hr
    all_goals cases hr
    · refine .of_stepWord hi rfl hact (fun x j hx => ?_) hk hls
      obtain ⟨ht, rfl⟩ := hx
      simp only [checkTarget_error ht]
      exact ⟨_, rfl, rfl, rfl⟩
    · refine .of_stepWord hi rfl hact (fun x j hx => ?_) hk hls
      obtain ⟨hf, rfl⟩ := hx
      simp only [pushEntry_error (size := 0) hf]
      exact ⟨_, rfl, rfl, rfl⟩
    · refine .of_stepWord hi rfl hact (fun x j hx => ?_) hk hls
      rcases hx with ⟨hf, rfl⟩ | ⟨hf, ht, rfl⟩
      · simp only [pushEntry_error (size := 0) hf]
        exact ⟨_, rfl, rfl, rfl⟩
      · obtain ⟨l', hl'⟩ := pushEntry_ok (s := s) (w := c.w) (ret := true) (val := afterRun c) (size := 0) hf
        simp only [hl', checkTarget_error ht]
        exact ⟨_, rfl, rfl, rfl⟩
    · refine .of_stepWord hi rfl hact (fun x j hx => ?_) hk hls
      obtain ⟨hf, rfl⟩ := hx
      simp only [pushEntry_error hf]
      exact ⟨_, rfl, rfl, rfl⟩
    · refine .of_stepWord hi rfl hact (fun x j hx => ?_) hk hls
      obtain ⟨hp, rfl⟩ := hx
      simp only [popReturn_error hp]
      exact ⟨_, rfl, rfl, rfl⟩
    · refine .of_stepWord hi rfl hact (fun x j hx => ?_) hk hls
      obtain ⟨hp, rfl⟩ := hx
      simp only [popFrame_error hp]
      exact ⟨_, rfl, rfl, rfl⟩

/-- Outside helper bodies, with a handler and FAULTMODE STOP, the lanes of such a word trap. -/
theorem Faults.trap {ls : List Lane} (hF : Faults i s c h k) (hc : cur? s = some c) (hact : active s c h = l :: ls) (hbody : bodyOf c = [])
    (hb : hasHandler s c.key c.w) (hstop : faultStops s c.key c.w) (hh : c.p.handler = false) (hm : c.w.trapMode = false)
    (hq : c.w.trapReq = none) : ∃ t fb, exec i s = .next t ∧ LanesTrap s t c (activeMask s c h) k (ls.length + 1) fb ∧
      ((∀ x ∈ ls, l.id < x.id) → fb = fbHead s c.w) := by
  obtain ⟨u, f, fs, good, hex, hu, hl, rfl, hgood⟩ := hF
  obtain ⟨fb, ht, hfb⟩ := finishLanes_traps hc hu hl hbody hb hstop hh hm hq hgood
  rw [hact, List.map_cons, List.map_cons, List.cons.injEq] at hl
  have hlen : fs.length = ls.length := by simpa using congrArg List.length hl.2
  refine ⟨_, fb, hex, hlen ▸ ht, fun hasc => hfb fun g hg => ?_⟩
  have hmem : g.lane ∈ ls.map (·.id) := hl.2 ▸ List.mem_map_of_mem hg
  obtain ⟨x, hx, hid⟩ := List.mem_map.mp hmem
  rw [hl.1, ← hid]
  exact hasc x hx

end

end Sys2Proof.Machine

/-! ## Watchpoints (R346 to R348) -/

namespace Sys2Proof.Machine

section
open Sys2Proof.Claims
variable {x : Ctx} {kind va n wp b : Nat}

/-! ### The first match (R347) -/

/-- What one watchpoint gives. -/
def watchOne (x : Ctx) (kind va n wp : Nat) : Option (Nat × Nat) :=
  if (x.csrOf (0x102 + 4 * wp)).getLsbD kind then ((watchBytes x wp va n).head?).map fun b => (wp, b) else none

theorem watchHit_eq (x : Ctx) (kind va n : Nat) : watchHit x kind va n = (List.range 4).findSome? (watchOne x kind va n) := rfl

theorem mem_watchBytes : b ∈ watchBytes x wp va n ↔
    b < 16 ∧ (x.csrOf (0x102 + 4 * wp)).getLsbD b = true ∧ va ≤ watchBase x wp + b ∧ watchBase x wp + b < va + n := by
  rw [watchBytes, List.mem_filter, List.mem_range]
  simp only [Bool.and_eq_true, decide_eq_true_eq, and_assoc]

theorem matches_iff : Matches x kind va n wp b ↔ (x.csrOf (0x102 + 4 * wp)).getLsbD kind = true ∧ b ∈ watchBytes x wp va n := by
  rw [mem_watchBytes, and_left_comm]; rfl

/-- The bytes are listed in ascending order. -/
theorem watchBytes_head : (watchBytes x wp va n).head? = some b ↔ b ∈ watchBytes x wp va n ∧ ∀ e < b, e ∉ watchBytes x wp va n := by
  rw [watchBytes, List.head?_filter, List.find?_range_eq_some]
  simp only [List.mem_filter, List.mem_range, not_and, Bool.not_eq_true, Bool.not_eq_true']
  exact ⟨fun ⟨hp, hb, hj⟩ => ⟨⟨hb, hp⟩, fun e he _ => hj e he⟩,
    fun ⟨⟨hb, hp⟩, hj⟩ => ⟨hp, hb, fun e he => hj e he (he.trans hb)⟩⟩

theorem watchOne_some {y : Nat × Nat} :
    watchOne x kind va n wp = some y ↔ y.1 = wp ∧ Matches x kind va n wp y.2 ∧ ∀ e < y.2, ¬ Matches x kind va n wp e := by
  simp only [matches_iff, watchOne]
  by_cases hk : (x.csrOf (0x102 + 4 * wp)).getLsbD kind = true
  · simp only [hk, if_true, true_and, ← watchBytes_head, Option.map_eq_some_iff]
    exact ⟨fun ⟨_, h, e⟩ => e ▸ ⟨rfl, h⟩, fun ⟨h1, h2⟩ => ⟨y.2, h2, by rw [← h1]⟩⟩
  · simp [hk]

theorem watchOne_none : watchOne x kind va n wp = none ↔ ∀ e, ¬ Matches x kind va n wp e := by
  simp only [matches_iff, watchOne]
  by_cases hk : (x.csrOf (0x102 + 4 * wp)).getLsbD kind = true
  · simp only [hk, if_true, true_and, Option.map_eq_none_iff, List.head?_eq_none_iff, List.eq_nil_iff_forall_not_mem]
  · simp [hk]

/-- The first value that a function gives on a range. -/
theorem findSome?_range {β : Type} (f : Nat → Option β) (m : Nat) (y : β) :
    (List.range m).findSome? f = some y ↔ ∃ q < m, f q = some y ∧ ∀ j < q, f j = none := by
  induction m with
  | zero => simp
  | succ m ih =>
    rw [List.range_succ, List.findSome?_append, Option.or_eq_some_iff, ih, List.findSome?_eq_none_iff]
    constructor
    · rintro (⟨q, hq, h⟩ | ⟨hnone, h⟩)
      · exact ⟨q, hq.trans m.lt_succ_self, h⟩
      · exact ⟨m, m.lt_succ_self, by simpa using h, fun j hj => hnone j (List.mem_range.mpr hj)⟩
    · rintro ⟨q, hq, h, hbefore⟩
      rcases Nat.lt_succ_iff_lt_or_eq.mp hq with hlt | rfl
      · exact .inl ⟨q, hlt, h, hbefore⟩
      · exact .inr ⟨fun j hj => hbefore j (List.mem_range.mp hj), by simpa using h⟩

/-- The first watchpoint that matches, with its first byte. -/
theorem watchHit_some : watchHit x kind va n = some (wp, b) ↔
    wp < 4 ∧ Matches x kind va n wp b ∧ (∀ q < wp, ∀ e, ¬ Matches x kind va n q e) ∧ ∀ e < b, ¬ Matches x kind va n wp e := by
  rw [watchHit_eq, findSome?_range]
  constructor
  · rintro ⟨q, hq, h, hbefore⟩
    obtain ⟨rfl, hm, hfirst⟩ := watchOne_some.mp h
    exact ⟨hq, hm, fun j hj => watchOne_none.mp (hbefore j hj), hfirst⟩
  · rintro ⟨hq, hm, hbefore, hfirst⟩
    exact ⟨wp, hq, watchOne_some.mpr ⟨rfl, hm, hfirst⟩, fun j hj => watchOne_none.mpr (hbefore j hj)⟩

end

end Sys2Proof.Machine

/-! ## Paths after they have been settled (R14, R16, R27) -/

namespace Sys2Proof.Machine

/-- A path stands where another does, and in or out of a run as it does. -/
def Path.StandsAs (p q : Path) : Prop := p.pc = q.pc ∧ p.run = q.run ∧ p.inRun = q.inRun ∧ p.ending = q.ending

/-- A path stands as some path of a list does, and each lane of it comes from such a path. -/
structure FormedOf (ps : List Path) (p : Path) : Prop where
  stands : ∃ q ∈ ps, p.StandsAs q
  lane : ∀ n, p.mask.getLsbD n = true → ∃ q ∈ ps, q.mask.getLsbD n = true ∧ p.StandsAs q

section
variable {ps qs : List Path} {p q x : Path} {w : Warp} {s : State} {r : Raise} {mark : Nat → Bool} {n : Nat}

theorem Path.StandsAs.refl (p : Path) : p.StandsAs p := ⟨rfl, rfl, rfl, rfl⟩

theorem Path.StandsAs.trans (h : p.StandsAs q) (g : q.StandsAs x) : p.StandsAs x :=
  ⟨h.1.trans g.1, h.2.1.trans g.2.1, h.2.2.1.trans g.2.2.1, h.2.2.2.trans g.2.2.2⟩

theorem FormedOf.of_mem (h : p ∈ ps) : FormedOf ps p := ⟨⟨p, h, .refl p⟩, fun _ hn => ⟨p, h, hn, .refl p⟩⟩

theorem FormedOf.trans (h : FormedOf ps p) (hs : ∀ q ∈ ps, FormedOf qs q) : FormedOf qs p where
  stands := by
    obtain ⟨q, hq, hpq⟩ := h.stands
    obtain ⟨x, hx, hqx⟩ := (hs q hq).stands
    exact ⟨x, hx, hpq.trans hqx⟩
  lane n hn := by
    obtain ⟨q, hq, hqn, hpq⟩ := h.lane n hn
    obtain ⟨x, hx, hxn, hqx⟩ := (hs q hq).lane n hqn
    exact ⟨x, hx, hxn, hpq.trans hqx⟩

theorem FormedOf.mono (h : FormedOf ps p) (hs : ps ⊆ qs) : FormedOf qs p := h.trans fun _ hq => .of_mem (hs hq)

/-- A path with other lanes, each of them its own, and another age. -/
theorem FormedOf.of_standsAs (h : p ∈ ps) (hq : q.StandsAs p) (hm : ∀ n, q.mask.getLsbD n = true → p.mask.getLsbD n = true) : FormedOf ps q :=
  ⟨⟨p, h, hq⟩, fun n hn => ⟨p, h, hm n hn, hq⟩⟩

theorem mergeTwo_formed (h : canMerge p q = true) : FormedOf [p, q] (mergeTwo p q) := by
  have hpq : p.StandsAs q := by
    simp only [canMerge, Path.atBoundary, Bool.and_eq_true, beq_iff_eq, Option.isNone_iff_eq_none] at h
    obtain ⟨⟨⟨⟨⟨⟨⟨⟨hp1, hp2⟩, hq1, hq2⟩, hpc⟩, hrun⟩, -⟩, -⟩, -⟩, -⟩ := h
    exact ⟨hpc, hrun, hp1.trans hq1.symm, hp2.trans hq2.symm⟩
  refine ⟨⟨p, List.mem_cons_self, .refl p⟩, fun n hn => ?_⟩
  rcases Bool.or_eq_true_iff.mp ((BitVec.getLsbD_or (x := p.mask) (y := q.mask)).symm.trans hn) with hp | hq
  · exact ⟨p, List.mem_cons_self, hp, .refl p⟩
  · exact ⟨q, by simp, hq, hpq⟩

theorem addPath_formed (h : p ∈ addPath ps x) : FormedOf (ps ++ [x]) p := by
  induction ps with
  | nil => exact .of_mem h
  | cons q ps ih =>
    rw [addPath] at h
    split at h
    · next hm =>
      rcases List.mem_cons.mp h with rfl | hp
      · exact (mergeTwo_formed hm).mono (by simp)
      · exact .of_mem (by simp [hp])
    · rcases List.mem_cons.mp h with rfl | hp
      · exact .of_mem (by simp)
      · exact (ih hp).mono (by simp)

theorem mergeAll_formed (h : p ∈ mergeAll ps) : FormedOf ps p := by
  suffices hs : ∀ (ps acc : List Path), p ∈ ps.foldl addPath acc → FormedOf (acc ++ ps) p by simpa using hs ps [] h
  intro ps
  induction ps with
  | nil => exact fun acc h => .of_mem (by simpa using h)
  | cons x ps ih =>
    intro acc h
    refine (ih _ h).trans fun q hq => ?_
    rcases List.mem_append.mp hq with hq | hq
    · exact (addPath_formed hq).mono (by simp)
    · exact .of_mem (by simp [hq])

theorem splitPath_formed (h : p ∈ splitPath q) : FormedOf [q] p := by
  rw [splitPath] at h
  split at h
  · obtain ⟨l, hl, rfl⟩ := List.mem_map.mp h
    refine .of_standsAs (List.mem_singleton_self q) ⟨rfl, rfl, rfl, rfl⟩ fun n hn => ?_
    have hnl : n = l := by
      rw [maskOf_getLsbD] at hn
      simpa using (Bool.and_eq_true_iff.mp hn).2
    rw [hnl]
    simpa using (List.mem_filter.mp hl).2
  · exact .of_mem h

/-- Merged or split, every path of the settled warp is formed of paths of the warp. -/
theorem settlePaths_formed (h : p ∈ (settlePaths w).paths) : FormedOf w.paths p := by
  have hsub : w.paths.filter (fun p => p.mask != 0) ⊆ w.paths := List.filter_subset_self _
  have hsplit (hp : p ∈ (w.paths.filter fun p => p.mask != 0).flatMap splitPath) : FormedOf w.paths p := by
    obtain ⟨q, hq, hpq⟩ := List.mem_flatMap.mp hp
    exact (splitPath_formed hpq).mono (by simpa using hsub hq)
  unfold settlePaths at h; extract_lets ps m at h
  have hmerge (q : Path) (hq : q ∈ m) : FormedOf w.paths q := (mergeAll_formed hq).mono hsub
  split at h
  · split at h
    · obtain ⟨q, hq, rfl⟩ := List.mem_map.mp h
      exact ⟨(hmerge q hq).stands, (hmerge q hq).lane⟩
    · exact hsplit h
  · split at h
    · exact hsplit h
    · exact hmerge p h

/-! ### The paths of a raise -/

/-- A path outside any run at one of some resume points. -/
def AtResume (resume : List (Nat × W64 × W64)) (p : Path) : Prop :=
  ∃ x ∈ resume, p.pc = x.2.1 ∧ p.run = x.2.2 ∧ p.inRun = none ∧ p.ending = none

theorem AtResume.of_standsAs {resume : List (Nat × W64 × W64)} (h : AtResume resume q) (hp : p.StandsAs q) : AtResume resume p := by
  obtain ⟨x, hx, h1, h2, h3, h4⟩ := h
  exact ⟨x, hx, hp.1.trans h1, hp.2.1.trans h2, hp.2.2.1.trans h3, hp.2.2.2.trans h4⟩

theorem stoppedPaths_atResume {base : Path} {resume : List (Nat × W64 × W64)} (h : p ∈ stoppedPaths base resume mark) : AtResume resume p := by
  obtain ⟨t, ht, rfl⟩ := List.mem_map.mp h
  obtain ⟨x, hx, rfl⟩ := List.mem_map.mp (mem_of_mem_distinct ht)
  exact ⟨x, hx, rfl, rfl, rfl, rfl⟩

/-- A path that a stopped warp keeps of its paths has lanes outside the raise alone. -/
theorem dropLanes_getLsbD {m : Mask} (h : p ∈ (w.dropLanes m).paths) (hn : p.mask.getLsbD n = true) : m.getLsbD n = false := by
  obtain ⟨q, -, rfl⟩ := List.mem_map.mp (List.mem_filter.mp h).1
  rw [BitVec.getLsbD_and, BitVec.getLsbD_not] at hn
  simp only [Bool.and_eq_true, Bool.not_eq_true'] at hn
  exact hn.2.2

theorem stopWarp_path_lane {clk : Nat} (h : p ∈ (stopWarp clk r mark w).paths) (hp : p.mask.getLsbD n = true) (hr : r.mask.getLsbD n = true) :
    AtResume r.resume p := by
  obtain ⟨q, hq, hqn, hpq⟩ := (settlePaths_formed h).lane n hp
  rcases List.mem_append.mp hq with hq | hq
  · exact absurd hr (by rw [dropLanes_getLsbD hq hqn]; decide)
  · exact (stoppedPaths_atResume hq).of_standsAs hpq

/-- A warp whose every path is in the raise. -/
theorem stopWarp_path_all {clk : Nat} (hd : (w.dropLanes r.mask).paths = []) (h : p ∈ (stopWarp clk r mark w).paths) : AtResume r.resume p := by
  obtain ⟨q, hq, hpq⟩ := (settlePaths_formed h).stands
  rcases List.mem_append.mp hq with hq | hq
  · exact absurd (hd ▸ hq) List.not_mem_nil
  · exact (stoppedPaths_atResume hq).of_standsAs hpq

end

end Sys2Proof.Machine

/-! ## Watchpoint marks, and what leaves them (R348) -/

namespace Sys2Proof.Machine

/-- The marks that watchpoint hits have left in a warp's lanes. -/
def Warp.marks (w : Warp) : WarpKey × List (Nat × Option W64) := (w.key, w.lanes.map fun l => (l.id, l.noMatch))

/-- A lane as before in its number and its mark. -/
def Lane.SameMark (l l' : Lane) : Prop := l'.id = l.id ∧ l'.noMatch = l.noMatch

/-- The mark of a lane among those of some warps. -/
def markIn (ms : List (WarpKey × List (Nat × Option W64))) (k : WarpKey) (n : Nat) : Option W64 :=
  (ms.find? fun e => e.1 == k).bind fun e => (e.2.find? fun l => l.1 == n).bind (·.2)

theorem laneAt_noMatch (s : State) (k : WarpKey) (n : Nat) : (s.laneAt k n).noMatch = markIn (s.warps.map Warp.marks) k n := by
  rw [markIn, List.find?_map, State.laneAt, State.warpAt, State.warpAt?]
  change _ = ((s.warps.find? fun w => w.key == k).map _).bind _
  cases s.warps.find? fun w => w.key == k with
  | none => rfl
  | some w =>
    simp only [Option.map_some, Option.bind_some, Option.getD_some, Warp.marks, Warp.laneAt, findD, List.find?_map]
    change _ = ((w.lanes.find? fun l => l.id == n).map _).bind _
    cases w.lanes.find? fun l => l.id == n <;> rfl

/-- The accesses, the marks of the lanes, and WHIT of every context are as before. -/
structure KeepsMarks (s t : State) : Prop where
  accesses : t.accesses = s.accesses
  marks : t.warps.map Warp.marks = s.warps.map Warp.marks
  whit : ∀ x, (t.ctxAt x).csrOf 0x111 = (s.ctxAt x).csrOf 0x111

section
variable {s t u : State} {k : WarpKey} {x n : Nat} {r : Raise} {w : Warp} {l : Lane}

namespace KeepsMarks

theorem refl (s : State) : KeepsMarks s s := ⟨rfl, rfl, fun _ => rfl⟩

theorem trans (h : KeepsMarks s t) (g : KeepsMarks t u) : KeepsMarks s u :=
  ⟨g.accesses.trans h.accesses, g.marks.trans h.marks, fun x => (g.whit x).trans (h.whit x)⟩

theorem foldl {α : Type} {f : State → α → State} (hf : ∀ s a, KeepsMarks s (f s a)) (l : List α) (s : State) :
    KeepsMarks s (l.foldl f s) := by
  induction l generalizing s with
  | nil => exact refl s
  | cons a r ih => exact (hf s a).trans (ih _)

theorem laneAt (h : KeepsMarks s t) (k : WarpKey) (n : Nat) : (t.laneAt k n).noMatch = (s.laneAt k n).noMatch := by
  rw [laneAt_noMatch, laneAt_noMatch, h.marks]

end KeepsMarks

theorem Recorded.keepsMarks (h : Recorded (· = 0x111) s t) : KeepsMarks s t :=
  ⟨h.keeps.accesses, by rw [h.keeps.warps], fun x => (h.csrs x 0x111 rfl).1⟩

theorem modCtx_keepsMarks {f : Ctx → Ctx} (hnum : ∀ c, (f c).num = c.num) (hw : ∀ c : Ctx, c.AgreeOn (· = 0x111) (f c)) :
    KeepsMarks s (s.modCtx x f) := (modCtx_recorded hnum hw).keepsMarks

theorem map_mapIf {α β : Type} {p : α → Bool} {f : α → α} {m : α → β} (hf : ∀ x, m (f x) = m x) (l : List α) :
    (mapIf p f l).map m = l.map m := by
  rw [mapIf, List.map_map]
  refine List.map_congr_left fun x _ => ?_
  rw [Function.comp]; split
  · exact hf x
  · rfl

theorem modWarp_keepsMarks {f : Warp → Warp} (hf : ∀ w, (f w).marks = w.marks) : KeepsMarks s (s.modWarp k f) :=
  ⟨rfl, map_mapIf hf _, fun _ => rfl⟩

theorem marks_mapLanes {m : Mask} {f : Lane → Lane} (hf : ∀ l : Lane, l.SameMark (f l)) (w : Warp) : (w.mapLanes m f).marks = w.marks := by
  refine Prod.ext rfl (map_mapIf (fun l => ?_) _)
  rw [(hf l).1, (hf l).2]

theorem marks_eachLane {f : Lane → Lane} (hf : ∀ l : Lane, l.SameMark (f l)) (w : Warp) : (w.eachLane f).marks = w.marks := by
  refine Prod.ext rfl ?_
  change (w.lanes.map f).map _ = _
  rw [List.map_map]
  exact List.map_congr_left fun l _ => by rw [Function.comp, (hf l).1, (hf l).2]

theorem modLanes_keepsMarks {m : Mask} {f : Lane → Lane} (hf : ∀ l : Lane, l.SameMark (f l)) :
    KeepsMarks s (s.modWarp k fun w => w.mapLanes m f) :=
  modWarp_keepsMarks (marks_mapLanes hf)

/-! ### Stops, traps and contexts that stop -/

theorem stopWarp_marks (clk : Nat) (r : Raise) (mark : Nat → Bool) (w : Warp) : (stopWarp clk r mark w).marks = w.marks := by
  rw [stopWarp_eq]
  exact marks_eachLane (f := stopLane r.resume) (fun l => by rw [stopLane_eq]; exact ⟨rfl, rfl⟩) w

theorem stopLanes_keepsMarks {mark : Nat → Bool} : KeepsMarks s (stopLanes s r mark) := by
  rw [stopLanes_eq]; exact modWarp_keepsMarks (stopWarp_marks _ _ _)

theorem sendDone_ctxs {org : Option Nat} : (sendDone s x org).ctxs = s.ctxs := by
  unfold sendDone; split <;> rfl

theorem resolveLaunch_ctxs {l : Launch} {f : EngOp → OpState} : (resolveLaunch s l f).ctxs = s.ctxs := by
  unfold resolveLaunch; split <;> rfl

theorem launchAnswer_ctxs {rank : Nat} {ok : Bool} : (launchAnswer s n rank ok).ctxs = s.ctxs := by
  unfold launchAnswer; extract_lets first u l
  split
  · rw [resolveLaunch_ctxs]
    split
    · exact sendDone_ctxs
    · rfl
  · rfl

theorem abortLaunches_recorded {P : Nat → Prop} : Recorded P s (abortLaunches s x) := by
  unfold abortLaunches; extract_lets rank u
  have hu : Recorded P s u := .foldl (fun _ _ => .of_ctxs launchAnswer_keepsBlocks launchAnswer_ctxs) _ s
  refine hu.trans (.foldl (fun v q => ?_) _ u)
  exact (Recorded.of_ctxs modQueue_keepsBlocks rfl).trans (.foldl (fun _ _ => .of_ctxs sendDone_keepsBlocks sendDone_ctxs) _ _)

theorem contextStop_recorded {P : Nat → Prop} {cause sub core wslot : Nat} : Recorded P s (contextStop s x cause sub core wslot) := by
  unfold contextStop
  split
  · exact .refl s
  · have h1 (v : W64) : Recorded P s (s.modCtx x fun c => { c with stopped := true, status := v }) :=
      modCtx_recorded (fun _ => rfl) fun c => .of_eq rfl rfl
    have h2 (u : State) : Recorded P u { u with msix := u.msix ++ [x] } := .of_ctxs (by constructor <;> rfl) rfl
    exact (((h1 _).trans (h2 _)).trans abortLaunches_recorded).trans (.of_ctxs addLog_keepsBlocks addLog_ctxs)

theorem takeTrap_keepsMarks {nrec : Nat} {fb : W32} : KeepsMarks s (takeTrap s r nrec fb) := by
  rw [takeTrap]
  split
  · exact contextStop_recorded.keepsMarks.trans stopLanes_keepsMarks
  · split
    · exact contextStop_recorded.keepsMarks.trans stopLanes_keepsMarks
    · have hkeep : KeepsMarks s (keepFromMigration s (s.warpAt r.key).blk) := ⟨rfl, rfl, fun _ => rfl⟩
      refine (hkeep.trans stopLanes_keepsMarks).trans (modWarp_keepsMarks fun w => ?_)
      split <;> rfl

/-! ### Effects of a run that act at a halt -/

theorem Lane.arrive_sameMark {next lvl num : Nat} {wait : Bool} (l : Lane) : l.SameMark (l.arrive next lvl num wait) := by
  rw [Lane.arrive]; split <;> exact ⟨rfl, rfl⟩

theorem releasePhase_marks {took : Mask} (w : Warp) : (releasePhase took w).marks = w.marks := by
  refine marks_mapLanes (fun l => ?_) _
  split <;> exact ⟨rfl, rfl⟩

/-- WHIT is read-only to words (R346). -/
theorem writeCtxCsr_keepsMarks {v : W32} {tm : Bool} : KeepsMarks s (writeCtxCsr s x n v tm) := by
  have hset (hn : n ≠ 0x111) (g : Ctx → W32) : KeepsMarks s (s.modCtx x fun c => c.setCsr n (g c)) :=
    modCtx_keepsMarks (fun _ => rfl) fun c => Ctx.setCsr_agree hn
  have hro : csrInfo 0x111 = some (.context, .ro) := rfl
  rw [writeCtxCsr]
  split
  · next h => exact hset (fun e => by rw [e, hro] at h; cases h) _
  · next h => exact hset (fun e => by rw [e, hro] at h; cases h) fun c => c.csrOf n &&& (~~~v ||| c.stickyNow s.clk)
  · next h =>
    split
    · exact hset (fun e => by rw [e, hro] at h; cases h) _
    · exact .refl s
  · exact .refl s

theorem csrwContext_keepsMarks {v : W32} {tm : Bool} : KeepsMarks s (csrwContext s k x n v tm) := by
  have hby (u : State) : KeepsMarks u (u.modCtx x fun c => { c with csrBy := smSet c.csrBy n (s.ts, sourceOf k) }) :=
    modCtx_keepsMarks (fun _ => rfl) fun c => .of_eq rfl rfl
  rw [csrwContext]
  split
  · split
    · exact .refl s
    · exact writeCtxCsr_keepsMarks.trans (hby _)
  · exact writeCtxCsr_keepsMarks.trans (hby _)

theorem applyCsrw_keepsMarks {vals : List (Nat × W32)} : KeepsMarks s (applyCsrw s k n vals) := by
  rw [applyCsrw]
  split
  · exact modWarp_keepsMarks (marks_eachLane fun l => by split <;> exact ⟨rfl, rfl⟩)
  · exact modWarp_keepsMarks fun _ => rfl
  · exact csrwContext_keepsMarks
  · exact .refl s

theorem applyEff_keepsMarks {m : Mask} {e : RunEff} : KeepsMarks s (applyEff s k m e) := by
  unfold applyEff
  split
  · split
    · exact modLanes_keepsMarks Lane.arrive_sameMark
    · exact .refl s
  · exact .refl s
  · exact modWarp_keepsMarks releasePhase_marks
  · exact applyCsrw_keepsMarks
  · split
    · exact .refl s
    · exact ⟨rfl, rfl, fun _ => rfl⟩
  · exact .refl s
  · exact .refl s

theorem settleEff_keepsMarks {e : RunEff} : KeepsMarks s (settleEff s k e) := by
  have hkept (u : State) (m : Mask) (es : List RunEff) : KeepsMarks u (u.modWarp k fun w => w.mapLanes m fun l => { l with kept := l.kept ++ es }) :=
    modLanes_keepsMarks fun _ => ⟨rfl, rfl⟩
  unfold settleEff
  split
  · exact (modLanes_keepsMarks Lane.arrive_sameMark).trans (hkept _ _ _)
  · exact (modLanes_keepsMarks Lane.arrive_sameMark).trans (hkept _ _ _)
  · exact hkept _ _ _
  · exact hkept _ _ _
  · exact applyEff_keepsMarks

/-! ### Halts -/

/-- A lane as before but for its registers and its results in flight. -/
structure Lane.SameStand (l l' : Lane) : Prop where
  mark : l.SameMark l'
  pc : l'.pc = l.pc
  run : l'.run = l.run

theorem Lane.write_sameStand (l : Lane) (code : Nat) (v : W32) : l.SameStand (l.write code v) := by
  rw [Lane.write]; (repeat' split) <;> exact ⟨⟨rfl, rfl⟩, rfl, rfl⟩

theorem Lane.commitAll_sameStand (l : Lane) : l.SameStand l.commitAll := by
  suffices h : ∀ (fs : List FixWrite) (y : Lane), l.SameStand y → l.SameStand (fs.foldl (fun l f => l.write f.code f.val) y) from
    h _ _ ⟨⟨rfl, rfl⟩, rfl, rfl⟩
  intro fs
  induction fs with
  | nil => exact fun _ h => h
  | cons f fs ih =>
    intro y h
    obtain ⟨⟨hid, hmark⟩, hpc, hrun⟩ := Lane.write_sameStand y f.code f.val
    exact ih _ ⟨⟨hid.trans h.mark.1, hmark.trans h.mark.2⟩, hpc.trans h.pc, hrun.trans h.run⟩

/-- A lane of a warp that comes to its halt: its results are written, and it shows where its path stands. -/
def haltLane (w : Warp) (l : Lane) : Lane :=
  match w.pathOf? l.commitAll.id with
  | some p => { l.commitAll with pc := p.pc, run := p.run }
  | none => l.commitAll

theorem haltLane_sameMark (w : Warp) (l : Lane) : l.SameMark (haltLane w l) := by
  have h := (Lane.commitAll_sameStand l).mark
  rw [haltLane]; split <;> exact h

/-- Every path of a warp may halt where it stands. -/
def mayHalt (s : State) (w : Warp) : Bool := w.paths.all fun p => p.atBoundary && !midRun s w p

theorem settleHalt_none (h : w.haltReq = none) : settleHalt s w = w := by
  rw [settleHalt, h]

theorem settleHalt_some {reason : Nat} (h : w.haltReq = some reason) : settleHalt s w =
    if mayHalt s w then
      { w.eachLane (haltLane w) with
        halt := true
        haltReq := none
        reason := reason
        paths := w.paths.map fun p => { p with hold := none } }
    else w := by
  rw [settleHalt, h]; rfl

theorem settleHalt_marks (w : Warp) : (settleHalt s w).marks = w.marks := by
  cases h : w.haltReq with
  | none => rw [settleHalt_none h]
  | some reason =>
    rw [settleHalt_some h]; split
    · exact marks_eachLane (haltLane_sameMark w) w
    · rfl

theorem askHalt_marks {reason : Nat} (w : Warp) : (w.askHalt reason).marks = w.marks := by
  rw [Warp.askHalt]; split <;> rfl

theorem requestHalt_keepsMarks {reason : Nat} : KeepsMarks s (requestHalt s k reason) := by
  unfold requestHalt; extract_lets w u
  have hask (v : Warp) (n : Nat) (y : State) : (settleHalt y (v.askHalt n)).marks = v.marks := (settleHalt_marks _).trans (askHalt_marks v)
  have hu : KeepsMarks s u := (modWarp_keepsMarks (k := k) fun v => hask v reason s).trans ⟨rfl, rfl, fun _ => rfl⟩
  split
  · exact hu.trans ⟨rfl, map_mapIf (fun v => hask v 3 u) _, fun _ => rfl⟩
  · exact hu

theorem haltLanes_keepsMarks {c : Cur} {reason : Nat} : KeepsMarks s (haltLanes s c reason r) := by
  unfold haltLanes; extract_lets u q
  have hdefer : KeepsMarks s (deferIcinv s c.key c.p.mask r.effs) := modWarp_keepsMarks fun _ => rfl
  have hu : KeepsMarks s u := hdefer.trans (.foldl (fun _ _ => settleEff_keepsMarks) _ _)
  refine ((hu.trans stopLanes_keepsMarks).trans requestHalt_keepsMarks).trans (modWarp_keepsMarks fun w => ?_)
  split <;> rfl

end

end Sys2Proof.Machine

/-! ## The halt in place of a trap, and the words that watchpoints match (R341, R342, R344, R348) -/

namespace Sys2Proof.Machine

section
open Sys2Proof.Claims
variable {s t : State} {c : Cur} {i : Instr} {k : WarpKey} {n reason : Nat} {r : Raise} {w : Warp} {pc : W64}

theorem settleHalt_key (w : Warp) : (settleHalt s w).key = w.key := congrArg Prod.fst (settleHalt_marks w)

theorem askHalt_key (w : Warp) : (w.askHalt reason).key = w.key := congrArg Prod.fst (askHalt_marks w)

/-- Nothing else of a warp changes as it comes to its halt. -/
theorem settleHalt_request (w : Warp) : (settleHalt s w).trapReq = w.trapReq ∧ (settleHalt s w).deferred = w.deferred := by
  cases h : w.haltReq with
  | none => rw [settleHalt_none h]; exact ⟨rfl, rfl⟩
  | some x => rw [settleHalt_some h]; split <;> exact ⟨rfl, rfl⟩

theorem askHalt_eq (w : Warp) : w.askHalt reason = { w with haltReq := (w.askHalt reason).haltReq } := by
  rw [Warp.askHalt]; split <;> rfl

theorem askHalt_new (hh : w.halt = false) (hr : w.haltReq = none) : w.askHalt reason = { w with haltReq := some reason } := by
  rw [Warp.askHalt, if_neg (by simp [hh, hr])]

theorem askHalt_halted (hh : w.halt = true) : w.askHalt reason = w := by
  rw [Warp.askHalt, if_pos (by simp [hh])]

/-- A lane of a warp that comes to its halt stands where it stood when it has no path, or when its path stands there. -/
theorem settleHalt_laneAt (hn : w.hasLane n) (hl : (w.laneAt n).pc = pc ∧ (w.laneAt n).run = 0#64)
    (hp : ∀ p, w.pathOf? n = some p → p.pc = pc ∧ p.run = 0#64) :
    ((settleHalt s w).laneAt n).pc = pc ∧ ((settleHalt s w).laneAt n).run = 0#64 := by
  cases h : w.haltReq with
  | none => rw [settleHalt_none h]; exact hl
  | some x =>
    rw [settleHalt_some h]
    split
    · have hat : (w.eachLane (haltLane w)).laneAt n = haltLane w (w.laneAt n) :=
        Warp.laneAt_eachLane w _ (fun l => (haltLane_sameMark w l).1) hn
      change ((w.eachLane (haltLane w)).laneAt n).pc = pc ∧ ((w.eachLane (haltLane w)).laneAt n).run = 0#64
      obtain ⟨⟨hid, -⟩, hpc, hrun⟩ := Lane.commitAll_sameStand (w.laneAt n)
      rw [hat, haltLane, hid, Warp.laneAt_id hn]
      split
      · next p hpath => exact hp p hpath
      · exact ⟨hpc.trans hl.1, hrun.trans hl.2⟩
    · exact hl

/-- The warp of a halt request. -/
theorem requestHalt_warpAt? (hw : s.warpAt? k = some w) : ∃ u, (requestHalt s k reason).warpAt? k = some (settleHalt u (w.askHalt reason)) := by
  have hkey (y : State) (m : Nat) (v : Warp) : (settleHalt y (v.askHalt m)).key = v.key := (settleHalt_key _).trans (askHalt_key v)
  have hself : (s.modWarp k fun v => settleHalt s (v.askHalt reason)).warpAt? k = some (settleHalt s (w.askHalt reason)) :=
    State.warpAt?_modWarp_self _ (hkey s reason) hw
  refine ⟨s, ?_⟩
  unfold requestHalt; extract_lets v u
  split
  · change (mapIf _ _ u.warps).find? _ = _
    rw [find?_mapIf_of_eq _ _ _ fun v _ => by rw [hkey]]
    change (u.warpAt? k).map _ = _
    rw [show u.warpAt? k = _ from hself, Option.map_some, if_neg (by simp [hkey, State.warpAt?_key hw])]
  · exact hself

theorem deferIcinv_nil (m : Mask) : deferIcinv s k m [] = s := by
  simp [deferIcinv, State.modWarp, mapIf]

/-- A raise whose lanes resume outside any run. -/
def outsideRun (r : Raise) : Raise := { r with resume := r.resume.map fun x => (x.1, x.2.1, 0#64) }

/-- A warp that is halted takes the new reason (R341). -/
def haltEnd (reason : Nat) (w : Warp) : Warp := if w.halt then { w with reason := reason } else w

/-- The warp that a halt in place of a trap leaves, when no effect of its run acts. -/
theorem haltLanes_warpAt? (hw : s.warpAt? c.key = some w) (hk : r.key = c.key) (he : r.effs = []) : ∃ u,
    (haltLanes s c reason r).warpAt? c.key =
      some (haltEnd reason (settleHalt u ((stopWarp s.clk (outsideRun r) (fun _ => false) w).askHalt reason))) := by
  have hstop : (stopLanes s (outsideRun r) fun _ => false).warpAt? c.key = some (stopWarp s.clk (outsideRun r) (fun _ => false) w) := by
    rw [stopLanes_eq]
    exact hk ▸ State.warpAt?_modWarp_self _ (stopWarp_key _ _ _) (hk ▸ hw)
  obtain ⟨u, hu⟩ := requestHalt_warpAt? (reason := reason) hstop
  have hfold : haltLanes s c reason r = (requestHalt (stopLanes s (outsideRun r) fun _ => false) c.key reason).modWarp c.key (haltEnd reason) := by
    unfold haltLanes
    rw [he, deferIcinv_nil]; rfl
  refine ⟨u, ?_⟩
  rw [hfold]
  exact State.warpAt?_modWarp_self _ (fun v => by rw [haltEnd]; split <;> rfl) hu

theorem haltEnd_halted (hh : w.halt = true) : (haltEnd reason w).halt = true ∧ (haltEnd reason w).reason = reason := by
  rw [haltEnd, if_pos hh]; exact ⟨hh, rfl⟩

theorem haltEnd_running (hh : w.halt = false) : haltEnd reason w = w := by
  rw [haltEnd, if_neg (by simp [hh])]

theorem haltEnd_eq (w : Warp) : haltEnd reason w = { w with reason := (haltEnd reason w).reason } := by
  rw [haltEnd]; split <;> rfl

/-- A halt that is asked of a warp with none: it is reached, or still to come. -/
theorem haltEnd_asked (hh : w.halt = false) (hq : w.haltReq = none) :
    (mayHalt s (w.askHalt reason) = true ∧ (haltEnd reason (settleHalt s (w.askHalt reason))).halt = true ∧
      (haltEnd reason (settleHalt s (w.askHalt reason))).reason = reason) ∨
    (mayHalt s (w.askHalt reason) = false ∧ (haltEnd reason (settleHalt s (w.askHalt reason))).halt = false ∧
      (haltEnd reason (settleHalt s (w.askHalt reason))).haltReq = some reason) := by
  have hnew := askHalt_new (reason := reason) hh hq
  have hreq : (w.askHalt reason).haltReq = some reason := by rw [hnew]
  have hrun : (w.askHalt reason).halt = false := by rw [hnew]; exact hh
  rw [settleHalt_some hreq]
  cases mayHalt s (w.askHalt reason) with
  | true => exact .inl ⟨rfl, haltEnd_halted rfl⟩
  | false =>
    rw [if_neg Bool.false_ne_true, haltEnd_running hrun]
    exact .inr ⟨rfl, hrun, hreq⟩

/-- Every lane of the raise resumes at one PC, outside any run. -/
def AllResumeAt (r : Raise) (pc : W64) : Prop := ∀ x ∈ r.resume, x.2 = (pc, 0#64)

theorem AtResume.stands {p : Path} (h : AtResume r.resume p) (hr : AllResumeAt r pc) :
    p.pc = pc ∧ p.run = 0#64 ∧ p.inRun = none ∧ p.ending = none := by
  obtain ⟨x, hx, h1, h2, h3, h4⟩ := h
  rw [hr x hx] at h1 h2
  exact ⟨h1, h2, h3, h4⟩

/-- A path outside any run does not hold up a halt. -/
theorem mayHalt_of_stands (h : ∀ p ∈ w.paths, p.run = 0#64 ∧ p.inRun = none ∧ p.ending = none) : mayHalt s w = true := by
  refine List.all_eq_true.mpr fun p hp => ?_
  obtain ⟨hrun, hin, hend⟩ := h p hp
  simp [midRun, Path.atBoundary, hrun, hin, hend]

/-- The paths of a warp are those of the raise alone. -/
theorem dropLanes_singleton {p : Path} (h : w.paths = [p]) : (w.dropLanes p.mask).paths = [] := by
  have hz : p.mask &&& ~~~p.mask = 0#32 := by simp
  simp [Warp.dropLanes, h, hz]

/-- What a halt in place of a trap leaves of the issuing warp. -/
theorem haltLanes_halts (hw : s.warpAt? c.key = some w) (hl : w = { c.w with lanes := w.lanes }) (hlanes : ∀ n, c.w.hasLane n → w.hasLane n)
    (hk : r.key = c.key) (he : r.effs = []) (hm : r.mask = c.p.mask) (hr : AllResumeAt (outsideRun r) pc)
    (hstand : ∀ n, c.w.hasLane n → c.p.mask.getLsbD n = true →
      (stopLane (outsideRun r).resume (w.laneAt n)).pc = pc ∧ (stopLane (outsideRun r).resume (w.laneAt n)).run = 0#64)
    (ht : t.warps = (haltLanes s c reason r).warps) : Halts t c reason pc := by
  obtain ⟨u, hu⟩ := haltLanes_warpAt? (reason := reason) hw hk he
  obtain ⟨x, hx⟩ : ∃ x, x = stopWarp s.clk (outsideRun r) (fun _ => false) w := ⟨_, rfl⟩
  have hat : t.warpAt c.key = haltEnd reason (settleHalt u (x.askHalt reason)) := by
    rw [State.warpAt, State.warpAt?, ht, hx]
    exact congrArg (Option.getD · _) hu
  obtain ⟨hxh, hxq, hxt, hxd⟩ : x.halt = c.w.halt ∧ x.haltReq = c.w.haltReq ∧ x.trapReq = c.w.trapReq ∧ x.deferred = c.w.deferred := by
    rw [hx, stopWarp_eq, hl]; exact ⟨rfl, rfl, rfl, rfl⟩
  unfold Halts; dsimp only; rw [hat]
  refine ⟨?_, ?_, fun hh hq => ?_, fun hh hq hpaths => ?_, fun hh hq => ?_, fun n hn hbit => ?_⟩
  · rw [haltEnd_eq, ← hxt]; exact (settleHalt_request _).1.trans (by rw [askHalt_eq])
  · rw [haltEnd_eq, ← hxd]; exact (settleHalt_request _).2.trans (by rw [askHalt_eq])
  · rcases haltEnd_asked (s := u) (reason := reason) (hxh.trans hh) (hxq.trans hq) with ⟨-, h⟩ | ⟨-, h⟩
    · exact .inl h
    · exact .inr h
  · have hall : mayHalt u (x.askHalt reason) = true := mayHalt_of_stands fun p hp => by
      rw [askHalt_eq, hx] at hp
      have hdrop : (w.dropLanes (outsideRun r).mask).paths = [] := by
        change (w.dropLanes r.mask).paths = []
        rw [hm]; exact dropLanes_singleton (by rw [hl]; exact hpaths)
      have hat : AtResume (outsideRun r).resume p := stopWarp_path_all hdrop hp
      exact (hat.stands hr).2
    rcases haltEnd_asked (s := u) (reason := reason) (hxh.trans hh) (hxq.trans hq) with ⟨-, h⟩ | ⟨hno, -⟩
    · exact h
    · exact absurd (hall.symm.trans hno) (by decide)
  · rw [askHalt_halted (hxh.trans hh), settleHalt_none (hxq.trans hq)]
    exact haltEnd_halted (hxh.trans hh)
  · have hxn : x.laneAt n = stopLane (outsideRun r).resume (w.laneAt n) := by rw [hx]; exact stopWarp_laneAt _ _ _ (hlanes n hn)
    have hyn : (x.askHalt reason).hasLane n := by
      rw [askHalt_eq, hx, stopWarp_eq]
      exact (Warp.hasLane_eachLane (stopLane_id _)).mpr (hlanes n hn)
    have hyat : (x.askHalt reason).laneAt n = x.laneAt n := by rw [askHalt_eq]; rfl
    have hend : t.laneAt c.key n = (settleHalt u (x.askHalt reason)).laneAt n := by rw [State.laneAt, hat, haltEnd_eq]; rfl
    rw [hend]
    refine settleHalt_laneAt hyn (by rw [hyat, hxn]; exact hstand n hn hbit) fun p hp => ?_
    have hmem : p ∈ x.paths := by rw [askHalt_eq] at hp; exact List.mem_of_find?_eq_some hp
    have hpn : p.mask.getLsbD n = true := by simpa using List.find?_some hp
    rw [hx] at hmem
    have hbit' : (outsideRun r).mask.getLsbD n = true := by
      change r.mask.getLsbD n = true
      rw [hm]; exact hbit
    have hat : AtResume (outsideRun r).resume p := stopWarp_path_lane hmem hpn hbit'
    obtain ⟨hpc, hrun, -, -⟩ := hat.stands hr
    exact ⟨hpc, hrun⟩

end

end Sys2Proof.Machine

namespace Sys2Proof.Machine

section
open Sys2Proof.Claims
variable {s : State} {c : Cur} {i : Instr} {h : Hdr} {n wp b : Nat} {r : Raise} {w : Warp}

/-! ### The words that watchpoints match -/

/-- A cause that is not raised per lane, outside helper bodies, traps without records. -/
theorem raiseWord_plain (hw : s.warpAt? r.key = some w) (hbody : bodyLanes w r.mask = []) (hf : r.faults = []) (hm : r.mask ≠ 0#32)
    (htl : r.tl ≠ 0#32) : raiseWord s r = takeTrap s (trapRaise r r.cause) 0 ((s.ctxAt w.ctx).csrOf 0x23) := by
  have hat : s.warpAt r.key = w := by rw [State.warpAt, hw]; rfl
  have hm' : ¬ r.mask = 0 := hm
  have htl' : ¬ r.tl = 0 := htl
  rw [raiseWord]
  simp only [hat, hbody, hf, Raise.without_none, beq_iff_eq, hm', htl', if_false]
  rfl

/-- A lane that a hit has marked. -/
def hitLane (c : Cur) (l : Lane) : Lane := { l with noMatch := some c.pc }

/-- The state in which a hit raises its cause: WHIT is written, and the hit lanes do not match again at the word (R348). -/
def hitState (s : State) (c : Cur) (m : Mask) (whit : W32) : State :=
  (s.modCtx c.w.ctx fun x => x.setCsr 0x111 whit).modWarp c.key fun w => w.mapLanes m (hitLane c)

/-- What follows the marks of a hit: the halt under DBGCTL.BKHALT, or the trap. -/
def hitOutcome (t : State) (c : Cur) (m : Mask) : State :=
  if bkHalt t c.w then popIssue (haltLanes t c 2 (raiseHere c cWatch m [])) else trapWord t c cWatch m

theorem watchWord_eq {hits rest : List (Nat × Nat × Nat)} {l : Nat} (h : hits = (l, wp, b) :: rest) : watchWord s c hits =
    hitOutcome (hitState s c (maskOf (hits.map (·.1))) (BitVec.ofNat 32 (256 + b * 16 + wp))) c (maskOf (hits.map (·.1))) := by
  subst h; rfl

/-- A store word that watchpoints match makes no access: it is its hits alone. -/
theorem memWord_hits {data : State → Lane → W128} {cmp : State → Lane → W64} {m : MemRow}
    (hi : Issues i s c) (hst : m.form.store = true) (hne : hitLanes s c m ≠ []) :
    memWord i m.hdr m.form (fun s l => (m.addr s l).toNat) data cmp s = watchWord s c (hitLanes s c m) := by
  unfold memWord; rw [runWord_ok hi.cur hi.ok]; extract_lets act x hits
  have hhits : hits = hitLanes s c m := by
    simp only [hits, hst, if_true, hitLanes, beq_iff_eq]; rfl
  rw [if_pos (by simpa [hhits] using hne), hhits]

/-- A lane that hits executes the word. -/
theorem mask_of_hit {m : MemRow} {e : Nat × Nat × Nat} (hc : cur? s = some c) (he : e ∈ hitLanes s c m) : c.p.mask.getLsbD e.1 = true := by
  obtain ⟨l, hl, hsome⟩ := List.mem_filterMap.mp he
  have hid : l.id = e.1 := by
    split at hsome
    · cases hsome
    · obtain ⟨y, -, rfl⟩ := Option.map_eq_some_iff.mp hsome
      rfl
  exact hid ▸ mask_of_active hc hl

theorem hitMask_of_hit {m : MemRow} {e : Nat × Nat × Nat} (hc : cur? s = some c) (he : e ∈ hitLanes s c m) :
    (maskOf ((hitLanes s c m).map (·.1))).getLsbD e.1 = true := by
  rw [maskOf_getLsbD, decide_eq_true (BitVec.lt_of_getLsbD (mask_of_hit hc he)), List.contains_iff_mem.mpr (List.mem_map_of_mem he)]; rfl

section
variable {m : Mask} {whit : W32}

theorem hitState_recorded : Recorded (· ≠ 0x111) s (s.modCtx c.w.ctx fun x => x.setCsr 0x111 whit) :=
  modCtx_recorded (fun _ => rfl) fun _ => Ctx.setCsr_agree fun hne => hne rfl

theorem hitState_csrOf {k : Nat} (hk : k ≠ 0x111) (x : Nat) : ((hitState s c m whit).ctxAt x).csrOf k = (s.ctxAt x).csrOf k :=
  (hitState_recorded.csrs x k hk).1

theorem hitState_whit : ((hitState s c m whit).ctxAt c.w.ctx).csrOf 0x111 = whit := by
  have hat : (hitState s c m whit).ctxAt c.w.ctx = (s.ctxAt c.w.ctx).setCsr 0x111 whit :=
    (State.ctxAt_modCtx (s := s) (f := fun x => x.setCsr 0x111 whit) fun _ => rfl).trans (if_pos rfl)
  rw [hat]; exact Ctx.csrOf_setCsr_self

/-- The warp of the hits, in which their lanes are marked. -/
def hitWarp (c : Cur) (m : Mask) : Warp := c.w.mapLanes m (hitLane c)

theorem hitState_warpAt? (hc : cur? s = some c) : (hitState s c m whit).warpAt? c.key = some (hitWarp c m) :=
  State.warpAt?_modWarp_self (s := s.modCtx c.w.ctx fun x => x.setCsr 0x111 whit) _ (fun _ => rfl) (cur?_some hc).2.1

theorem hitWarp_hasLane : (hitWarp c m).hasLane n ↔ c.w.hasLane n := Warp.hasLane_mapLanes (f := hitLane c) fun _ => rfl

theorem hitState_noMatch (hc : cur? s = some c) (hn : c.w.hasLane n) (hm : m.getLsbD n = true) :
    ((hitState s c m whit).laneAt c.key n).noMatch = some c.pc := by
  rw [State.laneAt, State.warpAt, hitState_warpAt? hc, Option.getD_some, hitWarp, Warp.laneAt_mapLanes c.w m (hitLane c) (fun _ => rfl) hn, if_pos hm]
  rfl

theorem hitState_trapWord (hc : cur? s = some c) (hbody : bodyOf c = []) (hm : m.getLsbD n = true) (hp : c.p.mask.getLsbD n = true) :
    trapWord (hitState s c m whit) c cWatch m =
      popIssue (takeTrap (hitState s c m whit) (trapRaise (raiseHere c cWatch m []) cWatch) 0 (fbHead s c.w)) := by
  have hnobody : bodyLanes (hitWarp c m) c.p.mask = [] :=
    bodyLanes_mapLanes (g := hitLane c) (fun _ => ⟨rfl, rfl⟩) _ (bodyLanes_of_bodyOf hc hbody fun _ hn => hn)
  rw [trapWord, raiseWord_plain (w := hitWarp c m) (hitState_warpAt? hc) hnobody rfl (ne_zero_of_getLsbD hp) (ne_zero_of_getLsbD hm)]
  exact congrArg (fun fb => popIssue (takeTrap _ _ 0 fb)) (hitState_csrOf (by decide) _)

theorem popIssue_keepsMarks (u : State) : KeepsMarks u (popIssue u) := ⟨rfl, rfl, fun _ => rfl⟩

theorem popIssue_warps (u : State) : (popIssue u).warps = u.warps := rfl

theorem popIssue_warpAt (u : State) (k : WarpKey) : (popIssue u).warpAt k = u.warpAt k := rfl

theorem popIssue_laneAt (u : State) (k : WarpKey) (n : Nat) : (popIssue u).laneAt k n = u.laneAt k n := rfl

/-- The hits raise WATCH: with a handler, outside trap mode and with no trap before it, the trap waits for its entry. -/
theorem hitState_traps (hc : cur? s = some c) (hbody : bodyOf c = []) (hm : m.getLsbD n = true) (hp : c.p.mask.getLsbD n = true)
    (hb : hasHandler s c.key c.w) (hh : c.p.handler = false) (htm : c.w.trapMode = false) (hq : c.w.trapReq = none) :
    ((trapWord (hitState s c m whit) c cWatch m).warpAt c.key).trapReq =
      some ⟨cWatch, 0, c.pc, 0, m, 0, 0, 0, 0, fbHead s c.w, noted c.r⟩ ∧
    ∀ q, c.w.hasLane q → c.p.mask.getLsbD q = true → ((trapWord (hitState s c m whit) c cWatch m).laneAt c.key q).pc = (resumeAt c).1 ∧
      ((trapWord (hitState s c m whit) c cWatch m).laneAt c.key q).run = (resumeAt c).2 := by
  have hbase : ((hitState s c m whit).ctxFor c.key.core c.w.ctx).csr64 0x1C = (s.ctxFor c.key.core c.w.ctx).csr64 0x1C :=
    (hitState_recorded (c := c) (whit := whit)).csr64 (by decide) (by decide) _
  have hb' : ((hitState s c m whit).ctxFor c.key.core c.w.ctx).csr64 0x1C ≠ 0 := by rw [hbase]; exact hb
  obtain ⟨-, hreq, hlanes⟩ := takeTrap_waits (r := trapRaise (raiseHere c cWatch m []) cWatch) (nrec := 0) (fb := fbHead s c.w)
    (hitState_warpAt? hc) hb' hh htm hq
  rw [hitState_trapWord hc hbody hm hp]
  refine ⟨(congrArg Warp.trapReq (popIssue_warpAt _ _)).trans hreq, fun q hq hbit => ?_⟩
  have hq' : (hitWarp c m).hasLane q := hitWarp_hasLane.mpr hq
  have hlane := (popIssue_laneAt _ _ _).trans (hlanes q hq')
  have hstand := stopLane_resume hc hq hbit (Warp.laneAt_id hq') fun _ => resumeAt c
  exact ⟨(congrArg Lane.pc hlane).trans (congrArg Prod.fst hstand), (congrArg Lane.run hlane).trans (congrArg Prod.snd hstand)⟩

/-- Under DBGCTL.BKHALT the hits halt the warp. -/
theorem hitState_halts {t : State} (hc : cur? s = some c) (he : c.r.effs = [])
    (ht : t.warps = (haltLanes (hitState s c m whit) c 2 (raiseHere c cWatch m [])).warps) : Halts t c 2 c.pc := by
  have hresume : (outsideRun (raiseHere c cWatch m [])).resume = c.lanes.map fun l => (l.id, (c.pc, 0#64)) := by
    change (c.lanes.map fun l => (l.id, resumeAt c)).map _ = _
    rw [List.map_map]; rfl
  refine haltLanes_halts (hitState_warpAt? hc) rfl (fun n hn => hitWarp_hasLane.mpr hn) rfl he rfl (fun x hx => ?_) (fun n hn hbit => ?_) ht
  · rw [hresume] at hx
    obtain ⟨l, -, rfl⟩ := List.mem_map.mp hx
    rfl
  · rw [hresume]
    exact Prod.mk.inj (stopLane_resume hc hn hbit (Warp.laneAt_id (hitWarp_hasLane.mpr hn)) fun _ => (c.pc, 0#64))

theorem hitState_accesses : (hitState s c m whit).accesses = s.accesses := rfl

theorem hitState_mem : (hitState s c m whit).mem = s.mem := rfl

/-- A hit changes no access, no byte of memory, and no mark or WHIT after it has set them. -/
theorem hitOutcome_keeps (hc : cur? s = some c) (hbody : bodyOf c = []) (hm : m.getLsbD n = true) (hp : c.p.mask.getLsbD n = true) :
    KeepsMarks (hitState s c m whit) (hitOutcome (hitState s c m whit) c m) ∧ (hitOutcome (hitState s c m whit) c m).mem = s.mem := by
  rw [hitOutcome]
  split
  · exact ⟨haltLanes_keepsMarks.trans (popIssue_keepsMarks _), by rw [popIssue_mem, haltLanes_mem, hitState_mem]⟩
  · rw [hitState_trapWord hc hbody hm hp]
    exact ⟨takeTrap_keepsMarks.trans (popIssue_keepsMarks _), by rw [popIssue_mem, takeTrap_mem, hitState_mem]⟩

theorem hitState_bkHalt : bkHalt (hitState s c m whit) c.w = ((s.ctxAt c.w.ctx).csrOf 0x110).getLsbD 0 :=
  congrArg (BitVec.getLsbD · 0) (hitState_csrOf (by decide) _)

end

end

end Sys2Proof.Machine

namespace Sys2Proof.Claims

open Sys2Proof.Machine

/-- Settles O30: a word whose every lane faults changes nothing before its trap is raised, and a hit changes only WHIT and the marks of its
lanes before its trap or its halt; the records and the stops leave what the statement names. -/
theorem faultingLanesTrap : Obligations.FaultingLanesTrap := by
  unfold Obligations.FaultingLanesTrap
  refine ⟨fun i r s c l ls k hr hi hact hk hls hwp hbody hb hstop hh hm hq => ?_, fun i r s c n wp b rest hr hst hi hhits hbody => ?_,
    fun x kind va n wp b => watchHit_some⟩
  · obtain ⟨t, fb, hex, ⟨hacc, hreq, hlanes⟩, hfb⟩ :=
      (faultRow_faults hr hi hact hk hls hwp).trap hi.cur hact hbody hb hstop hh hm hq
    refine ⟨t, fb, hex, hacc, hfb, hreq, fun n hn hbit => ?_⟩
    have hstand := hlanes n hn hbit
    exact ⟨(congrArg Prod.fst hstand).trans (apply_ite Prod.fst _ _ _), (congrArg Prod.snd hstand).trans (apply_ite Prod.snd _ _ _)⟩
  · obtain ⟨data, cmp, hex⟩ := exec_memRow hr s
    rw [memWord_hits hi hst (by rw [hhits]; exact List.cons_ne_nil _ _), watchWord_eq hhits] at hex
    have hfirst : (n, wp, b) ∈ hitLanes s c r := hhits ▸ List.mem_cons_self
    have hm := hitMask_of_hit hi.cur hfirst
    have hp := mask_of_hit hi.cur hfirst
    obtain ⟨hkeep, hmem⟩ := hitOutcome_keeps (whit := BitVec.ofNat 32 (256 + b * 16 + wp)) hi.cur hbody hm hp
    refine ⟨_, hex, hkeep.accesses.trans hitState_accesses, hmem, ?_, fun e he hn => ?_, fun hdbg hb hh htm hq => ?_, fun hdbg he => ?_⟩
    · rw [hkeep.whit, hitState_whit, Nat.mul_comm]
    · rw [hkeep.laneAt]; exact hitState_noMatch hi.cur hn (hitMask_of_hit hi.cur he)
    · rw [hitOutcome, if_neg (by rw [hitState_bkHalt, hdbg]; decide)]
      exact hitState_traps hi.cur hbody hm hp hb hh htm hq
    · rw [hitOutcome, if_pos (by rw [hitState_bkHalt, hdbg])]
      exact hitState_halts hi.cur he (popIssue_warps _)

end Sys2Proof.Claims
